-- ==== Sys2Proof/Word.lean ====
section
/-!
DEFINITION. The plain types of the operands: bytes, the numbers of slots, zones, lanes and patterns, and the shapes of
the fields a command carries. No behaviour stands here.
-/

namespace Sys2Proof

/-- A byte on a link or in the configuration store. -/
abbrev Byte := BitVec 8

/-- A head slot; slot number n (1..12) is the index n - 1. -/
abbrev SlotId := Fin 12

/-- A clamp zone; zone number n (1..8) is the index n - 1. -/
abbrev ZoneId := Fin 8

/-- A rivet lane; lane 1 is index 0, lane 2 is index 1. -/
abbrev LaneId := Fin 2

/-- A pattern; pattern number n (1..4) is the index n - 1. -/
abbrev PatternId := Fin 4

/-- The two gantry rails. -/
inductive Rail where
  | a | b
  deriving DecidableEq, Repr

/-- The two channels of the guard chain (R149). -/
inductive Channel where
  | one | two
  deriving DecidableEq, Repr

/-- The level of a guard channel: `closed` while its loop is whole (section 7.4). -/
inductive Level where
  | closed | opened
  deriving DecidableEq, Repr

/-- A link of the block: the cell link or the head link of a slot. -/
inductive LinkId where
  | cell
  | head (slot : SlotId)
  deriving DecidableEq, Repr

/-- The header of a cell message as received (section 9.6): byte 2 (tag of an order, sequence byte of a management
message), byte 3 (selector) and byte 0 (body length). -/
structure Header where
  tag : Nat
  selector : Nat
  length : Nat
  deriving DecidableEq, Repr

/-- The fields of one 14-byte pattern row as received (section 9.6, Pattern row), before the checks of R4. -/
structure RawRow where
  hole : Nat
  zone : Nat
  rail : Rail
  centre : Nat
  offset : Nat
  plies : Nat
  grip : Nat
  diameter : Nat
  force : Nat
  predCount : Nat
  pred1 : Nat
  pred2 : Nat
  deriving DecidableEq, Repr

/-- What a HELLO declares (R116). `malformed` is a HELLO whose kind is not one of the four or whose length does not
match its kind (R117 check 1). A rail is `none` when the HELLO names neither A nor B (R58). -/
inductive HelloBody where
  | malformed
  | drill (rail : Option Rail) (centre toolId limit count : Nat)
  | set (rail : Option Rail) (centre : Nat)
  | heat (lane : Nat)
  | clamp (channels : Nat)
  deriving DecidableEq, Repr

/-- The body of a DONE after its header (section 9.6): nothing (4 bytes), a heat serial (6 bytes), a result code and a
measurement (7 bytes), or a body of another length. -/
inductive DoneBody where
  | bare
  | serial (n : Nat)
  | result (code value : Nat)
  | other (length : Nat)
  deriving DecidableEq, Repr

/-- Why the Head Link Interface sets a good frame aside (R174). -/
inductive SetAsideCause where
  | unknownKind (code : Nat)
  | badLength
  | badValue
  | slotEmpty
  deriving DecidableEq, Repr

end Sys2Proof
end

