-- ==== Sys2Proof/Syntax.lean ====
section
/-!
DEFINITION. The commands of the block: one constructor for each row of spec/opcode_table.json.
-/

namespace Sys2Proof

/-- The 83 commands. A cell message carries its header `h`; a head report carries the slot of the link it came on and
the head state `hs` of its byte 3; an expiry names what expires. The rule of each row is named beside it. -/
inductive Instr where
  /-- DRILL (R27): slot, hole, feed class. -/
  | drill (h : Header) (slot hole feed : Nat)
  /-- REAM (R27): slot, hole, feed class. -/
  | ream (h : Header) (slot hole feed : Nat)
  /-- SET (R27): slot, hole. -/
  | setRivet (h : Header) (slot hole : Nat)
  /-- HEAT (R27): slot, lane. -/
  | heat (h : Header) (slot lane : Nat)
  /-- CLAMP (R27): slot byte (not used), zone. -/
  | clamp (h : Header) (slot zone : Nat)
  /-- UNCLAMP (R27): slot byte (not used), zone. -/
  | unclamp (h : Header) (slot zone : Nat)
  /-- PARK (R27): slot. -/
  | park (h : Header) (slot : Nat)
  /-- CANCEL (R45): the tag is byte 2. -/
  | cancel (h : Header)
  /-- PATTERN_OPEN (R2): pattern, hole count. -/
  | patternOpen (h : Header) (p n : Nat)
  /-- PATTERN_ROWS (R3): pattern, row count, rows. -/
  | patternRows (h : Header) (p k : Nat) (rows : List RawRow)
  /-- PATTERN_DELETE (R6): pattern. -/
  | patternDelete (h : Header) (p : Nat)
  /-- TABLE_WRITE_TIMING (R178): entry number, value in ms. -/
  | tableWriteTiming (h : Header) (entry value : Nat)
  /-- TABLE_WRITE_SLOT (R114): slot, expected kind code, home centre. -/
  | tableWriteSlot (h : Header) (slot kind home : Nat)
  /-- TABLE_WRITE_ZONE (R101): zone, module slot (0 unmapped), channel. -/
  | tableWriteZone (h : Header) (zone slot channel : Nat)
  /-- TABLE_WRITE_LANE (R80): lane, heater slot (0 unmapped), class, mode code, target stock. -/
  | tableWriteLane (h : Header) (lane slot cls mode target : Nat)
  /-- TABLE_WRITE_PUMP (R75): budget. -/
  | tableWritePump (h : Header) (value : Nat)
  /-- FRAME_BEGIN (R9): pattern, frame serial. -/
  | frameBegin (h : Header) (p serial : Nat)
  /-- FRAME_END (R10). -/
  | frameEnd (h : Header)
  /-- FRAME_ABANDON (R11). -/
  | frameAbandon (h : Header)
  /-- MODE_RUN (R143). -/
  | modeRun (h : Header)
  /-- MODE_HOLD (R144). -/
  | modeHold (h : Header)
  /-- MODE_RESUME (R145). -/
  | modeResume (h : Header)
  /-- HOLE_REWORK (R21): hole. -/
  | holeRework (h : Header) (hole : Nat)
  /-- SLOT_CLEAR (R131): slot. -/
  | slotClear (h : Header) (slot : Nat)
  /-- SLOT_RELEASE (R123): slot. -/
  | slotRelease (h : Header) (slot : Nat)
  /-- LAMP_SET (R126): slot, setting code (1 FORCE ON, 2 FORCE OFF, 3 AUTO). -/
  | lampSet (h : Header) (slot setting : Nat)
  /-- QUERY_STATUS (R180). -/
  | queryStatus (h : Header)
  /-- QUERY_HOLE (R23): hole. -/
  | queryHole (h : Header) (hole : Nat)
  /-- QUERY_ORDER (R55): form (1 by tag, 2 by rank), tag or rank. -/
  | queryOrder (h : Header) (form arg : Nat)
  /-- QUERY_SLOT (R139): slot. -/
  | querySlot (h : Header) (slot : Nat)
  /-- QUERY_RAIL (R71): rail code (1 A, 2 B), part code (1 HOLDINGS, 2 REQUESTS), starting position. -/
  | queryRail (h : Header) (rail part start : Nat)
  /-- QUERY_LANE (R97): lane. -/
  | queryLane (h : Header) (lane : Nat)
  /-- QUERY_ZONE (R111): zone, or 0 for all. -/
  | queryZone (h : Header) (zone : Nat)
  /-- QUERY_PUMP (R77). -/
  | queryPump (h : Header)
  /-- QUERY_LINK (R166). -/
  | queryLink (h : Header)
  /-- QUERY_TABLE (R181): table, index. -/
  | queryTable (h : Header) (table index : Nat)
  /-- QUERY_PATTERN (R7): pattern and, optionally, a hole. -/
  | queryPattern (h : Header) (p : Nat) (hole : Option Nat)
  /-- NOTICE_TAKE (R157). -/
  | noticeTake (h : Header)
  /-- STORE_READ (R184): address, count. -/
  | storeRead (h : Header) (addr count : Nat)
  /-- STORE_WRITE (R185): address, data. -/
  | storeWrite (h : Header) (addr : Nat) (data : List Byte)
  /-- STORE_WRITE_END (R185). -/
  | storeWriteEnd
  /-- RELOAD (R192). -/
  | reload (h : Header)
  /-- RESTART (R194). -/
  | restart (h : Header)
  /-- UNLOCK (R191). -/
  | unlock (h : Header)
  /-- UNKNOWN_KIND (R168): byte 2 and the kind code. -/
  | unknownKind (h : Header) (kind : Nat)
  /-- DAMAGED_FRAME (R165): the link and the bytes received, to the byte at which the frame is discarded. -/
  | damagedFrame (link : LinkId) (bytes : List Byte)
  /-- HOLDOFF_DISCARD (R171). -/
  | holdoffDiscard
  /-- RESTART_DISCARDED_FRAME (R194). -/
  | restartDiscardedFrame
  /-- CELL_SENT_EVENT (R170). -/
  | cellSentEvent
  /-- POWER_UP (R193). -/
  | powerUp
  /-- RESET_PIN_HELD (R183). -/
  | resetPinHeld
  /-- RESET_PIN_RELEASE (R183). -/
  | resetPinRelease
  /-- PRELOAD_HEADER_READ (R187). -/
  | preloadHeaderRead
  /-- PRELOAD_RECORD (R188). -/
  | preloadRecord
  /-- PRELOAD_END (R189). -/
  | preloadEnd
  /-- HEAD_LINK_HOLD_END (R194). -/
  | headLinkHoldEnd
  /-- LINK_UP (R115). -/
  | linkUp (slot : SlotId)
  /-- LINK_DOWN (R127). -/
  | linkDown (slot : SlotId)
  /-- HELLO (R117): head revision and declared fields. -/
  | hello (slot : SlotId) (hs revision : Nat) (body : HelloBody)
  /-- ACCEPT (R40): tag, and the serial under heat when the body carries one. -/
  | accept (slot : SlotId) (hs tag : Nat) (serial : Option Nat)
  /-- DONE (R41): tag and results. -/
  | done (slot : SlotId) (hs tag : Nat) (body : DoneBody)
  /-- ABORTED_NONE (R48): tag. -/
  | abortedNone (slot : SlotId) (hs tag : Nat)
  /-- ABORTED_PARTIAL (R49): tag. -/
  | abortedPartial (slot : SlotId) (hs tag : Nat)
  /-- ARRIVED (R66): tag, centre. -/
  | arrived (slot : SlotId) (hs tag centre : Nat)
  /-- FAULT (R128): head fault code. -/
  | fault (slot : SlotId) (hs code : Nat)
  /-- LEVER_OPEN (R120). -/
  | leverOpen (slot : SlotId) (hs : Nat)
  /-- LEVER_CLOSED (R122). -/
  | leverClosed (slot : SlotId) (hs : Nat)
  /-- CLAMP_STATE (R102): channel, state code (1 OPEN, 2 MOVING, 3 CLAMPED). -/
  | clampState (slot : SlotId) (hs channel state : Nat)
  /-- HEAD_MESSAGE_SET_ASIDE (R174). -/
  | headMessageSetAside (slot : SlotId) (hs : Nat) (cause : SetAsideCause)
  /-- HEAD_SENT_EVENT (R176). -/
  | headSentEvent (slot : SlotId)
  /-- ACCEPT_STAGE_EXPIRY (R129). -/
  | acceptStageExpiry (slot : SlotId)
  /-- RUN_STAGE_EXPIRY (R133). -/
  | runStageExpiry (slot : SlotId)
  /-- TRAVEL_STAGE_EXPIRY (R133). -/
  | travelStageExpiry (slot : SlotId)
  /-- GRACE_STAGE_EXPIRY (R129). -/
  | graceStageExpiry (slot : SlotId)
  /-- ABORT_STAGE_EXPIRY (R129). -/
  | abortStageExpiry (slot : SlotId)
  /-- RIVET_EXPIRY_UNASSIGNED (R91): lane and place in its stock, 0 for the oldest. -/
  | rivetExpiryUnassigned (lane : LaneId) (place : Nat)
  /-- RIVET_EXPIRY_ASSIGNED (R92): lane and place in its stock, 0 for the oldest. -/
  | rivetExpiryAssigned (lane : LaneId) (place : Nat)
  /-- CADENCE_EXPIRY (R87): lane. -/
  | cadenceExpiry (lane : LaneId)
  /-- CLAIM_STARVED (R62): the slot whose claim request has waited its patience out. -/
  | claimStarved (slot : SlotId)
  /-- GUARD_CHANNEL_CHANGE (R149): channel and the level it now reads. -/
  | guardChannelChange (channel : Channel) (level : Level)
  /-- DISCREPANCY_EXPIRY (R150). -/
  | discrepancyExpiry
  /-- START_DELIMITER (R171): D1h received on the cell link. -/
  | startDelimiter
  /-- LINE_ACTIVITY (R173): a byte received on a head link. -/
  | lineActivity (slot : SlotId)
  deriving DecidableEq, Repr

end Sys2Proof
end

