-- ==== Sys2Proof/Decode.lean ====
section
/-!
DEFINITION. The commands that a word spells by the bits of spec/opcode_table.json. No row of the table gives bits
("fields" is empty in all 83 and there is no "fixed"), so no word spells a command (log entry 9).
-/

namespace Sys2Proof

/-- The command a word of the table's bits spells: none, for the table gives its rows no bits. -/
def decodeTableWord (_nbits _w : Nat) : Option Instr := none

end Sys2Proof
end

