-- ==== Sys2Proof/Machine/Types.lean ====
section
/-!
DEFINITION. The records of the thirteen blocks (section 1.3 of 00_scope.md) as plain data, and the messages they place
on the links. No behaviour stands here.
-/

namespace Sys2Proof.Machine

/-! ### Patterns and holes (chapter 1) -/

/-- A stored pattern row (section 1.1.1); its hole number is its place in the pattern. -/
structure PatternRow where
  zone : ZoneId
  rail : Rail
  centre : Nat
  offset : Nat
  plies : Nat
  grip : Nat
  diameter : Nat
  force : Nat
  preds : List Nat
  deriving DecidableEq, Repr

/-- A pattern in use (R1). `complete` tells COMPLETE from LOADING; hole h has its row at place h - 1, and its written
mark is set exactly when a row stands there. -/
structure Pattern where
  complete : Bool
  count : Nat
  rows : List (Option PatternRow)
  deriving DecidableEq, Repr

/-- The bound frame (section 1.4). -/
structure Frame where
  pattern : PatternId
  serial : Nat
  count : Nat
  deriving DecidableEq, Repr

/-- The ten hole states (R12), in the order of R12. -/
inductive HoleState where
  | planned | drilling | drilled | oversize | undersize | suspect | setting | set | defect | barred
  deriving DecidableEq, Repr

/-- Gauge result (R12). -/
inductive Gauge where
  | within | under | over
  deriving DecidableEq, Repr

/-- Force result (R12). -/
inductive Force where
  | ok | low | high
  deriving DecidableEq, Repr

/-- A hole entry (R12). -/
structure Hole where
  state : HoleState
  cls : Nat
  reworks : Nat
  lastDrill : Option SlotId
  gauge : Option Gauge
  diameter : Option Nat
  rivetSerial : Option Nat
  force : Option Force
  peak : Option Nat
  deriving DecidableEq, Repr

/-! ### Orders (chapter 2) -/

/-- The seven order kinds (section 2.1). -/
inductive OrderKind where
  | drill | ream | set | heat | clamp | unclamp | park
  deriving DecidableEq, Repr

/-- What an order aims at (R26); `home` is the absent target of a PARK. -/
inductive Target where
  | hole (n : Nat)
  | zone (z : ZoneId)
  | lane (l : LaneId)
  | home
  deriving DecidableEq, Repr

/-- The states of an order in the pool (R26). -/
inductive OrderState where
  | waiting | travelling | issued | running | aborting
  deriving DecidableEq, Repr

/-- The nine wait conditions (section 2.3). -/
inductive WaitReason where
  | mode | queued | predecessor | zone | position | pump | rivet | laneFull | inZone
  deriving DecidableEq, Repr

/-- Abort causes (R46). -/
inductive AbortCause where
  | cancel | guard | clampLost | rivetCold
  deriving DecidableEq, Repr

/-- What an abort stops (R26). -/
inductive AbortStep where
  | operation | travel
  deriving DecidableEq, Repr

/-- Whether an ISSUE or TRAVEL has begun its transmission (R26). -/
inductive Mark where
  | unsent | sent
  deriving DecidableEq, Repr

/-- Where an order's rivet is (R26). -/
inductive Whereabouts where
  | lane | carried | cold
  deriving DecidableEq, Repr

/-- The rivet assigned to a SET order (R26). -/
structure AssignedRivet where
  lane : LaneId
  serial : Nat
  whereabouts : Whereabouts
  deriving DecidableEq, Repr

/-- An order record of the pool (R26). -/
structure Order where
  tag : Nat
  kind : OrderKind
  slot : SlotId
  target : Target
  channel : Option Nat
  centre : Option Nat
  feed : Option Nat
  state : OrderState
  wait : Option WaitReason
  before : Option HoleState
  rivet : Option AssignedRivet
  units : Option Nat
  cause : Option AbortCause
  step : Option AbortStep
  cancel : Bool
  travelMark : Option Mark
  issueMark : Option Mark
  deriving DecidableEq, Repr

/-- How an order leaves the pool (section 2.8). -/
inductive OrderOutcome where
  | completed | cancelled | aborted | failed | withdrawn
  deriving DecidableEq, Repr

/-- The causes an ORDER DONE carries (section 9.6); `none` there is the absent option here. -/
inductive DoneCause where
  | cancel | guard | clampLost | rivetCold | cancelLate | headFault | opTimeout | noAccept | linkLost | abortLost
  | positionLost | slotFaulted | slotLeaving | slotLost | toolSpent | frameEnded | holeChanged
  deriving DecidableEq, Repr

/-! ### Rails (chapter 3) -/

/-- A run of segments, first and last included (R57). -/
structure Run where
  first : Nat
  last : Nat
  deriving DecidableEq, Repr

/-- A slot's holding (R57). -/
structure Holding where
  rail : Rail
  run : Run
  deriving DecidableEq, Repr

/-- A travel record (R65). -/
structure Travel where
  tag : Nat
  target : Nat
  sweep : Run
  former : Run
  deriving DecidableEq, Repr

/-- A claim request (R60). -/
structure Request where
  slot : SlotId
  tag : Nat
  target : Nat
  sweep : Run
  waited : Nat
  patience : Nat
  urgent : Bool
  deriving DecidableEq, Repr

/-! ### Lanes (chapter 4) -/

/-- Lane mode (R80). -/
inductive LaneMode where
  | manual | auto
  deriving DecidableEq, Repr

/-- A lane table entry (R80). -/
structure LaneEntry where
  slot : Option SlotId
  cls : Nat
  mode : LaneMode
  target : Nat
  deriving DecidableEq, Repr

/-- Lane state (R79). -/
inductive LaneState where
  | off | ready | heating
  deriving DecidableEq, Repr

/-- A heated rivet record (R82); its age is the clock less `heatEnd`. -/
structure Rivet where
  serial : Nat
  cls : Nat
  heatEnd : Nat
  window : Nat
  tag : Option Nat
  deriving DecidableEq, Repr

/-- Who asked for a heat (R84). -/
inductive HeatOrigin where
  | order | lane
  deriving DecidableEq, Repr

/-- The steps of a lane's own heat (R84). -/
inductive HeatStep where
  | issued | running | aborting
  deriving DecidableEq, Repr

/-- A heat record (R84). `step` and `mark` are present for origin LANE only; the abort cause is GUARD exactly in
`aborting`. -/
structure Heat where
  tag : Nat
  origin : HeatOrigin
  slot : SlotId
  cls : Nat
  serial : Option Nat
  step : Option HeatStep
  mark : Option Mark
  deriving DecidableEq, Repr

/-- Causes of a lost slot: the fault causes of R129 and a link down (R90, R52). -/
inductive LossCause where
  | headFault | noAccept | opTimeout | positionLost | abortLost | linkLost
  deriving DecidableEq, Repr

/-- A lane's fault record (R90). -/
structure LaneFault where
  tag : Nat
  slot : SlotId
  cause : LossCause
  code : Option Nat
  serial : Option Nat
  deriving DecidableEq, Repr

/-- A lane record (R79), less its table entry and its computed state. -/
structure Lane where
  stock : List Rivet
  heat : Option Heat
  late : Bool
  cadence : Option Nat
  fault : Option LaneFault
  deriving DecidableEq, Repr

/-! ### Zones (chapter 5) -/

/-- Zone state (R100). -/
inductive ZoneState where
  | unknown | opened | moving | clamped
  deriving DecidableEq, Repr

/-- A zone record (R100), less its table entry. -/
structure Zone where
  state : ZoneState
  expected : Bool
  deriving DecidableEq, Repr

/-- A zone table entry that is mapped (R100). -/
structure ZoneMap where
  slot : SlotId
  channel : Nat
  deriving DecidableEq, Repr

/-! ### Slots (chapter 6) -/

/-- Slot states (R113). -/
inductive SlotState where
  | empty | joining | ready | busy | leaving | released | faulted
  deriving DecidableEq, Repr

/-- Head kinds (R113). -/
inductive HeadKind where
  | drill | set | heat | clamp
  deriving DecidableEq, Repr

/-- The declared fields of an accepted HELLO (R113). -/
inductive Declared where
  | drill (rail : Rail) (centre : Nat)
  | set (rail : Rail) (centre : Nat)
  | heat (lane : LaneId)
  | clamp (channels : Nat)
  deriving DecidableEq, Repr

/-- The joined head of a slot: revision and declared fields, which give its kind (R113). -/
structure Joined where
  revision : Nat
  declared : Declared
  deriving DecidableEq, Repr

/-- The tool record of a DRILL slot (R136). -/
structure Tool where
  id : Nat
  limit : Nat
  count : Nat
  spent : Bool
  deriving DecidableEq, Repr

/-- The work in flight of a slot (R113). -/
inductive Work where
  | idle
  | order (tag : Nat)
  | heat (lane : LaneId)
  deriving DecidableEq, Repr

/-- The removal lever (R113). -/
inductive Lever where
  | opened | closed
  deriving DecidableEq, Repr

/-- Lamp setting (R113). -/
inductive LampSetting where
  | auto | forceOn | forceOff
  deriving DecidableEq, Repr

/-- Lamp aspect (R113). -/
inductive Aspect where
  | off | steady | blink
  deriving DecidableEq, Repr

/-- The five stages of the operation timer (R132), as QUERY SLOT shows them (R139). -/
inductive Stage where
  | accept | run | travel | grace | abort
  deriving DecidableEq, Repr

/-- What the operation timer runs in: a stage of R132, where GRACE keeps the stage it was entered from, since R129 and R132
give its expiry a cause by it. No ANSWER shows that stage (R139). -/
inductive TimedStage where
  | accept | run | travel | graceRun | graceTravel | abort
  deriving DecidableEq, Repr

/-- A running operation timer (R132). -/
structure StageTimer where
  stage : TimedStage
  left : Nat
  deriving DecidableEq, Repr

/-- A slot's fault record (R113). -/
structure SlotFault where
  cause : LossCause
  code : Option Nat
  tag : Option Nat
  deriving DecidableEq, Repr

/-- A slot record (R113). -/
structure Slot where
  state : SlotState
  head : Option Joined
  tool : Option Tool
  work : Work
  lever : Lever
  leverPending : Bool
  lamp : LampSetting
  aspect : Aspect
  timer : Option StageTimer
  fault : Option SlotFault
  deriving DecidableEq, Repr

/-- A slot table entry (R114); `expected` is `none` for ANY. -/
structure SlotEntry where
  expected : Option HeadKind
  home : Nat
  deriving DecidableEq, Repr

/-! ### Mode and guard (chapter 7) -/

/-- The line modes (R141). -/
inductive Mode where
  | standby | hold | run | stop
  deriving DecidableEq, Repr

/-- Guard states (R149). -/
inductive GuardState where
  | closed | opened | latched
  deriving DecidableEq, Repr

/-- The guard record (R149). -/
structure Guard where
  ch1 : Level
  ch2 : Level
  state : GuardState
  timer : Option Nat
  deriving DecidableEq, Repr

/-- The levels of the two guard inputs themselves. -/
structure GuardPins where
  ch1 : Level
  ch2 : Level
  deriving DecidableEq, Repr

/-! ### Notices (chapter 8) -/

/-- Notice levels, highest first (R153). -/
inductive NoticeLevel where
  | alarm | fault | warn | info
  deriving DecidableEq, Repr

/-- Notice codes (section 8.5). -/
inductive NoticeCode where
  | guardOpen | guardDiscrepancy | clampLost | slotFault | linkLost | heatFailed | preloadFailed | opSlow | leverOpen
  | joinRefused | toolSpent | heatLate | claimStarved | guardClosed | rivetScrapped | restarted
  deriving DecidableEq, Repr

/-- Join refusal reasons (R117). -/
inductive JoinReason where
  | badHello | kindMismatch | positionConflict | laneTaken | channels
  deriving DecidableEq, Repr

/-- Reset causes (R193). -/
inductive ResetCause where
  | power | pin | restart
  deriving DecidableEq, Repr

/-- Reason codes of REFUSED and ANSWER (R177), in the order of their codes 1..42. -/
inductive Reason where
  | locked | stopped | noFrame | tagInUse | poolFull | badSlot | badZone | slotAbsent | slotFaulted | slotLeaving
  | wrongKind | badValue | badHole | badLane | wrongRail | holeState | holeClaimed | laneAuto | toolSpent | unknownTag
  | unknownKind | exists_ | noRoom | noPattern | patternComplete | badRow | patternInUse | patternIncomplete | noRow
  | wrongMode | inFlight | zoneClamped | guardOpen | frameBound | inUse | channels | slotState | slotBusy | busy
  | badAddress | protected_ | badImage
  deriving DecidableEq, Repr

/-- Notice details (R153). -/
inductive Detail where
  | none
  | tag (t : Nat)
  | zone (z : ZoneId)
  | lane (l : LaneId)
  | channel (c : Channel)
  | reason (r : JoinReason)
  | cause (c : LossCause) (code : Option Nat)
  | reset (c : ResetCause)
  | record (position : Nat) (r : Reason)
  deriving DecidableEq, Repr

/-- The nine detail kinds (R153). -/
inductive DetailKind where
  | none | tag | zone | lane | channel | reason | cause | reset | record
  deriving DecidableEq, Repr

/-- A filled notice entry (R153). -/
structure Notice where
  code : NoticeCode
  detail : Detail
  overrun : Bool
  deriving DecidableEq, Repr

/-! ### Store and preload (chapter 10) -/

/-- The tables (R187): those in force, and the load set of a preload. -/
structure Tables where
  slots : Vector SlotEntry 12
  zones : Vector (Option ZoneMap) 8
  lanes : Vector LaneEntry 2
  budget : Nat
  timing : Vector Nat 12
  deriving DecidableEq, Repr

/-- Preload state (R189); `noImage` is NONE. -/
inductive PreloadState where
  | noImage | running | done | failed
  deriving DecidableEq, Repr

/-- How far a running preload has come (R187, R188): the header is still to be read, or records are read from address
`at_` with `left` bytes to come, the next record being number `position`; `crc` is the CRC of the bytes read so far and
`want` the header's. -/
inductive PreloadPhase where
  | header
  | records (at_ left position : Nat) (crc want : BitVec 16)
  deriving DecidableEq, Repr

/-- The preload engine while it runs (R187). -/
structure Engine where
  phase : PreloadPhase
  loadSet : Tables
  unlock : Bool
  deriving DecidableEq, Repr

/-- A store write that the store has begun (R185). `answer` is the sequence byte its ANSWER repeats, absent once a reset
has lost that ANSWER. -/
structure StoreWrite where
  addr : Nat
  data : List Byte
  left : Nat
  answer : Option Nat
  deriving DecidableEq, Repr

/-- The configuration store (R184): contents in canonical form, whether the device answers, the write in progress. -/
structure Store where
  cells : List Host.Cell
  present : Bool
  writing : Option StoreWrite
  deriving DecidableEq, Repr

/-- RESTART (R194): none, taken and waiting for an empty list, or its ANSWER placed. -/
inductive RestartPhase where
  | idle
  | taken (seq : Nat)
  | answered
  deriving DecidableEq, Repr

/-! ### Links (chapter 9) -/

/-- Errors a link status record counts (R166, R167). -/
inductive LinkError where
  | crc | length | framing | overrun | protocol
  deriving DecidableEq, Repr

/-- One bit of a byte on a line (R163), by its part in the byte. The spec gives start, data and stop bits no level on the line
(DESIGN CHOICE, log entry 40). -/
inductive LineBit where
  | start
  | data (v : Bool)
  | stop
  deriving DecidableEq, Repr

/-- Receiver states (R165). -/
inductive RxState where
  | outside | inside | escaped
  deriving DecidableEq, Repr

/-- A receiver (R165): its state, the bytes collected for the open frame, and, on the cell link, whether the open frame
began under HOLDOFF (R171). -/
structure Receiver where
  state : RxState
  content : List Byte
  discarding : Bool
  deriving DecidableEq, Repr

/-- The cell link status record (R166). -/
structure CellStatus where
  errorSeen : Bool
  crc : Nat
  length : Nat
  framing : Nat
  overrun : Nat
  protocol : Nat
  last : Option LinkError
  highMark : Nat
  deriving DecidableEq, Repr

/-- A head link status record (R167), less the link state and outbound count, which the link itself holds. -/
structure HeadStatus where
  errorSeen : Bool
  crc : Nat
  length : Nat
  framing : Nat
  protocol : Nat
  last : Option LinkError
  downs : Nat
  headState : Option Nat
  deriving DecidableEq, Repr

/-- Reasons a REJOIN carries (R177). -/
inductive RejoinReason where
  | refused (r : JoinReason)
  | preload
  | cleared
  deriving DecidableEq, Repr

/-- The fields of an ISSUE (R39). -/
inductive IssueBody where
  | drill (kind : OrderKind) (hole centre offset plies grip diameter cls feed : Nat)
  | set (hole centre offset plies grip cls force : Nat) (lane : LaneId) (serial : Nat)
  | heat (lane : LaneId) (cls : Nat)
  | clamp (kind : OrderKind) (zone : ZoneId) (channel : Nat)
  deriving DecidableEq, Repr

/-- The fields of a WELCOME by head kind (R118). -/
inductive WelcomeBody where
  | drill (rail : Rail) (span : Run) (home toolId limit count : Nat)
  | set (rail : Rail) (span : Run) (home : Nat)
  | heat (lane : LaneId) (cls : Nat) (mode : LaneMode)
  | clamp (channels : List (Nat × ZoneId))
  deriving DecidableEq, Repr

/-- Messages to a head (section 9.5). -/
inductive HeadMsg where
  | issue (tag : Nat) (body : IssueBody)
  | travel (tag centre : Nat)
  | abort (tag : Nat)
  | discard (serial : Nat)
  | lamp (aspect : Aspect)
  | welcome (kind : HeadKind) (body : WelcomeBody)
  | rejoin (reason : RejoinReason)
  | toolSync (id limit count : Nat)
  deriving DecidableEq, Repr

/-- A head link (R167, R173, R175): UP or DOWN, silence timer, list of unsent messages, message in transmission,
receiver and status record. -/
structure HeadLink where
  up : Bool
  silence : Option Nat
  list : List HeadMsg
  sending : Option HeadMsg
  rx : Receiver
  status : HeadStatus
  deriving DecidableEq, Repr

/-- The state a TAKEN reports (R177). -/
inductive TakenState where
  | waiting (r : Option WaitReason)
  | travelling | issued | aborting | left
  deriving DecidableEq, Repr

/-- An ORDER DONE (R44): `holeInfo` for the hole kinds, `measure` for a COMPLETED DRILL, REAM or SET, `serial` for a
COMPLETED SET or HEAT. -/
structure OrderDone where
  tag : Nat
  kind : OrderKind
  slot : SlotId
  target : Target
  outcome : OrderOutcome
  cause : Option DoneCause
  cancel : Bool
  holeInfo : Option (HoleState × Nat)
  gauge : Option Gauge
  force : Option Force
  measure : Option Nat
  serial : Option Nat
  deriving DecidableEq, Repr

/-- Fields of a row, as a BAD_ROW answer names them (R4). -/
inductive RowField where
  | hole | zone | centre | offset | plies | grip | diameter | force | predecessor
  deriving DecidableEq, Repr

/-- The data of QUERY STATUS (R180). -/
structure StatusView where
  mode : Mode
  guard : GuardState
  ch1 : Level
  ch2 : Level
  discrepancy : Bool
  frame : Option Frame
  poolCount : Nat
  slow : Bool
  lockout : Bool
  preload : PreloadState
  resetCause : ResetCause
  filled : List Nat
  attention : Bool
  source0 : List (Option NoticeCode)
  slots : List SlotState
  listCount : Nat
  holdoff : Bool
  deriving DecidableEq, Repr

/-- One entry of QUERY ORDER by rank (R55). -/
structure OrderLine where
  tag : Nat
  kind : OrderKind
  slot : SlotId
  state : OrderState
  wait : Option WaitReason
  deriving DecidableEq, Repr

/-- The work in flight as QUERY SLOT shows it, with its kind and state (R139); a heat of the lane's own has the kind HEAT and
its step for a state (R84). -/
inductive WorkView where
  | idle
  | order (tag : Nat) (kind : Option OrderKind) (state : Option OrderState)
  | laneHeat (kind : OrderKind) (step : Option HeatStep)
  deriving DecidableEq, Repr

/-- The data of QUERY SLOT (R139). -/
structure SlotView where
  slot : Slot
  entry : SlotEntry
  work : WorkView
  holding : Option Holding
  orders : Nat
  up : Bool
  status : HeadStatus
  outbound : Nat
  deriving DecidableEq, Repr

/-- An open travel as QUERY RAIL HOLDINGS shows it (R71). -/
structure TravelLine where
  tag : Nat
  target : Nat
  sweep : Run
  sent : Bool
  deriving DecidableEq, Repr

/-- One slot of QUERY RAIL HOLDINGS (R71). -/
structure HoldingLine where
  slot : SlotId
  state : SlotState
  run : Run
  centre : Option Nat
  travel : Option TravelLine
  deriving DecidableEq, Repr

/-- One entry of QUERY RAIL REQUESTS (R71). -/
structure RequestLine where
  slot : SlotId
  tag : Nat
  target : Nat
  sweep : Run
  waited : Nat
  urgent : Bool
  deriving DecidableEq, Repr

/-- One rivet of QUERY LANE (R97). -/
structure RivetLine where
  serial : Nat
  cls : Nat
  age : Nat
  left : Nat
  tag : Option Nat
  deriving DecidableEq, Repr

/-- The step of a heat as QUERY LANE shows it: the pool order's state for origin ORDER (R97). -/
inductive HeatStepView where
  | lane (s : Option HeatStep)
  | order (s : Option OrderState)
  deriving DecidableEq, Repr

/-- The data of QUERY LANE (R97). -/
structure LaneView where
  entry : LaneEntry
  state : LaneState
  serving : Option SlotId
  late : Bool
  cadence : Option Nat
  heat : Option (Heat × HeatStepView)
  stockCount : Nat
  stock : List RivetLine
  fault : Option LaneFault
  deriving DecidableEq, Repr

/-- The data of QUERY ZONE for one zone (R111). -/
structure ZoneView where
  entry : Option ZoneMap
  state : ZoneState
  expected : Bool
  slotState : Option SlotState
  channels : Option Nat
  order : Option (Nat × OrderState)
  holes : Option (List Nat)
  inFlight : Option (List Nat)
  deriving DecidableEq, Repr

/-- One entry of QUERY PUMP (R77). -/
structure PumpLine where
  tag : Nat
  slot : SlotId
  target : Target
  units : Nat
  state : OrderState
  deriving DecidableEq, Repr

/-- The data of QUERY PUMP (R77). -/
structure PumpView where
  budget : Nat
  inUse : Nat
  waiting : Nat
  oldest : Option Nat
  holders : List PumpLine
  deriving DecidableEq, Repr

/-- The data of QUERY PATTERN without a hole (R7); `complete` is `none` when EMPTY. -/
structure PatternView where
  complete : Option Bool
  count : Option Nat
  written : Nat
  lowestUnwritten : Option Nat
  bound : Bool
  freeRows : Nat
  deriving DecidableEq, Repr

/-- The data of QUERY TABLE (R181). -/
inductive TableView where
  | timing (lines : List (Nat × Nat))
  | timingWritten (values : List Nat)
  | slots (entries : List SlotEntry)
  | zones (entries : List (Option ZoneMap))
  | lanes (entries : List LaneEntry)
  | pump (budget : Nat)
  deriving DecidableEq, Repr

/-- What an ANSWER carries (R169): a refusal reason, or OK with the data its owning rule gives. -/
inductive Answer where
  | refused (r : Reason)
  | badRow (position : Nat) (field : RowField)
  | ok
  | patternOpened (free count : Nat)
  | patternRows (complete : Bool) (written : Nat)
  | patternDeleted (free : Nat)
  | timingWritten (entry value acted : Nat)
  | slotWritten (s : SlotState)
  | zoneWritten (s : ZoneState)
  | laneWritten (s : LaneState)
  | pumpWritten (budget inUse : Nat)
  | frameBegun (count : Nat)
  | frameReleased (serial : Nat) (counts : List Nat)
  | mode (m : Mode)
  | reworked (s : HoleState) (reworks cls : Nat)
  | lamp (setting : LampSetting) (aspect : Aspect) (pending : Bool)
  | notice (source : Fin 13) (level : NoticeLevel) (n : Notice) (left : Nat)
  | noNotice
  | storeBytes (addr count : Nat) (bytes : List Byte)
  | storeWritten (addr count : Nat)
  | unlocked (lockout : Bool)
  | restarting
  | status (v : StatusView)
  | hole (serial : Nat) (h : Hole) (row : Option PatternRow) (tag : Option Nat)
  | order (o : Order) (rank : Nat)
  | orders (count : Nat) (lines : List OrderLine)
  | slot (v : SlotView)
  | railHoldings (holders : List (Option SlotId)) (lines : List HoldingLine)
  | railRequests (count : Nat) (lines : List RequestLine)
  | lane (v : LaneView)
  | zone (v : ZoneView)
  | zones (lines : List (Option ZoneMap × Zone))
  | pump (v : PumpView)
  | link (st : CellStatus) (listCount : Nat) (holdoff : Bool)
  | table (v : TableView)
  | pattern (v : PatternView)
  | row (hole : Nat) (r : PatternRow)
  deriving DecidableEq, Repr

/-- One item of the data that an ANSWER (R177) or a WELCOME (R118) carries. Slots, zones, lanes, channels and codes that
the spec gives everywhere are numbers; a name that it gives no code in an ANSWER stays a name; `absent` stands for a field
that is absent, unmapped, free, stopped or none, and `laneHeat` for work in flight that is the lane's own heat (R113). -/
inductive Datum where
  | absent
  | byte (b : Byte)
  | number (n : Nat)
  | flag (b : Bool)
  | rail (r : Rail)
  | level (v : Level)
  | patternState (complete : Option Bool)
  | rowField (f : RowField)
  | holeState (s : HoleState)
  | gauge (g : Gauge)
  | force (f : Force)
  | orderKind (k : OrderKind)
  | laneHeat
  | orderState (s : OrderState)
  | abortCause (c : AbortCause)
  | abortStep (s : AbortStep)
  | mark (m : Mark)
  | whereabouts (w : Whereabouts)
  | laneMode (m : LaneMode)
  | laneState (s : LaneState)
  | heatOrigin (o : HeatOrigin)
  | heatStep (s : HeatStep)
  | lossCause (c : LossCause)
  | zoneState (s : ZoneState)
  | slotState (s : SlotState)
  | expected (k : Option HeadKind)
  | headKind (k : HeadKind)
  | lever (v : Lever)
  | lampSetting (v : LampSetting)
  | aspect (a : Aspect)
  | stage (s : Stage)
  | mode (m : Mode)
  | guard (s : GuardState)
  | preload (s : PreloadState)
  | resetCause (c : ResetCause)
  | noticeLevel (v : NoticeLevel)
  | noticeCode (c : NoticeCode)
  | detailKind (k : DetailKind)
  | joinReason (r : JoinReason)
  | linkError (e : LinkError)
  deriving DecidableEq, Repr

/-- A message to the cell (R169), less its flags byte. -/
inductive CellBody where
  | taken (tag : Nat) (s : TakenState)
  | refused (tag : Nat) (r : Reason)
  | orderDone (d : OrderDone)
  | answer (seq : Nat) (a : Answer)
  deriving DecidableEq, Repr

/-- The flags byte of a message to the cell (section 9.6). -/
structure CellFlags where
  attention : Bool
  slow : Bool
  locked : Bool
  holdoff : Bool
  mode : Mode
  deriving DecidableEq, Repr

/-- A message to the cell with its flags (R170). -/
structure CellMsg where
  body : CellBody
  flags : CellFlags
  deriving DecidableEq, Repr

/-- The cell link (R165, R166, R170, R171): list of messages not yet begun, message in transmission, HOLDOFF, receiver
and status record. -/
structure CellLink where
  list : List CellMsg
  sending : Option CellMsg
  holdoff : Bool
  rx : Receiver
  status : CellStatus
  deriving DecidableEq, Repr

end Sys2Proof.Machine
end

