-- ==== Sys2Proof/Config.lean ====
section
/-!
DEFINITION. The principal figures of the part (section 1.4 of 00_scope.md) and the two values the spec leaves open.
-/

namespace Sys2Proof.Config

/-- FREE VALUE (log entry 7). R63: when the mode becomes RUN or STANDBY the gate's examination and the rails'
examinations "may be taken in any order". At the n-th such change rail `r` is examined before the gate exactly when
`railFirst n r` is true. -/
opaque railFirst : Nat → Rail → Bool

/-- FREE VALUE (log entry 16). R177 and R118 give the data of an ANSWER and of a WELCOME in an order, item by item, and
section 9.6 no widths or codes for the items. These are the bytes that item number `place` of the data that rule `rule`
lists takes on the line. -/
opaque datumBytes (rule place : Nat) : Machine.Datum → List Byte

/-- Orders the pool holds (R27 check 5). -/
abbrev poolSize : Nat := 32

/-- Rows of the Pattern Store (R1). -/
abbrev patternRows : Nat := 2048

/-- Most holes of one pattern (R1). -/
abbrev maxHoles : Nat := 1024

/-- Bytes of the configuration store (R184). -/
abbrev storeSize : Nat := 8192

end Sys2Proof.Config
end

