-- ==== Sys2Proof/Machine/Defaults.lean ====
section
/-!
DEFINITION. Values that the spec writes in tables: the timing entries with their ranges and defaults (R178), the default
table entries (R80, R100, R114), and the empty records of a reset.
-/

namespace Sys2Proof.Machine

/-- Timing entries in the order of R178; entry number n has index n - 1. -/
abbrev TimingEntry := Fin 12

namespace Timing
abbrev heatWindow : TimingEntry := 0
abbrev transferAllowance : TimingEntry := 1
abbrev claimPatience : TimingEntry := 2
abbrev acceptLimit : TimingEntry := 3
abbrev drillLimit : TimingEntry := 4
abbrev reamLimit : TimingEntry := 5
abbrev setLimit : TimingEntry := 6
abbrev heatLimit : TimingEntry := 7
abbrev clampLimit : TimingEntry := 8
abbrev travelLimit : TimingEntry := 9
abbrev grace : TimingEntry := 10
abbrev cadence : TimingEntry := 11
end Timing

/-- Minima of the timing entries (R178). -/
def timingMinima : Vector Nat 12 :=
  #v[4000, 500, 1000, 100, 5000, 2000, 2000, 5000, 1000, 1000, 1000, 3000]

/-- Maxima of the timing entries (R178). -/
def timingMaxima : Vector Nat 12 :=
  #v[60000, 10000, 60000, 2000, 180000, 120000, 30000, 90000, 30000, 60000, 30000, 60000]

/-- Defaults of the timing entries (R178). -/
def timingDefaults : Vector Nat 12 :=
  #v[20000, 3000, 8000, 500, 60000, 30000, 8000, 30000, 6000, 15000, 5000, 12000]

/-- The default slot entry (R114). -/
def SlotEntry.default : SlotEntry := { expected := none, home := 0 }

/-- The default lane entry (R80). -/
def LaneEntry.default : LaneEntry := { slot := none, cls := 1, mode := .manual, target := 2 }

/-- The default tables (R187). -/
def Tables.defaults : Tables :=
  { slots := Vector.replicate 12 SlotEntry.default
    zones := Vector.replicate 8 none
    lanes := Vector.replicate 2 LaneEntry.default
    budget := 6
    timing := timingDefaults }

/-- The discrepancy timer's length (R150). -/
abbrev discrepancyLength : Nat := 50

/-- The silence limit of a head link (R173). -/
abbrev silenceLimit : Nat := 250

/-- How long a store write takes (R185). -/
abbrev storeWriteTime : Nat := 5

/-- How long the head links are held after a RESTART (R194). -/
abbrev headHoldTime : Nat := 300

/-- A slot record at reset (R140). -/
def Slot.reset : Slot :=
  { state := .empty, head := none, tool := none, work := .idle, lever := .closed, leverPending := false
    lamp := .auto, aspect := .off, timer := none, fault := none }

/-- A lane record at reset (R99). -/
def Lane.reset : Lane := { stock := [], heat := none, late := false, cadence := none, fault := none }

/-- A zone record at reset (R112). -/
def Zone.reset : Zone := { state := .unknown, expected := false }

/-- A receiver at reset (R182). -/
def Receiver.reset : Receiver := { state := .outside, content := [], discarding := false }

/-- A cleared cell link status record whose high mark is `n` (R166). -/
def CellStatus.cleared (n : Nat) : CellStatus :=
  { errorSeen := false, crc := 0, length := 0, framing := 0, overrun := 0, protocol := 0, last := none, highMark := n }

/-- The cell link at reset (R182). -/
def CellLink.reset : CellLink :=
  { list := [], sending := none, holdoff := false, rx := Receiver.reset, status := CellStatus.cleared 0 }

/-- A head link status record at reset (R167). -/
def HeadStatus.reset : HeadStatus :=
  { errorSeen := false, crc := 0, length := 0, framing := 0, protocol := 0, last := none, downs := 0, headState := none }

/-- A head link at reset (R182). -/
def HeadLink.reset : HeadLink :=
  { up := false, silence := none, list := [], sending := none, rx := Receiver.reset, status := HeadStatus.reset }

/-- The place of a notice level in the table, highest level first (R153). -/
def NoticeLevel.rank : NoticeLevel → Fin 4
  | .alarm => 0
  | .fault => 1
  | .warn => 2
  | .info => 3

/-- The place of the entry of a source and a level among the 52 entries (R153). -/
def noticeIndex (source : Fin 13) (level : NoticeLevel) : Fin 52 :=
  ⟨source.val * 4 + level.rank.val, by omega⟩

/-- The notice table right after a reset: RESTARTED alone (R160). -/
def noticesAfterReset (cause : ResetCause) : Vector (Option Notice) 52 :=
  (Vector.replicate 52 none).set (noticeIndex 0 .info)
    (some { code := .restarted, detail := .reset cause, overrun := false })

/-- A preload that has just begun (R187). -/
def Engine.start : Engine := { phase := .header, loadSet := Tables.defaults, unlock := false }

/-- The guard record a reset reads from the two inputs (R152). -/
def Guard.read (p : GuardPins) : Guard :=
  match p.ch1, p.ch2 with
  | .closed, .closed => { ch1 := .closed, ch2 := .closed, state := .closed, timer := none }
  | .opened, .opened => { ch1 := .opened, ch2 := .opened, state := .opened, timer := none }
  | a, b => { ch1 := a, ch2 := b, state := .opened, timer := some discrepancyLength }

/-- The mode a reset leaves, by the guard state (R152). -/
def Mode.afterReset (g : Guard) : Mode := if g.state = .closed then .standby else .stop

end Sys2Proof.Machine
end

