-- ==== Sys2Proof/Machine/State.lean ====
section
/-!
DEFINITION. The state of the A3612, the reasons a step can stop, and the state right after a reset.

State is in two parts. `Setup` holds what the order machinery reads and never writes: patterns, frame, tables, mode,
guard, store, preload and clock. `Live` holds what it works on: the pool, the holes, the rails, the lanes, the zones,
the slots, the notices and the links. That an operation on the live part leaves the setup alone is then seen from its
type.
-/

namespace Sys2Proof.Machine

/-- Reasons a step faults. -/
inductive Fault where
  /-- A store address outside 0..8191, which does not exist. No command raises it: the checks of R184 and R185 refuse
  such an address first. Safe: a fault lets nothing false be proved. -/
  | storeHole (addr : Nat)
  deriving DecidableEq, Repr

/-- Reasons a step is refused. -/
inductive Refusal where
  /-- A command with no meaning yet. Raised by refused arms of `exec` alone; no arm is refused. Safe. -/
  | notModelled (mnemonic : String)
  deriving DecidableEq, Repr

/-- The part of the state that the order machinery only reads. -/
structure Setup where
  patterns : Vector (Option Pattern) 4
  freeRows : Nat
  frame : Option Frame
  tables : Tables
  mode : Mode
  guard : Guard
  pins : GuardPins
  strap : Bool
  resetHeld : Bool
  store : Store
  preload : PreloadState
  engine : Option Engine
  lockout : Bool
  resetCause : ResetCause
  restart : RestartPhase
  headHold : Option Nat
  now : Nat
  freeIndex : Nat
  deriving DecidableEq, Repr

/-- The part of the state that commands and reports work on. -/
structure Live where
  pool : List Order
  slow : Bool
  holes : List Hole
  holdings : Vector (Option Holding) 12
  travels : Vector (Option Travel) 12
  requestsA : List Request
  requestsB : List Request
  unitsInUse : Nat
  lanes : Vector Lane 2
  zones : Vector Zone 8
  slots : Vector Slot 12
  notices : Vector (Option Notice) 52
  cell : CellLink
  heads : Vector HeadLink 12
  deriving DecidableEq, Repr

/-- The state of the A3612, with the queue of commands waiting to be taken. -/
structure State where
  setup : Setup
  live : Live
  pending : List Instr
  deriving DecidableEq, Repr

/-- The live part after a reset of the given cause: R24, R56, R72, R78, R99, R112, R140, R160, R182. -/
def Live.reset (cause : ResetCause) : Live :=
  { pool := []
    slow := false
    holes := []
    holdings := Vector.replicate 12 none
    travels := Vector.replicate 12 none
    requestsA := []
    requestsB := []
    unitsInUse := 0
    lanes := Vector.replicate 2 Lane.reset
    zones := Vector.replicate 8 Zone.reset
    slots := Vector.replicate 12 Slot.reset
    notices := noticesAfterReset cause
    cell := CellLink.reset
    heads := Vector.replicate 12 HeadLink.reset }

/-- The machine right after a reset with cause POWER (R193): every block at its reset value, RESTARTED posted, and the
preload begun (R187). What a reset does not set (the inputs, the strap, the store, the clock) has the values of log
entries 3, 4 and 6. -/
def State.reset : State :=
  { setup :=
      { patterns := Vector.replicate 4 none
        freeRows := Config.patternRows
        frame := none
        tables := Tables.defaults
        mode := .standby
        guard := { ch1 := .closed, ch2 := .closed, state := .closed, timer := none }
        pins := { ch1 := .closed, ch2 := .closed }
        strap := false
        resetHeld := false
        store := { cells := [], present := true, writing := none }
        preload := .running
        engine := some Engine.start
        lockout := true
        resetCause := .power
        restart := .idle
        headHold := none
        now := 0
        freeIndex := 0 }
    live := Live.reset .power
    pending := [] }

end Sys2Proof.Machine
end

