-- ==== Sys2Proof/Machine/Flags.lean ====
section
/-!
DEFINITION. Flags, counts and codes: the link status records (R166, R167), SLOW (R54), ATTENTION (R156), HOLDOFF (R171),
the flags byte (section 9.6), and the numeric codes of R177 and of the layouts.
-/

namespace Sys2Proof.Machine

/-- A count that stops at 255 (R166, R167). -/
def countUp (n : Nat) : Nat := if n < 255 then n + 1 else 255

/-- Recording an error in the cell link status record (R166). -/
def CellStatus.record (st : CellStatus) (e : LinkError) : CellStatus :=
  let st := { st with errorSeen := true, last := some e }
  match e with
  | .crc => { st with crc := countUp st.crc }
  | .length => { st with length := countUp st.length }
  | .framing => { st with framing := countUp st.framing }
  | .overrun => { st with overrun := countUp st.overrun }
  | .protocol => { st with protocol := countUp st.protocol }

/-- Recording an error in a head link status record (R167). A head link has no OVERRUN. -/
def HeadStatus.record (st : HeadStatus) (e : LinkError) : HeadStatus :=
  match e with
  | .crc => { st with errorSeen := true, last := some e, crc := countUp st.crc }
  | .length => { st with errorSeen := true, last := some e, length := countUp st.length }
  | .framing => { st with errorSeen := true, last := some e, framing := countUp st.framing }
  | .protocol => { st with errorSeen := true, last := some e, protocol := countUp st.protocol }
  | .overrun => st

/-- A head link status record after QUERY SLOT has cleared it (R167): the last head state is kept. -/
def HeadStatus.cleared (st : HeadStatus) : HeadStatus := { HeadStatus.reset with headState := st.headState }

/-- SLOW after an order has entered and the pool holds `n` (R54). -/
def slowAfterEntry (n : Nat) (slow : Bool) : Bool := if 24 ≤ n then true else slow

/-- SLOW after an order has left and the pool holds `n` (R54). -/
def slowAfterLeaving (n : Nat) (slow : Bool) : Bool := if n < 20 then false else slow

/-- HOLDOFF when the cell outbound list count becomes `n` (R171). -/
def holdoffAt (n : Nat) (held : Bool) : Bool := if 48 ≤ n then true else if n < 32 then false else held

/-- ATTENTION (R156): some entry is filled. -/
def attention (l : Live) : Bool := l.notices.toList.any Option.isSome

/-- The flags written when a message is placed (R170); HOLDOFF is written when its transmission begins. -/
def flagsAtPlacement (c : Setup) (l : Live) : CellFlags :=
  { attention := attention l, slow := l.slow, locked := c.lockout, holdoff := false, mode := c.mode }

/-- Mode code of the flags byte (section 9.6). -/
def Mode.code : Mode → Nat
  | .standby => 0
  | .hold => 1
  | .run => 2
  | .stop => 3

/-- The flags byte (section 9.6): bit 7 ATTENTION, bit 6 SLOW, bit 5 LOCKED, bit 4 HOLDOFF, bits 1..0 the mode. -/
def CellFlags.byte (f : CellFlags) : Byte :=
  BitVec.ofNat 8 (f.attention.toNat * 128 + f.slow.toNat * 64 + f.locked.toNat * 32 + f.holdoff.toNat * 16 + f.mode.code)

/-- Kind codes of orders (section 9.5). -/
def OrderKind.code : OrderKind → Nat
  | .drill => 0x10
  | .ream => 0x11
  | .set => 0x12
  | .heat => 0x13
  | .clamp => 0x14
  | .unclamp => 0x15
  | .park => 0x16

/-- Reason codes (R177). -/
def Reason.code : Reason → Nat
  | .locked => 1
  | .stopped => 2
  | .noFrame => 3
  | .tagInUse => 4
  | .poolFull => 5
  | .badSlot => 6
  | .badZone => 7
  | .slotAbsent => 8
  | .slotFaulted => 9
  | .slotLeaving => 10
  | .wrongKind => 11
  | .badValue => 12
  | .badHole => 13
  | .badLane => 14
  | .wrongRail => 15
  | .holeState => 16
  | .holeClaimed => 17
  | .laneAuto => 18
  | .toolSpent => 19
  | .unknownTag => 20
  | .unknownKind => 21
  | .exists_ => 22
  | .noRoom => 23
  | .noPattern => 24
  | .patternComplete => 25
  | .badRow => 26
  | .patternInUse => 27
  | .patternIncomplete => 28
  | .noRow => 29
  | .wrongMode => 30
  | .inFlight => 31
  | .zoneClamped => 32
  | .guardOpen => 33
  | .frameBound => 34
  | .inUse => 35
  | .channels => 36
  | .slotState => 37
  | .slotBusy => 38
  | .busy => 39
  | .badAddress => 40
  | .protected_ => 41
  | .badImage => 42

/-- Wait reason codes (R177). -/
def WaitReason.code : WaitReason → Nat
  | .mode => 1
  | .queued => 2
  | .predecessor => 3
  | .zone => 4
  | .position => 5
  | .pump => 6
  | .rivet => 7
  | .laneFull => 8
  | .inZone => 9

/-- State codes of a TAKEN (R177). -/
def TakenState.code : TakenState → Nat
  | .waiting _ => 1
  | .travelling => 2
  | .issued => 3
  | .aborting => 4
  | .left => 5

/-- Outcome codes of ORDER DONE (section 9.6). -/
def OrderOutcome.code : OrderOutcome → Nat
  | .completed => 1
  | .cancelled => 2
  | .aborted => 3
  | .failed => 4
  | .withdrawn => 5

/-- Cause codes of ORDER DONE (section 9.6). -/
def DoneCause.code : DoneCause → Nat
  | .cancel => 1
  | .guard => 2
  | .clampLost => 3
  | .rivetCold => 4
  | .cancelLate => 5
  | .headFault => 6
  | .opTimeout => 7
  | .noAccept => 8
  | .linkLost => 9
  | .abortLost => 10
  | .positionLost => 11
  | .slotFaulted => 12
  | .slotLeaving => 13
  | .slotLost => 14
  | .toolSpent => 15
  | .frameEnded => 16
  | .holeChanged => 17

/-- Hole state codes (section 9.6), 1 PLANNED to 10 BARRED. -/
def HoleState.code : HoleState → Nat
  | .planned => 1
  | .drilling => 2
  | .drilled => 3
  | .oversize => 4
  | .undersize => 5
  | .suspect => 6
  | .setting => 7
  | .set => 8
  | .defect => 9
  | .barred => 10

/-- The ten hole states in the order of R12. -/
def HoleState.all : List HoleState :=
  [.planned, .drilling, .drilled, .oversize, .undersize, .suspect, .setting, .set, .defect, .barred]

/-- Gauge codes of a DONE (section 9.6). -/
def Gauge.ofCode : Nat → Option Gauge
  | 1 => some .within
  | 2 => some .under
  | 3 => some .over
  | _ => none

/-- The code of a gauge result. -/
def Gauge.code : Gauge → Nat
  | .within => 1
  | .under => 2
  | .over => 3

/-- Force codes of a DONE (section 9.6). -/
def Force.ofCode : Nat → Option Force
  | 1 => some .ok
  | 2 => some .low
  | 3 => some .high
  | _ => none

/-- The code of a force result. -/
def Force.code : Force → Nat
  | .ok => 1
  | .low => 2
  | .high => 3

/-- Aspect codes of LAMP (section 9.5). -/
def Aspect.code : Aspect → Nat
  | .off => 0
  | .steady => 1
  | .blink => 2

/-- REJOIN reason codes (R177). -/
def RejoinReason.code : RejoinReason → Nat
  | .refused .badHello => 1
  | .refused .kindMismatch => 2
  | .refused .positionConflict => 3
  | .refused .laneTaken => 4
  | .refused .channels => 5
  | .preload => 6
  | .cleared => 7

/-- The level at which a code is posted (section 8.5). -/
def NoticeCode.level : NoticeCode → NoticeLevel
  | .guardOpen => .alarm
  | .guardDiscrepancy => .alarm
  | .clampLost => .alarm
  | .slotFault => .fault
  | .linkLost => .fault
  | .heatFailed => .fault
  | .preloadFailed => .fault
  | .opSlow => .warn
  | .leverOpen => .warn
  | .joinRefused => .warn
  | .toolSpent => .warn
  | .heatLate => .warn
  | .claimStarved => .warn
  | .guardClosed => .info
  | .rivetScrapped => .info
  | .restarted => .info

/-- An abort cause as an ORDER DONE carries it (R50). -/
def AbortCause.asDone : AbortCause → DoneCause
  | .cancel => .cancel
  | .guard => .guard
  | .clampLost => .clampLost
  | .rivetCold => .rivetCold

/-- An abort cause as the ORDER DONE of an operation the tool had touched carries it (R49): CANCEL is CANCEL_LATE. -/
def AbortCause.asPartial : AbortCause → DoneCause
  | .cancel => .cancelLate
  | .guard => .guard
  | .clampLost => .clampLost
  | .rivetCold => .rivetCold

/-- A loss cause as an ORDER DONE carries it (R52). -/
def LossCause.asDone : LossCause → DoneCause
  | .headFault => .headFault
  | .noAccept => .noAccept
  | .opTimeout => .opTimeout
  | .positionLost => .positionLost
  | .abortLost => .abortLost
  | .linkLost => .linkLost

end Sys2Proof.Machine
end

