-- ==== Sys2Proof/Machine/Ops.lean ====
section
/-!
DEFINITION. The named operations every block shares: vectors, notices, the cell outbound list, the head outbound lists,
the pool, the slot records, the operation timer, the store, time, and the two envelopes a message is taken through.
-/

namespace Sys2Proof.Machine

/-! ### Vectors and numbers -/

/-- A vector with the entry at `i` passed through `f`. -/
def vmod {α : Type} {n : Nat} (v : Vector α n) (i : Fin n) (f : α → α) : Vector α n := v.set i (f v[i])

/-- A vector with every entry passed through `f`. -/
def vmap {α β : Type} {n : Nat} (f : α → β) (v : Vector α n) : Vector β n := ⟨(v.toList.map f).toArray, by simp⟩

/-- Slot number 1..12 as an index; `none` outside that range. -/
def slotOf (n : Nat) : Option SlotId := if h : 1 ≤ n ∧ n ≤ 12 then some ⟨n - 1, by omega⟩ else none

/-- Zone number 1..8 as an index. -/
def zoneOf (n : Nat) : Option ZoneId := if h : 1 ≤ n ∧ n ≤ 8 then some ⟨n - 1, by omega⟩ else none

/-- Lane number 1..2 as an index. -/
def laneOf (n : Nat) : Option LaneId := if h : 1 ≤ n ∧ n ≤ 2 then some ⟨n - 1, by omega⟩ else none

/-- Pattern number 1..4 as an index. -/
def patternOf (n : Nat) : Option PatternId := if h : 1 ≤ n ∧ n ≤ 4 then some ⟨n - 1, by omega⟩ else none

/-- The twelve slots in number order. -/
def allSlots : List SlotId := List.finRange 12

/-- The eight zones in number order. -/
def allZones : List ZoneId := List.finRange 8

/-- The value of a timing entry that is acted on (R178): as written, or the minimum when that is higher. -/
def actedOn (e : TimingEntry) (written : Nat) : Nat := max written timingMinima[e]

/-- The acted value of an entry of the table in force. -/
def Setup.acted (c : Setup) (e : TimingEntry) : Nat := actedOn e c.tables.timing[e]

/-- Whether orders progress and rails grant (R29, R63): RUN or STANDBY. -/
def Setup.progresses (c : Setup) : Bool := c.mode == .run || c.mode == .standby

/-! ### Notices (R154) -/

/-- The notice source of a slot (R153). -/
def slotSource (s : SlotId) : Fin 13 := ⟨s.val + 1, by omega⟩

/-- An entry after a post (R154): an empty one is filled, a filled one is marked OVERRUN. -/
def postedEntry (code : NoticeCode) (d : Detail) : Option Notice → Notice
  | none => { code, detail := d, overrun := false }
  | some n => { n with overrun := true }

/-- Posting a notice (R154), at the level the catalogue gives its code. -/
def Live.post (source : Fin 13) (code : NoticeCode) (d : Detail) (l : Live) : Live :=
  { l with notices := vmod l.notices (noticeIndex source code.level) fun e => some (postedEntry code d e) }

/-- Posting a notice with a slot as source. -/
def Live.postSlot (s : SlotId) (code : NoticeCode) (d : Detail) (l : Live) : Live := l.post (slotSource s) code d

/-! ### The cell outbound list (R170, R171) -/

/-- The oldest message leaves the list and begins its transmission, when the transmitter is idle. HOLDOFF is moved by the
new count and then written into the flags. -/
def CellLink.begin_ (k : CellLink) : CellLink :=
  match k.sending, k.list with
  | none, m :: rest =>
    let held := holdoffAt rest.length k.holdoff
    { k with list := rest, holdoff := held, sending := some { m with flags := { m.flags with holdoff := held } } }
  | _, _ => k

/-- Placing a message: it joins the list, moves HOLDOFF and the high mark (R166), and begins at once on an idle
transmitter. -/
def CellLink.place (m : CellMsg) (k : CellLink) : CellLink :=
  let list := k.list ++ [m]
  let k := { k with
    list
    holdoff := holdoffAt list.length k.holdoff
    status := { k.status with highMark := max k.status.highMark list.length } }
  k.begin_

/-- Placing a message for the cell with the flags of this moment (R170). -/
def Live.place (c : Setup) (b : CellBody) (l : Live) : Live :=
  { l with cell := l.cell.place { body := b, flags := flagsAtPlacement c l } }

/-- The messages for the cell in the order placed, the one in transmission first. -/
def CellLink.bodies (k : CellLink) : List CellBody := (k.sending.toList ++ k.list).map CellMsg.body

/-- Recording an error of the cell link (R166). -/
def Live.cellError (e : LinkError) (l : Live) : Live :=
  { l with cell := { l.cell with status := l.cell.status.record e } }

/-! ### The pool -/

/-- The pool order with a tag, if any. -/
def Live.order? (l : Live) (tag : Nat) : Option Order := l.pool.find? fun o => o.tag == tag

/-- The pool order of a slot with a tag, if any. -/
def Live.orderOf? (l : Live) (s : SlotId) (tag : Nat) : Option Order := l.pool.find? fun o => o.tag == tag && o.slot == s

/-- The pool with the order of a tag passed through `f`. -/
def Live.updOrder (tag : Nat) (f : Order → Order) (l : Live) : Live :=
  { l with pool := l.pool.map fun o => if o.tag = tag then f o else o }

/-- In flight (R26): every state but WAITING. -/
def Order.inFlight (o : Order) : Bool := o.state != .waiting

/-- The hole a hole kind aims at (section 2.1); absent for the other kinds. -/
def Order.hole? (o : Order) : Option Nat :=
  match o.target with
  | .hole n => some n
  | _ => none

/-- The order under an operation: ISSUED, RUNNING, or ABORTING with aborted step OPERATION (R34, R73). -/
def Order.operating (o : Order) : Bool :=
  o.state == .issued || o.state == .running || (o.state == .aborting && o.step == some .operation)

/-! ### Slots, heads and their links -/

/-- A slot record passed through `f`. -/
def Live.updSlot (s : SlotId) (f : Slot → Slot) (l : Live) : Live := { l with slots := vmod l.slots s f }

/-- A head link passed through `f`. -/
def Live.updHead (s : SlotId) (f : HeadLink → HeadLink) (l : Live) : Live := { l with heads := vmod l.heads s f }

/-- A lane record passed through `f`. -/
def Live.updLane (i : LaneId) (f : Lane → Lane) (l : Live) : Live := { l with lanes := vmod l.lanes i f }

/-- A zone record passed through `f`. -/
def Live.updZone (z : ZoneId) (f : Zone → Zone) (l : Live) : Live := { l with zones := vmod l.zones z f }

/-- Recording PROTOCOL, or another error, in the link status of a slot (R167). -/
def Live.headError (s : SlotId) (e : LinkError) (l : Live) : Live :=
  l.updHead s fun k => { k with status := k.status.record e }

/-- READY, BUSY, LEAVING or RELEASED: a head has joined and is trusted. -/
def SlotState.joined : SlotState → Bool
  | .ready | .busy | .leaving | .released => true
  | _ => false

/-- READY or BUSY. -/
def SlotState.working : SlotState → Bool
  | .ready | .busy => true
  | _ => false

/-- The head kind of declared fields (R113). -/
def Declared.kind : Declared → HeadKind
  | .drill _ _ => .drill
  | .set _ _ => .set
  | .heat _ => .heat
  | .clamp _ => .clamp

/-- The head kind of a slot, kept through FAULTED (R113). -/
def Slot.kind? (s : Slot) : Option HeadKind := s.head.map fun j => j.declared.kind

/-- The rail a slot's head declared (R113). -/
def Slot.rail? (s : Slot) : Option Rail :=
  match s.head.map Joined.declared with
  | some (.drill r _) => some r
  | some (.set r _) => some r
  | _ => none

/-- The tag of the work in flight; 0 for a lane heat. -/
def Work.tag? : Work → Option Nat
  | .idle => none
  | .order t => some t
  | .heat _ => some 0

/-! ### The operation timer (R132) -/

/-- The RUN stage's limit by order kind (R133). -/
def OrderKind.limit : OrderKind → TimingEntry
  | .drill => Timing.drillLimit
  | .ream => Timing.reamLimit
  | .set => Timing.setLimit
  | .heat => Timing.heatLimit
  | _ => Timing.clampLimit

/-- A stage starts in full, replacing whatever stage was running (R132). -/
def Live.startStage (s : SlotId) (stage : TimedStage) (length : Nat) (l : Live) : Live :=
  l.updSlot s fun x => { x with timer := some { stage, left := length } }

/-- The timer stops (R134). -/
def Live.stopTimer (s : SlotId) (l : Live) : Live := l.updSlot s fun x => { x with timer := none }

/-! ### Head outbound lists (R175, R176) -/

/-- The transmission class of a message (R176). -/
def HeadMsg.cls : HeadMsg → Nat
  | .abort _ | .discard _ | .lamp _ => 1
  | .welcome _ _ | .rejoin _ | .toolSync _ _ _ => 2
  | .issue _ _ | .travel _ _ => 3

/-- The oldest message of a class, and the list without it. -/
def takeClass (k : Nat) : List HeadMsg → Option (HeadMsg × List HeadMsg)
  | [] => none
  | m :: rest =>
    if m.cls = k then some (m, rest)
    else
      match takeClass k rest with
      | none => none
      | some (x, rest') => some (x, m :: rest')

/-- The message chosen next (R176): the oldest of the highest class that has one. -/
def chooseHead (list : List HeadMsg) : Option (HeadMsg × List HeadMsg) :=
  match takeClass 1 list with
  | some r => some r
  | none =>
    match takeClass 2 list with
    | some r => some r
    | none => takeClass 3 list

/-- What a transmission's beginning turns to sent (R176): the issue mark or travel mark of the order, or for tag 0 the
issue mark of the lane heat on that slot. The order is found by the tag of the message, whatever order bears that tag now:
for an ISSUE left queued by `Taking.workEnds` this is the model's choice (DESIGN CHOICE, log entry 27). -/
def Live.markSent (s : SlotId) (m : HeadMsg) (l : Live) : Live :=
  match m with
  | .issue 0 _ =>
    { l with lanes := vmap (fun x : Lane =>
        { x with heat := x.heat.map fun h =>
            if h.slot = s ∧ h.origin = .lane then { h with mark := some .sent } else h }) l.lanes }
  | .issue tag _ => l.updOrder tag fun o => { o with issueMark := some .sent }
  | .travel tag _ => l.updOrder tag fun o => { o with travelMark := some .sent }
  | _ => l

/-- Choosing and beginning the next transmission on an idle head link (R176), unless the links are held (R194). -/
def Live.beginHead (c : Setup) (s : SlotId) (l : Live) : Live :=
  match c.headHold, l.heads[s].sending, chooseHead l.heads[s].list with
  | none, none, some (m, rest) =>
    (l.updHead s fun k => { k with list := rest, sending := some m }).markSent s m
  | _, _, _ => l

/-- Queuing a message on a slot outbound list; on an idle link it begins at once (R176). -/
def Live.queue (c : Setup) (s : SlotId) (m : HeadMsg) (l : Live) : Live :=
  (l.updHead s fun k => { k with list := k.list ++ [m] }).beginHead c s

/-- Removing unsent messages from a slot outbound list. -/
def Live.unqueue (s : SlotId) (p : HeadMsg → Bool) (l : Live) : Live :=
  l.updHead s fun k => { k with list := k.list.filter fun m => !p m }

def HeadMsg.isLamp : HeadMsg → Bool
  | .lamp _ => true
  | _ => false

def HeadMsg.isAbort : HeadMsg → Bool
  | .abort _ => true
  | _ => false

def HeadMsg.isDiscard : HeadMsg → Bool
  | .discard _ => true
  | _ => false

def HeadMsg.isToolSync : HeadMsg → Bool
  | .toolSync _ _ _ => true
  | _ => false

/-- DISCARD is not queued while 4 stand unsent (R175). -/
def Live.queueDiscard (c : Setup) (s : SlotId) (serial : Nat) (l : Live) : Live :=
  if 4 ≤ (l.heads[s].list.filter HeadMsg.isDiscard).length then l else l.queue c s (.discard serial)

/-- The one message of WELCOME, REJOIN and TOOL SYNC (R119): a newer one replaces the unsent one, but a TOOL SYNC gives
way to an unsent WELCOME or REJOIN. -/
def Live.queueJoin (c : Setup) (s : SlotId) (m : HeadMsg) (l : Live) : Live :=
  if m.isToolSync && l.heads[s].list.any (fun x => x.cls == 2 && !x.isToolSync) then l
  else (l.unqueue s fun x => x.cls == 2).queue c s m

/-- TOOL SYNC with the slot's tool record (R138); none without one. -/
def Live.queueToolSync (c : Setup) (s : SlotId) (l : Live) : Live :=
  match l.slots[s].tool with
  | none => l
  | some t => l.queueJoin c s (.toolSync t.id t.limit t.count)

/-! ### The lamp (R125) -/

/-- The aspect a setting and a state give (R125). -/
def aspectOf (setting : LampSetting) (st : SlotState) : Aspect :=
  match setting, st with
  | .forceOn, _ => .steady
  | .forceOff, _ => .off
  | .auto, .leaving => .blink
  | .auto, .released => .steady
  | .auto, _ => .off

/-- Queuing LAMP with the recorded aspect, replacing an unsent LAMP. -/
def Live.queueLamp (c : Setup) (s : SlotId) (l : Live) : Live :=
  (l.unqueue s HeadMsg.isLamp).queue c s (.lamp l.slots[s].aspect)

/-- The aspect worked out anew (R125): LAMP is queued when it differs from the one last recorded, but not in EMPTY
(log entry 15). -/
def Live.syncLamp (c : Setup) (s : SlotId) (l : Live) : Live :=
  let a := aspectOf l.slots[s].lamp l.slots[s].state
  if a = l.slots[s].aspect then l
  else
    let l := l.updSlot s fun x => { x with aspect := a }
    if l.slots[s].state = .empty then l else l.queueLamp c s

/-! ### A taking -/

/-- One command being taken: the live state so far, which examinations its events have started (R35, R63), and whether
ORDER DONE messages wait for the reply (R28, R45, R142). -/
structure Taking where
  live : Live
  gateDue : Bool
  railADue : Bool
  railBDue : Bool
  holdDones : Bool
  held : List CellBody
  deriving DecidableEq, Repr

/-- A taking at its start. -/
def Taking.start (l : Live) : Taking :=
  { live := l, gateDue := false, railADue := false, railBDue := false, holdDones := false, held := [] }

/-- A taking that places its reply before its ORDER DONE messages. -/
def Taking.holding (l : Live) : Taking := { Taking.start l with holdDones := true }

/-- A change of the live state alone. -/
def Taking.on (f : Live → Live) (t : Taking) : Taking := { t with live := f t.live }

/-- An event of R35. -/
def Taking.wakeGate (t : Taking) : Taking := { t with gateDue := true }

/-- An event of R63 on a rail. -/
def Taking.wakeRail (r : Rail) (t : Taking) : Taking :=
  match r with
  | .a => { t with railADue := true }
  | .b => { t with railBDue := true }

/-- An ORDER DONE is placed, or held for the reply. -/
def Taking.placeDone (c : Setup) (d : OrderDone) (t : Taking) : Taking :=
  if t.holdDones then { t with held := t.held ++ [.orderDone d] } else t.on (Live.place c (.orderDone d))

/-- The held ORDER DONE messages are placed. -/
def Taking.flush (c : Setup) (t : Taking) : Taking :=
  { t with live := t.held.foldl (fun l b => l.place c b) t.live, held := [], holdDones := false }

/-! ### The configuration store (R184, R185) -/

namespace Memory

/-- What an unlisted address reads as (log entry 3). -/
def blank : Byte := 0xFF

/-- The canonical form: addresses strictly rising and below 8,192, no entry equal to `blank`. -/
def wfFrom (low : Nat) : List Host.Cell → Bool
  | [] => true
  | (a, b) :: rest => decide (low ≤ a) && decide (a < Config.storeSize) && !(b == blank) && wfFrom (a + 1) rest

/-- The store's contents are in canonical form. -/
def wf (m : List Host.Cell) : Bool := wfFrom 0 m

/-- The byte at an address. -/
def read (m : List Host.Cell) (a : Nat) : Byte :=
  match m with
  | [] => blank
  | (x, b) :: rest => if x = a then b else read rest a

/-- The contents without an address. -/
def erase (a : Nat) : List Host.Cell → List Host.Cell
  | [] => []
  | (x, b) :: rest => if x = a then rest else (x, b) :: erase a rest

/-- The contents with a listed byte put in address order. -/
def insert (a : Nat) (v : Byte) : List Host.Cell → List Host.Cell
  | [] => [(a, v)]
  | (x, b) :: rest =>
    if a < x then (a, v) :: (x, b) :: rest
    else if a = x then (a, v) :: rest
    else (x, b) :: insert a v rest

/-- Writing a byte; `blank` removes the entry. -/
def write (m : List Host.Cell) (a : Nat) (v : Byte) : List Host.Cell := if v = blank then erase a m else insert a v m

/-- Writing bytes from an address on. -/
def writeAll (m : List Host.Cell) (a : Nat) : List Byte → List Host.Cell
  | [] => m
  | v :: rest => writeAll (write m a v) (a + 1) rest

/-- Reading `n` bytes from an address on. -/
def readAll (m : List Host.Cell) (a : Nat) : Nat → List Byte
  | 0 => []
  | n + 1 => read m a :: readAll m (a + 1) n

end Memory

/-- A byte as the block reads it: FFh everywhere when the device does not answer (R184). -/
def Store.byte (m : Store) (a : Nat) : Byte := if m.present then Memory.read m.cells a else Memory.blank

/-- `n` bytes from an address on, as the block reads them. -/
def Store.bytes (m : Store) (a : Nat) : Nat → List Byte
  | 0 => []
  | n + 1 => m.byte a :: m.bytes (a + 1) n

/-- A store write is in progress (R185). After a reset the preload waits for it, so no message meets one of before. -/
def Store.busy (m : Store) : Bool := m.writing.isSome

/-- The write ends: the bytes stand in the store, unless its device does not answer (R185). -/
def Store.finishWrite (m : Store) : Store :=
  match m.writing with
  | none => m
  | some w =>
    { m with writing := none, cells := if m.present then Memory.writeAll m.cells w.addr w.data else m.cells }

/-! ### Time -/

/-- A request after `n` ms in which its clock counts (R62). -/
def Request.age (n : Nat) (q : Request) : Request := { q with waited := q.waited + n }

/-- `n` milliseconds pass (log entry 1): the clock counts on, every running timer runs down by `n`, stopping at 0, and
the claim clocks count in RUN and STANDBY (R62). -/
def State.elapse (n : Nat) (s : State) : State :=
  let c := s.setup
  let l := s.live
  let aged := fun q : Request => if c.progresses then q.age n else q
  { s with
    setup := { c with
      now := c.now + n
      guard := { c.guard with timer := c.guard.timer.map (· - n) }
      store := { c.store with writing := c.store.writing.map fun w => { w with left := w.left - n } }
      headHold := c.headHold.map (· - n) }
    live := { l with
      slots := vmap (fun x : Slot => { x with timer := x.timer.map fun t => { t with left := t.left - n } }) l.slots
      heads := vmap (fun k : HeadLink => { k with silence := k.silence.map (· - n) }) l.heads
      lanes := vmap (fun x : Lane => { x with cadence := x.cadence.map (· - n) }) l.lanes
      requestsA := l.requestsA.map aged
      requestsB := l.requestsB.map aged } }

/-! ### Resets (R193) -/

/-- A reset with a cause: every block at its reset value, the guard and mode read from the two inputs (R152), RESTARTED
posted (R160), the preload begun (R187), a store write in the device going on with its ANSWER lost (R185), and after a
RESTART the head links held for 300 ms (R194). A reset of another cause within those 300 ms ends the hold at once (R182 and
R194 leave this open; DESIGN CHOICE, log entry 35). -/
def State.takeReset (cause : ResetCause) (s : State) : State :=
  let g := Guard.read s.setup.pins
  { setup := { State.reset.setup with
      mode := Mode.afterReset g
      guard := g
      pins := s.setup.pins
      strap := s.setup.strap
      store := { s.setup.store with writing := s.setup.store.writing.map fun w => { w with answer := none } }
      resetCause := cause
      headHold := if cause = .restart then some headHoldTime else none
      now := s.setup.now
      freeIndex := s.setup.freeIndex }
    live := Live.reset cause
    pending := s.pending }

/-! ### Envelopes -/

/-- What a command answers. -/
abbrev Result := Host.Outcome State Fault Refusal

/-- The form of the reply to a cell message (R169). -/
inductive ReplyForm where
  | order | management
  deriving DecidableEq, Repr

/-- A refusal in its form (R169). -/
def refusal (form : ReplyForm) (tag : Nat) (r : Reason) : CellBody :=
  match form with
  | .order => .refused tag r
  | .management => .answer tag (.refused r)

/-- A message for the cell placed in a state. -/
def State.place (b : CellBody) (s : State) : State := { s with live := s.live.place s.setup b }

/-- The receiver of the cell link closes its frame. -/
def Live.closeFrame (l : Live) : Live := { l with cell := { l.cell with rx := Receiver.reset } }

/-- Whether the frame now closing began under HOLDOFF (R171): as its start delimiter found it, or, when the frame came as
one command, as HOLDOFF stands (log entry 11). -/
def CellLink.underHoldoff (k : CellLink) : Bool :=
  match k.rx.state with
  | .outside => k.holdoff
  | _ => k.rx.discarding

/-- Taking a good frame on the cell link (R168). While the reset pin is held nothing is taken (R183); after RESTART was
taken every frame is discarded (R194); a frame that began under HOLDOFF is discarded with OVERRUN (R171); during a
preload everything but QUERY STATUS is refused LOCKED (R190); then the selector, the body length (R168) and the lockout
(R191) are weighed; what passes goes to `take`. -/
def cellMessage (form : ReplyForm) (h : Header) (exempt selOk lenOk lockable : Bool) (take : State → State) (s : State) :
    Result :=
  if s.setup.resetHeld then .next s
  else
    let under := s.live.cell.underHoldoff
    let s := { s with live := s.live.closeFrame }
    if s.setup.restart ≠ .idle then .next s
    else if under then .next { s with live := s.live.cellError .overrun }
    else if s.setup.preload = .running ∧ !exempt then .next (s.place (.refused h.tag .locked))
    else if !selOk then .next (s.place (refusal form h.tag .badValue))
    else if !lenOk then .next (s.place (refusal form h.tag .badValue))
    else if lockable && s.setup.lockout then .next (s.place (refusal form h.tag .locked))
    else .next (take s)

/-- The ANSWER to a management message. -/
def State.answer (h : Header) (a : Answer) (s : State) : State := s.place (.answer h.tag a)

/-- A byte received on a head link that is UP restarts its silence timer (R173). -/
def Live.heard (s : SlotId) (l : Live) : Live :=
  l.updHead s fun k => if k.up then { k with silence := some silenceLimit } else k

/-- What every good frame on a head link does first (R173, R174): its bytes are line activity, its head state is
recorded, with PROTOCOL when it is none of the four, and its frame is closed. That PROTOCOL is recorded for a CLAMP STATE as
well that step 1 of R102 ignores with "No link status is recorded for it" (DESIGN CHOICE, log entry 13). A message commanded
while the link's receiver holds an open frame is taken as that frame's close, with no FRAMING for a start delimiter of its own
(R165; DESIGN CHOICE, log entry 39). -/
def Live.headFrame (slot : SlotId) (hs : Nat) (l : Live) : Live :=
  let l := (l.heard slot).updHead slot fun k =>
    { k with rx := Receiver.reset, status := { k.status with headState := some hs } }
  if 3 < hs then l.headError slot .protocol else l

/-- Taking a good frame on a head link (R174): nothing while the reset pin is held (R183); a message from an EMPTY slot is
set aside with PROTOCOL; any other goes to `take`. -/
def headReport (slot : SlotId) (hs : Nat) (take : State → State) (s : State) : Result :=
  if s.setup.resetHeld then .next s
  else
    let l := s.live.headFrame slot hs
    if l.slots[slot].state = .empty then .next { s with live := l.headError slot .protocol }
    else .next (take { s with live := l })

/-- An event of the block or its inputs: none is taken while the reset pin is held (R183). -/
def event (take : State → State) (s : State) : Result := if s.setup.resetHeld then .next s else .next (take s)

end Sys2Proof.Machine
end

