-- ==== Sys2Proof/Machine/Holes.lean ====
section
/-!
DEFINITION. The Hole Table (chapter 1): rows and entries of the bound frame, and every change of hole state (R12 to R22).
-/

namespace Sys2Proof.Machine

/-- The row stored for a hole of a pattern. -/
def Pattern.row? (p : Pattern) (hole : Nat) : Option PatternRow :=
  if hole = 0 then none
  else
    match p.rows[hole - 1]? with
    | some r => r
    | none => none

/-- The pattern row of a hole of the bound frame (R12). -/
def Setup.row? (c : Setup) (hole : Nat) : Option PatternRow :=
  match c.frame with
  | none => none
  | some f =>
    match c.patterns[f.pattern] with
    | none => none
    | some p => p.row? hole

/-- The entry of a hole (R12). -/
def Live.hole? (l : Live) (hole : Nat) : Option Hole := if hole = 0 then none else l.holes[hole - 1]?

/-- A hole entry passed through `f`. -/
def Live.updHole (hole : Nat) (f : Hole → Hole) (l : Live) : Live :=
  match l.hole? hole with
  | none => l
  | some x => { l with holes := l.holes.set (hole - 1) (f x) }

/-- A hole entry at creation (R12), with the row's diameter class as rivet class required. -/
def Hole.planned (cls : Nat) : Hole :=
  { state := .planned, cls, reworks := 0, lastDrill := none, gauge := none, diameter := none, rivetSerial := none
    force := none, peak := none }

/-- The hole states that admit a hole kind (R25); no other kind has a hole to be admitted by. -/
def OrderKind.admittedBy (k : OrderKind) (st : HoleState) : Bool :=
  match k, st with
  | .drill, .planned | .ream, .undersize | .ream, .suspect | .set, .drilled | .set, .oversize => true
  | _, _ => false

/-- Whether a zone is CLAMPED. -/
def Live.clamped (l : Live) (z : ZoneId) : Bool := l.zones[z].state == .clamped

/-- Whether the zone of a hole of the bound frame is CLAMPED. -/
def Live.holeClamped (c : Setup) (l : Live) (hole : Nat) : Bool :=
  match c.row? hole with
  | some r => l.clamped r.zone
  | none => false

/-- Every predecessor of a hole is SET (R14, R30). -/
def Live.predecessorsSet (c : Setup) (l : Live) (hole : Nat) : Bool :=
  match c.row? hole with
  | some r => r.preds.all fun p => (l.hole? p).any fun x => x.state == .set
  | none => false

/-- The Hole Table takes an issue (R13, R14): the state the hole leaves, and the table with the hole DRILLING or SETTING;
`none` when it declines. -/
def Live.takeIssue (c : Setup) (k : OrderKind) (hole : Nat) (l : Live) : Option (HoleState × Live) :=
  match l.hole? hole with
  | none => none
  | some x =>
    if k.admittedBy x.state && (k != .set || l.predecessorsSet c hole) then
      some (x.state, l.updHole hole fun x => { x with state := if k = .set then .setting else .drilling })
    else none

/-- The state a gauge gives, by the rivet class required (R15), and the class after it. -/
def gaugedState (g : Gauge) (cls : Nat) : HoleState × Nat :=
  match g with
  | .within => (.drilled, cls)
  | .under => (.undersize, cls)
  | .over => if cls < 6 then (.oversize, cls + 1) else (.defect, cls)

/-- Completion of a DRILL or REAM (R15): `spoiled` is the first case. A bad gauge code records its measurement with no
gauge result in the first case (log entry 14), and makes both absent in the second. -/
def Hole.drilled (slot : SlotId) (spoiled : Bool) (code value : Nat) (x : Hole) : Hole :=
  let x := { x with lastDrill := some slot, gauge := Gauge.ofCode code, diameter := some value }
  if spoiled then { x with state := .suspect }
  else
    match Gauge.ofCode code with
    | none => { x with state := .suspect, diameter := none }
    | some g => { x with state := (gaugedState g x.cls).1, cls := (gaugedState g x.cls).2 }

/-- Completion of a SET (R16): `spoiled` is the first case; a bad force code as for `Hole.drilled`. -/
def Hole.riveted (serial : Option Nat) (spoiled : Bool) (code value : Nat) (x : Hole) : Hole :=
  let x := { x with rivetSerial := serial, force := Force.ofCode code, peak := some value }
  if spoiled then { x with state := .defect }
  else
    match Force.ofCode code with
    | none => { x with state := .defect, peak := none }
    | some .ok => { x with state := .set }
    | some _ => { x with state := .defect }

/-- The return of an untouched hole (R17): to its state before issue, but SUSPECT when that is DRILLED or OVERSIZE and the
zone is not CLAMPED. A hole not in work stays. -/
def Hole.returned (before : Option HoleState) (clamped : Bool) (x : Hole) : Hole :=
  match before with
  | none => x
  | some b => { x with state := if (b = .drilled ∨ b = .oversize) ∧ !clamped then .suspect else b }

/-- The serial an order's rivet leaves in its hole when its ACCEPT had been taken (R18, R19). -/
def Order.carriedSerial? (o : Order) : Option Nat :=
  match o.rivet with
  | some r => if r.whereabouts = .carried then some r.serial else none
  | none => none

/-- The end of a touched operation (R18). -/
def Hole.partial_ (o : Order) (x : Hole) : Hole :=
  if o.kind = .set then
    { x with state := .defect, rivetSerial := o.carriedSerial?.or x.rivetSerial, force := none, peak := none }
  else { x with state := .suspect, lastDrill := some o.slot, gauge := none, diameter := none }

/-- The uncertain end (R19). -/
def Hole.uncertain (o : Order) (x : Hole) : Hole :=
  if o.kind = .set then { x with state := .defect, rivetSerial := o.carriedSerial?.or x.rivetSerial }
  else { x with state := .suspect }

/-- One hole under a zone sweep (R20). -/
def Hole.swept (x : Hole) : Hole :=
  if x.state = .drilled ∨ x.state = .oversize then { x with state := .suspect } else x

/-- The sweep of a zone over the entries from hole number `n` on (R20). -/
def sweepFrom (c : Setup) (z : ZoneId) (n : Nat) : List Hole → List Hole
  | [] => []
  | x :: rest => (if (c.row? n).any fun r => r.zone == z then x.swept else x) :: sweepFrom c z (n + 1) rest

/-- The zone sweep (R20). -/
def Live.sweep (c : Setup) (z : ZoneId) (l : Live) : Live := { l with holes := sweepFrom c z 1 l.holes }

/-- HOLE REWORK of a DEFECT hole (R21). -/
def Hole.rework (x : Hole) : Hole :=
  if x.reworks < 2 ∧ x.cls < 6 then
    { x with
      state := .suspect, reworks := x.reworks + 1, cls := x.cls + 1, gauge := none, diameter := none
      rivetSerial := none, force := none, peak := none }
  else { x with state := .barred }

/-- The number of entries in each of the ten states, in the order of R12 (R10, R111). -/
def countStates (holes : List Hole) : List Nat :=
  HoleState.all.map fun st => (holes.filter fun x => x.state == st).length

/-- The entries of one zone, from hole number `n` on. -/
def holesOfZone (c : Setup) (z : ZoneId) (n : Nat) : List Hole → List Hole
  | [] => []
  | x :: rest =>
    if (c.row? n).any fun r => r.zone == z then x :: holesOfZone c z (n + 1) rest else holesOfZone c z (n + 1) rest

end Sys2Proof.Machine
end

