-- ==== Sys2Proof/Machine/Rail.lean ====
section
/-!
DEFINITION. The Rail Arbiter (sections 3.1 to 3.5): spans, holdings, claim requests, rail examinations, grants and the
ends of travels (R57 to R70).
-/

namespace Sys2Proof.Machine

/-- The span of a centre (R57). -/
def span (centre : Nat) : Run := { first := centre - 1, last := min (centre + 1) 15 }

/-- Whether a run contains a segment. -/
def Run.contains (r : Run) (seg : Nat) : Bool := decide (r.first ≤ seg) && decide (seg ≤ r.last)

/-- Whether two runs share a segment. -/
def Run.overlaps (r q : Run) : Bool := decide (r.first ≤ q.last) && decide (q.first ≤ r.last)

/-- Whether a run lies within another. -/
def Run.inside (r q : Run) : Bool := decide (q.first ≤ r.first) && decide (r.last ≤ q.last)

/-- The sweep from a holding to a target centre (R60). -/
def sweepOf (holding : Run) (target : Nat) : Run :=
  { first := min holding.first (target - 1), last := min (max holding.last (target + 1)) 15 }

/-- The request list of a rail (R60). -/
def Live.requests (l : Live) (r : Rail) : List Request :=
  match r with
  | .a => l.requestsA
  | .b => l.requestsB

/-- The state with the request list of a rail replaced. -/
def Live.setRequests (r : Rail) (q : List Request) (l : Live) : Live :=
  match r with
  | .a => { l with requestsA := q }
  | .b => { l with requestsB := q }

/-- The state with the holding of a slot replaced. -/
def Live.setHolding (s : SlotId) (h : Option Holding) (l : Live) : Live := { l with holdings := l.holdings.set s h }

/-- The state with the travel record of a slot replaced. -/
def Live.setTravel (s : SlotId) (t : Option Travel) (l : Live) : Live := { l with travels := l.travels.set s t }

/-- Another slot than `s` holds a segment of the run on rail `r`. -/
def Live.blocked (l : Live) (s : SlotId) (r : Rail) (run : Run) : Bool :=
  allSlots.any fun x =>
    x != s && (match l.holdings[x] with
      | some h => h.rail == r && h.run.overlaps run
      | none => false)

/-- Condition POSITION (R31): the slot's holding is exactly the span of the centre. -/
def Live.positioned (l : Live) (s : SlotId) (centre : Nat) : Bool :=
  match l.holdings[s] with
  | some h => h.run == span centre
  | none => false

/-- The request filed for a tag, if any. -/
def Live.request? (l : Live) (tag : Nat) : Option Request :=
  (l.requestsA ++ l.requestsB).find? fun q => q.tag == tag

/-- Filing a claim request at the tail of its rail's list (R60). -/
def Live.fileRequest (c : Setup) (s : SlotId) (tag target : Nat) (h : Holding) (l : Live) : Live :=
  l.setRequests h.rail (l.requests h.rail ++
    [{ slot := s, tag, target, sweep := sweepOf h.run target, waited := 0
       patience := c.acted Timing.claimPatience, urgent := false }])

/-- A grant (R65): the request leaves its list, the holding becomes the sweep, a travel record opens, the order is
TRAVELLING, the slot BUSY in its TRAVEL stage, and TRAVEL is queued (R43). -/
def Live.grant (c : Setup) (r : Rail) (q : Request) (former : Run) (l : Live) : Live :=
  let l := l.setRequests r ((l.requests r).filter fun x => x.tag != q.tag)
  let l := l.setHolding q.slot (some { rail := r, run := q.sweep })
  let l := l.setTravel q.slot (some { tag := q.tag, target := q.target, sweep := q.sweep, former })
  let l := l.updOrder q.tag fun o => { o with state := .travelling, wait := none, travelMark := some .unsent }
  let l := l.updSlot q.slot fun x => { x with state := .busy, work := .order q.tag }
  let l := l.startStage q.slot .travel (c.acted Timing.travelLimit)
  l.queue c q.slot (.travel q.tag q.target)

/-- One request weighed in a rail examination (R64): `fences` are the sweeps of the older URGENT requests not granted. -/
def weighRequest (c : Setup) (r : Rail) (p : Live × List Run) (q : Request) : Live × List Run :=
  match p.1.holdings[q.slot] with
  | none => p
  | some h =>
    if !p.1.blocked q.slot r q.sweep && !p.2.any q.sweep.overlaps then (p.1.grant c r q h.run, p.2)
    else (p.1, if q.urgent then p.2 ++ [q.sweep] else p.2)

/-- An examination of a rail (R64): one pass, oldest first. -/
def Live.examineRail (c : Setup) (r : Rail) (l : Live) : Live :=
  ((l.requests r).foldl (weighRequest c r) (l, [])).1

/-- The rail examinations due, taken only in RUN and STANDBY (R63); in HOLD and STOP they are dropped. -/
def Taking.settleRails (c : Setup) (t : Taking) : Taking :=
  let l := t.live
  let l := if t.railADue && c.progresses then l.examineRail c .a else l
  let l := if t.railBDue && c.progresses then l.examineRail c .b else l
  { t with live := l, railADue := false, railBDue := false }

/-- Withdrawing the claim request of a tag, if one is filed (R61): an URGENT one lifts a fence, so its rail is due. -/
def Taking.withdrawClaim (tag : Nat) (t : Taking) : Taking :=
  let urgentA := t.live.requestsA.any fun q => q.tag == tag && q.urgent
  let urgentB := t.live.requestsB.any fun q => q.tag == tag && q.urgent
  { t with
    live := { t.live with
      requestsA := t.live.requestsA.filter fun q => q.tag != tag
      requestsB := t.live.requestsB.filter fun q => q.tag != tag }
    railADue := t.railADue || urgentA
    railBDue := t.railBDue || urgentB }

/-- The holding of a slot becomes a run on its rail, and its travel ends: freed segments make the rail due (R63). -/
def Taking.narrow (s : SlotId) (run : Run) (t : Taking) : Taking :=
  match t.live.holdings[s] with
  | none => t.on (Live.setTravel s none)
  | some h =>
    let t := t.on fun l => (l.setHolding s (some { rail := h.rail, run })).setTravel s none
    if h.run.inside run then t else t.wakeRail h.rail

/-- The restoration of an unsent travel (R69). -/
def Taking.restoreTravel (s : SlotId) (t : Taking) : Taking :=
  match t.live.travels[s] with
  | none => t
  | some v => t.narrow s v.former

/-- The holding of a slot becomes empty (R59). -/
def Taking.freeHolding (s : SlotId) (t : Taking) : Taking :=
  let t' := t.on fun l => (l.setHolding s none).setTravel s none
  match t.live.holdings[s] with
  | none => t'
  | some h => t'.wakeRail h.rail

end Sys2Proof.Machine
end

