-- ==== Sys2Proof/Machine/Lanes.lean ====
section
/-!
DEFINITION. The Rivet Lane Unit (chapter 4): lane states, the cadence timer, heats, the stock, and what an order's end
does to its rivet (R79 to R96).
-/

namespace Sys2Proof.Machine

/-- Work ends on a slot: none in flight, the timer stopped (R134), an unsent ABORT for it removed (R175), and a BUSY slot
READY again, which starts an examination (R35). A DONE may complete an ISSUED order whose ISSUE is still unsent; no rule
removes that ISSUE, and it stays queued until it is sent, or until a later unsent ISSUE or TRAVEL of the slot is taken back and
it goes too (`Taking.undoUnsent`, `Taking.stopHeat`), or the slot is lost (DESIGN CHOICE, log entry 27). -/
def Taking.workEnds (s : SlotId) (t : Taking) : Taking :=
  let busy := t.live.slots[s].state = .busy
  let t := t.on fun l => (l.updSlot s fun x =>
    { x with work := .idle, timer := none, state := if x.state = .busy then .ready else x.state }).unqueue s HeadMsg.isAbort
  if busy then t.wakeGate else t

/-- Whether a slot serves a lane (R79): it is named by the entry, joined, and its head declared the lane. -/
def Live.serves (c : Setup) (l : Live) (i : LaneId) (s : SlotId) : Bool :=
  c.tables.lanes[i].slot == some s && l.slots[s].state.joined
    && (l.slots[s].head.map Joined.declared == some (.heat i))

/-- The serving slot of a lane (R79). -/
def Live.servingSlot (c : Setup) (l : Live) (i : LaneId) : Option SlotId :=
  match c.tables.lanes[i].slot with
  | none => none
  | some s => if l.serves c i s then some s else none

/-- The state of a lane (R79). -/
def Live.laneState (c : Setup) (l : Live) (i : LaneId) : LaneState :=
  match l.servingSlot c i with
  | none => .off
  | some s =>
    if !l.slots[s].state.working then .off
    else if l.lanes[i].heat.isNone then .ready
    else .heating

/-- Whether a lane's cadence timer runs (R86). -/
def Live.cadenceRuns (c : Setup) (l : Live) (i : LaneId) : Bool :=
  c.tables.lanes[i].mode == .auto && (c.mode == .run || c.mode == .hold) && l.laneState c i != .off

/-- The cadence timer of a lane started or stopped (R86). -/
def Live.syncCadence (c : Setup) (i : LaneId) (l : Live) : Live :=
  l.updLane i fun x =>
    { x with cadence :=
        if l.cadenceRuns c i then
          match x.cadence with
          | some n => some n
          | none => some (c.acted Timing.cadence)
        else none }

/-- Both cadence timers started or stopped. -/
def Live.syncCadences (c : Setup) (l : Live) : Live := (l.syncCadence c 0).syncCadence c 1

/-- The age of a rivet (R82). -/
def Rivet.age (now : Nat) (r : Rivet) : Nat := now - r.heatEnd

/-- The remaining window of a rivet (R82). -/
def Rivet.left (now : Nat) (r : Rivet) : Nat := r.window - r.age now

/-- Whether a rivet meets condition RIVET for a class (R33). -/
def Rivet.qualifies (c : Setup) (cls : Nat) (r : Rivet) : Bool :=
  r.tag.isNone && r.cls == cls && decide (c.acted Timing.transferAllowance ≤ r.left c.now)

/-- The oldest qualifying rivet of one stock: its place and itself. -/
def firstQualifying (c : Setup) (cls : Nat) (place : Nat) : List Rivet → Option (Nat × Rivet)
  | [] => none
  | r :: rest => if r.qualifies c cls then some (place, r) else firstQualifying c cls (place + 1) rest

/-- The rivet a SET order is assigned (R38): the one whose heat ended earliest across both lanes, lane 1 first. A rivet that
joined during a RELOAD's preload counts in a lane that the new table maps to no slot, or to a joined slot that does not serve
it (DESIGN CHOICE, log entry 28). -/
def Live.bestRivet (c : Setup) (cls : Nat) (l : Live) : Option (LaneId × Nat × Rivet) :=
  match firstQualifying c cls 0 l.lanes[0].stock, firstQualifying c cls 0 l.lanes[1].stock with
  | none, none => none
  | some (p, r), none => some (0, p, r)
  | none, some (q, u) => some (1, q, u)
  | some (p, r), some (q, u) => if u.heatEnd < r.heatEnd then some (1, q, u) else some (0, p, r)

/-- The heat record of a lane, where its heat is on slot `s` (R84). -/
def Lane.heatOn (s : SlotId) (x : Lane) : Option Heat := x.heat.filter fun h => h.slot == s

/-- What the end of a heat on slot `s` leaves of a lane's heat record: one for another slot stands (R98). -/
def Lane.heatOff (s : SlotId) (x : Lane) : Option Heat := x.heat.filter fun h => h.slot != s

/-- A heat opens (R84); none is open for the lane then (R82). -/
def Live.openHeat (i : LaneId) (h : Heat) (l : Live) : Live := l.updLane i fun x => { x with heat := some h }

/-- The heat record of a lane for a slot changes. -/
def Live.editHeat (s : SlotId) (i : LaneId) (f : Heat → Heat) (l : Live) : Live :=
  l.updLane i fun x => { x with heat := x.heat.map fun h => if h.slot = s then f h else h }

/-- The heat of a lane on a slot closes with no rivet (R85, R89). -/
def Live.closeHeat (s : SlotId) (i : LaneId) (l : Live) : Live := l.updLane i fun x => { x with heat := x.heatOff s }

/-- Whether the heater slot of a lane takes DISCARD: READY, BUSY, LEAVING or RELEASED (R91). -/
def Live.heaterLinked (c : Setup) (l : Live) (i : LaneId) : Option SlotId :=
  match c.tables.lanes[i].slot with
  | none => none
  | some s => if l.slots[s].state.joined then some s else none

/-- Scrapping an unassigned rivet that has left its stock (R91, R98): DISCARD to a linked heater, and RIVET_SCRAPPED. In a
lane whose entry names no slot there is neither a heater to take a DISCARD nor a source for the notice: the rivet goes
without either (R91, R154 and R192 leave this open; DESIGN CHOICE, log entry 28). -/
def Live.scrap (c : Setup) (i : LaneId) (serial : Nat) (l : Live) : Live :=
  let l := match l.heaterLinked c i with
    | some s => l.queueDiscard c s serial
    | none => l
  match c.tables.lanes[i].slot with
  | some s => l.postSlot s .rivetScrapped (.lane i)
  | none => l

/-- The heat of a lane on slot `s` ends with a DONE and its rivet joins the lane (R83). A heat of the lane's own from a slot
that is no longer the heater slot joins nothing: DISCARD goes to the reporting slot, which is the source of RIVET_SCRAPPED
(log entry 24). -/
def Taking.joinRivet (c : Setup) (s : SlotId) (i : LaneId) (serial : Nat) (t : Taking) : Taking :=
  match t.live.lanes[i].heatOn s with
  | none => t
  | some h =>
    let t := t.on fun l => l.updLane i fun x => { x with heat := x.heatOff s, late := false }
    if h.origin = .lane ∧ c.tables.lanes[i].slot ≠ some s then
      t.on fun l => (l.queueDiscard c s serial).postSlot s .rivetScrapped (.lane i)
    else
      (t.on fun l => l.updLane i fun x =>
        { x with stock := x.stock ++
            [{ serial, cls := h.cls, heatEnd := c.now, window := c.acted Timing.heatWindow, tag := none }] }).wakeGate

/-- A rivet assigned to a tag leaves its lane's stock. -/
def Live.takeRivet (i : LaneId) (tag : Nat) (l : Live) : Live :=
  l.updLane i fun x => { x with stock := x.stock.filter fun r => r.tag != some tag }

/-- The heater slot of a lane is EMPTY, FAULTED or JOINING (R94); a lane whose entry names no slot has none that is. -/
def Live.heaterGone (c : Setup) (l : Live) (i : LaneId) : Bool :=
  c.tables.lanes[i].slot.any fun s => !l.slots[s].state.joined

/-- A rivet assigned to a tag is freed in its stock, or removed when the heater slot is EMPTY, FAULTED or JOINING (R94). -/
def Live.freeRivet (c : Setup) (i : LaneId) (tag : Nat) (l : Live) : Live :=
  if l.heaterGone c i then l.takeRivet i tag
  else
    l.updLane i fun x =>
      { x with stock := x.stock.map fun r => if r.tag = some tag then { r with tag := none } else r }

/-- The rivet an order still has in a lane. -/
def Order.laneRivet? (o : Order) : Option LaneId :=
  match o.rivet with
  | some r => if r.whereabouts = .lane then some r.lane else none
  | none => none

/-- The rivet of an order whose end is untouched is freed (R47, R48, R94). -/
def Live.releaseRivetOf (c : Setup) (o : Order) (l : Live) : Live :=
  match o.laneRivet? with
  | some i => l.freeRivet c i o.tag
  | none => l

/-- The rivet of any other end leaves its stock (R41, R49, R52, R94). -/
def Live.dropRivetOf (o : Order) (l : Live) : Live :=
  match o.laneRivet? with
  | some i => l.takeRivet i o.tag
  | none => l

/-- The heat of a lane that is on slot `s` fails with it (R90): record closed, fault record written, HEAT_FAILED posted. A
heat on another slot runs on. -/
def Live.failHeat (s : SlotId) (i : LaneId) (cause : LossCause) (code : Option Nat) (l : Live) : Live :=
  match l.lanes[i].heatOn s with
  | none => l
  | some h =>
    (l.updLane i fun x =>
      { x with heat := x.heatOff s, fault := some { tag := h.tag, slot := s, cause, code, serial := h.serial } }).postSlot
      s .heatFailed (.lane i)

/-- A heat of the lane's own on slot `s` ends at that slot's loss (R90): it fails when its ISSUE was sent, and only closes
otherwise. -/
def Live.loseHeat (s : SlotId) (i : LaneId) (cause : LossCause) (code : Option Nat) (l : Live) : Live :=
  match l.lanes[i].heatOn s with
  | none => l
  | some h => if h.mark = some .unsent then l.closeHeat s i else l.failHeat s i cause code

/-- The unassigned rivets of a lane are removed, with no DISCARD and no notice (R95 step 2). -/
def Live.dropFree (i : LaneId) (l : Live) : Live :=
  l.updLane i fun x => { x with stock := x.stock.filter fun r => r.tag.isSome }

/-- The unassigned rivets of a lane whose heater slot is lost are removed (R95 step 2). R95 speaks of the serving slot. Rivets
that joined during a RELOAD's preload may stand in a lane whose entry names a joined slot whose head declared otherwise: they
are removed at that slot's loss as well (DESIGN CHOICE, log entry 28). -/
def Live.loseStock (c : Setup) (s : SlotId) (i : LaneId) (l : Live) : Live :=
  if c.tables.lanes[i].slot = some s then l.dropFree i else l

/-- A new lane table keeps no free rivet in a lane whose heater slot is EMPTY, FAULTED or JOINING, where condition RIVET finds
none (R95). Such a rivet joined during a RELOAD's preload; it is removed as R95 step 2 has it (DESIGN CHOICE, log entry
28). -/
def Live.weedStock (c : Setup) (i : LaneId) (l : Live) : Live := if l.heaterGone c i then l.dropFree i else l

/-- The lanes of a lost heater (R95). -/
def Live.heaterLost (c : Setup) (s : SlotId) (l : Live) : Live := (l.loseStock c s 0).loseStock c s 1

/-- Entering STOP, a lane aborts a heat of its own in ISSUED or RUNNING (R89). With its ISSUE unsent every message of class 3 is
removed from the slot outbound list, one that an early DONE has left there too (DESIGN CHOICE, log entry 27). -/
def Taking.stopHeat (c : Setup) (i : LaneId) (t : Taking) : Taking :=
  match t.live.lanes[i].heat with
  | none => t
  | some h =>
    if h.origin = .order ∨ h.step = some .aborting then t
    else if h.mark = some .unsent then
      (t.on fun l => (l.unqueue h.slot fun m => m.cls == 3).closeHeat h.slot i).workEnds h.slot
    else
      t.on fun l =>
        ((l.editHeat h.slot i fun g => { g with step := some .aborting }).queue c h.slot (.abort 0)).startStage h.slot .abort
          (c.acted Timing.acceptLimit)

/-- A lane issues a heat of its own (R87). -/
def Live.issueLaneHeat (c : Setup) (i : LaneId) (s : SlotId) (l : Live) : Live :=
  let cls := c.tables.lanes[i].cls
  let l := l.openHeat i { tag := 0, origin := .lane, slot := s, cls, serial := none, step := some .issued
                          mark := some .unsent }
  let l := l.updSlot s fun x => { x with state := .busy, work := .heat i }
  (l.startStage s .accept (c.acted Timing.acceptLimit)).queue c s (.issue 0 (.heat i cls))

/-- The stock of a lane emptied at a RELOAD (R98): each rivet removed as by R91, the oldest first, which decides whose
DISCARD is left out while 4 stand unsent (R98 leaves the order open; DESIGN CHOICE, log entry 36). -/
def Live.emptyStock (c : Setup) (i : LaneId) (l : Live) : Live :=
  l.lanes[i].stock.foldl (fun l r => l.scrap c i r.serial) (l.updLane i fun x => { x with stock := [], late := false })

end Sys2Proof.Machine
end

