-- ==== Sys2Proof/Machine/Gate.lean ====
section
/-!
DEFINITION. The Order Gate (chapter 2): wait conditions, examination, issue, completion, aborts, failures and withdrawals
(R29 to R53), and how one taking settles its examinations (R35, R63; log entry 10).
-/

namespace Sys2Proof.Machine

/-! ### Wait conditions (section 2.3) -/

/-- Condition QUEUED (R29). -/
def Live.queued (l : Live) (o : Order) : Bool :=
  (l.pool.find? fun x => x.slot == o.slot).any (fun x => x.tag == o.tag)
    && (match l.slots[o.slot].work with
      | .heat _ => false
      | _ => true)

/-- Condition ZONE (R30). -/
def Live.zoneReady (c : Setup) (l : Live) (hole : Nat) : Bool :=
  match c.row? hole with
  | some r => l.clamped r.zone && !l.zones[r.zone].expected
  | none => false

/-- Condition RIVET (R33). -/
def Live.rivetReady (c : Setup) (l : Live) (hole : Nat) : Bool :=
  (l.hole? hole).any fun x => (l.bestRivet c x.cls).isSome

/-- The force class of a hole, which is the units its SET needs (R38). -/
def Setup.unitsFor (c : Setup) (hole : Nat) : Nat :=
  match c.row? hole with
  | some r => r.force
  | none => 0

/-- The first part of condition PUMP (R32, R76). -/
def Live.pumpFits (c : Setup) (l : Live) (hole : Nat) : Bool :=
  decide (l.unitsInUse + c.unitsFor hole ≤ c.tables.budget)

/-- Condition LANE_FULL (R34). -/
def Live.laneHasRoom (c : Setup) (l : Live) (i : LaneId) : Bool :=
  let st := l.laneState c i
  decide (l.lanes[i].stock.length + (if st = .heating then 1 else 0) < 4) && st != .off

/-- Condition IN_ZONE (R34). -/
def Live.zoneIdle (c : Setup) (l : Live) (z : ZoneId) : Bool :=
  l.pool.all fun o => !(o.operating && (o.hole?.bind c.row?).any fun r => r.zone == z)

/-- POSITION for the order's slot and target centre (R31). -/
def Live.atTarget (l : Live) (o : Order) : Bool := o.centre.any fun t => l.positioned o.slot t

/-- The first of a list of conditions that does not hold. -/
def firstFalse : List (WaitReason × Bool) → Option WaitReason
  | [] => none
  | (r, ok) :: rest => if ok then firstFalse rest else some r

/-- The first unmet condition of an order (R29 to R34), weighed in the order of section 2.3; `fenced` is the second part of
PUMP (R32). -/
def Live.unmet (c : Setup) (fenced : Bool) (o : Order) (l : Live) : Option WaitReason :=
  firstFalse <| (.mode, c.progresses) :: (.queued, l.queued o) ::
    (match o.kind, o.target with
    | .set, .hole h =>
      [(.predecessor, l.predecessorsSet c h), (.zone, l.zoneReady c h), (.position, l.atTarget o),
        (.pump, l.pumpFits c h && !fenced), (.rivet, l.rivetReady c h)]
    | .drill, .hole h | .ream, .hole h => [(.zone, l.zoneReady c h), (.position, l.atTarget o)]
    | .heat, .lane i => [(.laneFull, l.laneHasRoom c i)]
    | .unclamp, .zone z => [(.inZone, l.zoneIdle c z)]
    | .park, _ => [(.position, l.atTarget o)]
    | _, _ => [])

/-! ### Leaving the pool (section 2.8) -/

/-- The ORDER DONE of an order that leaves (R44), its hole read as it then stands; `heat` is the serial of a COMPLETED
HEAT. -/
def orderDoneOf (l : Live) (o : Order) (outcome : OrderOutcome) (cause : Option DoneCause) (heat : Option Nat) :
    OrderDone :=
  let x := o.hole?.bind l.hole?
  let bare : OrderDone :=
    { tag := o.tag, kind := o.kind, slot := o.slot, target := o.target, outcome, cause, cancel := o.cancel
      holeInfo := x.map fun x => (x.state, x.cls), gauge := none, force := none, measure := none, serial := none }
  if outcome ≠ .completed then bare
  else
    match o.kind, x with
    | .drill, some x | .ream, some x => { bare with gauge := x.gauge, measure := x.diameter }
    | .set, some x => { bare with force := x.force, measure := x.peak, serial := x.rivetSerial }
    | .heat, _ => { bare with serial := heat }
    | _, _ => bare

/-- An order leaves the pool (R44): its claim is withdrawn, its record discarded, SLOW moved (R54), its ORDER DONE placed,
and an examination started (R35). -/
def Taking.leave (c : Setup) (o : Order) (outcome : OrderOutcome) (cause : Option DoneCause) (heat : Option Nat)
    (t : Taking) : Taking :=
  let t := t.withdrawClaim o.tag
  let t := t.on fun l =>
    let pool := l.pool.filter fun x => x.tag != o.tag
    { l with pool, slow := slowAfterLeaving pool.length l.slow }
  (t.placeDone c (orderDoneOf t.live o outcome cause heat)).wakeGate

/-- WITHDRAWN with a cause. -/
def Taking.withdraw (c : Setup) (o : Order) (cause : DoneCause) (t : Taking) : Taking :=
  t.leave c o .withdrawn (some cause) none

/-- The WAITING orders of a slot that satisfy `p` are withdrawn, oldest first (R53). -/
def Taking.withdrawWaiting (c : Setup) (s : SlotId) (p : Order → Bool) (cause : DoneCause) (t : Taking) : Taking :=
  (t.live.pool.filter fun o => o.slot == s && o.state == .waiting && p o).foldl (fun t o => t.withdraw c o cause) t

/-! ### Issue (section 2.5) -/

/-- The fields of the ISSUE of an order (R39); absent when a hole kind's row or entry is, or a SET's rivet. -/
def issueBodyOf (c : Setup) (l : Live) (o : Order) (rivet : Option AssignedRivet) : Option IssueBody :=
  match o.kind, o.target with
  | .set, .hole h =>
    match c.row? h, l.hole? h, rivet with
    | some r, some x, some v => some (.set h r.centre r.offset r.plies r.grip x.cls r.force v.lane v.serial)
    | _, _, _ => none
  | .drill, .hole h | .ream, .hole h =>
    match c.row? h, l.hole? h with
    | some r, some x =>
      some (.drill o.kind h r.centre r.offset r.plies r.grip r.diameter x.cls (o.feed.getD 0))
    | _, _ => none
  | .heat, .lane i => some (.heat i c.tables.lanes[i].cls)
  | .clamp, .zone z | .unclamp, .zone z => some (.clamp o.kind z (o.channel.getD 0))
  | _, _ => none

/-- The unclamp-expected flag of the zone of an UNCLAMP (R106). -/
def Live.setExpected (z : ZoneId) (v : Bool) (l : Live) : Live := l.updZone z fun x => { x with expected := v }

/-- Steps 3 to 5 of an issue (R37), with what HEAT and UNCLAMP add. -/
def Live.sendIssue (c : Setup) (o : Order) (before : Option HoleState) (rivet : Option AssignedRivet)
    (units : Option Nat) (body : IssueBody) (l : Live) : Live :=
  let l := l.updOrder o.tag fun x =>
    { x with state := .issued, wait := none, before, rivet, units, issueMark := some .unsent }
  let l := match o.kind, o.target with
    | .heat, .lane i =>
      l.openHeat i { tag := o.tag, origin := .order, slot := o.slot, cls := c.tables.lanes[i].cls, serial := none
                     step := none, mark := none }
    | .unclamp, .zone z => if l.zones[z].state = ZoneState.opened then l else l.setExpected z true
    | _, _ => l
  let l := l.updSlot o.slot fun x => { x with state := .busy, work := .order o.tag }
  (l.startStage o.slot .accept (c.acted Timing.acceptLimit)).queue c o.slot (.issue o.tag body)

/-- The rivet and the units of a SET issue are taken (R38). -/
def Live.takeForSet (c : Setup) (o : Order) (hole cls : Nat) (l : Live) : Option (AssignedRivet × Live) :=
  match l.bestRivet c cls with
  | none => none
  | some (i, place, r) =>
    some ({ lane := i, serial := r.serial, whereabouts := .lane },
      { (l.updLane i fun x => { x with stock := x.stock.set place { r with tag := some o.tag } }) with
        unitsInUse := l.unitsInUse + c.unitsFor hole })

/-- A WAITING order whose conditions all hold is issued (R37). A hole the Hole Table declines, or facts that are missing,
withdraw it with HOLE_CHANGED. -/
def Taking.issue (c : Setup) (o : Order) (t : Taking) : Taking :=
  match o.kind, o.target with
  | .set, .hole h =>
    match t.live.takeIssue c .set h with
    | none => t.withdraw c o .holeChanged
    | some (before, l) =>
      match l.hole? h with
      | none => t.withdraw c o .holeChanged
      | some x =>
        match l.takeForSet c o h x.cls with
        | none => t.withdraw c o .holeChanged
        | some (v, l) =>
          match issueBodyOf c l o (some v) with
          | none => t.withdraw c o .holeChanged
          | some body => { t with live := l.sendIssue c o (some before) (some v) (some (c.unitsFor h)) body }
  | k, .hole h =>
    match t.live.takeIssue c k h with
    | none => t.withdraw c o .holeChanged
    | some (before, l) =>
      match issueBodyOf c l o none with
      | none => t.withdraw c o .holeChanged
      | some body => { t with live := l.sendIssue c o (some before) none none body }
  | _, _ =>
    match issueBodyOf c t.live o none with
    | none => t.withdraw c o .holeChanged
    | some body => { t with live := t.live.sendIssue c o none none none body }

/-! ### Examination (section 2.4) -/

/-- A condition that withdraws a filed claim when it is the reason recorded (R31). -/
def WaitReason.dropsClaim : WaitReason → Bool
  | .queued | .predecessor | .zone => true
  | _ => false

/-- What recording a wait reason brings (R31): a claim filed or withdrawn. -/
def Taking.afterReason (c : Setup) (o : Order) (r : WaitReason) (t : Taking) : Taking :=
  if r.dropsClaim then t.withdrawClaim o.tag
  else if r = .position ∧ (t.live.request? o.tag).isNone then
    match t.live.holdings[o.slot], o.centre with
    | some h, some target => (t.on (Live.fileRequest c o.slot o.tag target h)).wakeRail h.rail
    | _, _ => t
  else t

/-- The hole of an order still admits its kind (R36); an order without a hole always fits. -/
def Live.admits (l : Live) (o : Order) : Bool :=
  match o.hole? with
  | some h => (l.hole? h).any fun x => o.kind.admittedBy x.state
  | none => true

/-- Condition RIVET for the hole of an order, weighed as though PUMP held (R32). -/
def Live.rivetReadyFor (c : Setup) (l : Live) (o : Order) : Bool :=
  match o.hole? with
  | some h => l.rivetReady c h
  | none => false

/-- A heat is in flight for the lane of a HEAT order. At most one is (R82), and a HEAT "is issued when the lane is idle between
heats and every condition holds for it" (R87). -/
def Live.laneHeating (l : Live) (o : Order) : Bool :=
  match o.kind, o.target with
  | .heat, .lane i => l.lanes[i].heat.isSome
  | _, _ => false

/-- A WAITING order weighed (R36), and whether it is blocked by PUMP alone (R32). A HEAT that meets every condition of R34
beside a heat which a RELOAD left in flight for its lane on another slot stays WAITING until that heat has ended (R82, R87);
no condition names this wait, and its reason is LANE_FULL (DESIGN CHOICE, log entry 29). -/
def Taking.weigh (c : Setup) (fenced : Bool) (o : Order) (t : Taking) : Taking × Bool :=
  if !t.live.admits o then (t.withdraw c o .holeChanged, false)
  else
    match t.live.unmet c fenced o with
    | some r =>
      ((t.on fun l => l.updOrder o.tag fun x => { x with wait := some r }).afterReason c o r,
        r == WaitReason.pump && t.live.rivetReadyFor c o)
    | none =>
      (if o.kind = OrderKind.park then t.leave c o .completed none none
        else if t.live.laneHeating o then t.on fun l => l.updOrder o.tag fun x => { x with wait := some .laneFull }
        else t.issue c o, false)

/-- One tag of the pass (R36): a WAITING order is weighed, and a rail examination that this starts is taken within it
(R65). The Bool is the fence of R32. -/
def weighOrder (c : Setup) (p : Taking × Bool) (tag : Nat) : Taking × Bool :=
  match p.1.live.order? tag with
  | none => p
  | some o =>
    if o.state = OrderState.waiting then
      let w := p.1.weigh c p.2 o
      (w.1.settleRails c, p.2 || w.2)
    else p

/-- An examination (R36): one pass over the pool as it stands, oldest first. What it brings about starts no other (R35). -/
def Taking.examine (c : Setup) (t : Taking) : Taking :=
  { ((t.live.pool.map Order.tag).foldl (weighOrder c) (t, false)).1 with gateDue := false }

/-- The examinations a taking has started: the rails due, then the gate once (R35, R63). -/
def Taking.settle (c : Setup) (t : Taking) : Taking :=
  let t := t.settleRails c
  if t.gateDue then t.examine c else t

/-- The end of a taking: its examinations, its held ORDER DONE messages, and the cadence timers (R86). -/
def Taking.finish (c : Setup) (t : Taking) : Live := ((t.settle c).flush c).live.syncCadences c

/-! ### Ends of work in flight (sections 2.6, 2.7, 2.10) -/

/-- Pump units are returned (R74). -/
def Taking.returnUnits (o : Order) (t : Taking) : Taking :=
  match o.units with
  | none => t
  | some n => (t.on fun l => { l with unitsInUse := l.unitsInUse - n }).wakeGate

/-- The unclamp-expected flag at the end of an UNCLAMP (R106). -/
def Live.endUnclamp (o : Order) (l : Live) : Live :=
  match o.kind, o.target with
  | .unclamp, .zone z => l.setExpected z false
  | _, _ => l

/-- A heat of a pool order closes with no rivet (R85). -/
def Live.endHeat (o : Order) (l : Live) : Live :=
  match o.kind, o.target with
  | .heat, .lane i => l.closeHeat o.slot i
  | _, _ => l

/-- An operation ends known untouched (R17, R47, R48): the hole returns, the rivet is freed, the units return, the lane
leaves HEATING, the unclamp-expected flag clears. -/
def Taking.undoOperation (c : Setup) (o : Order) (t : Taking) : Taking :=
  let t := t.on fun l =>
    let l := match o.hole? with
      | some h => l.updHole h (Hole.returned o.before (l.holeClamped c h))
      | none => l
    ((l.releaseRivetOf c o).endHeat o).endUnclamp o
  t.returnUnits o

/-- A record that returns to WAITING (R47, R48, R67, R68): everything a flight gave it is removed, and its wait reason is
absent until it is next examined (log entry 23). -/
def Order.requeued (o : Order) : Order :=
  { o with
    state := .waiting, wait := none, before := none, rivet := none, units := none, cause := none, step := none
    travelMark := none, issueMark := none }

/-- Whether the message that carries an order's present work is still unsent. -/
def Order.unsent (o : Order) : Bool := o.issueMark == some .unsent || o.travelMark == some .unsent

/-- The order of an untouched end (R47, R48): CANCELLED, WITHDRAWN from a LEAVING slot, or WAITING again. -/
def Taking.settleOrder (c : Setup) (o : Order) (t : Taking) : Taking :=
  if o.cancel then t.leave c o .cancelled none none
  else if t.live.slots[o.slot].state = .leaving then t.withdraw c o .slotLeaving
  else t.on (Live.updOrder o.tag Order.requeued)

/-- The unsent message of an order is removed and its work undone (R47). R47 names the order's own message alone, and a slot
outbound list holds at most one ISSUE or TRAVEL (R175). Where an early DONE has left another order's ISSUE unsent on the list
(`Taking.workEnds`), that ISSUE is removed with it: every message of class 3 goes (DESIGN CHOICE, log entry 27). -/
def Taking.undoUnsent (c : Setup) (o : Order) (t : Taking) : Taking :=
  let t := t.on (Live.unqueue o.slot fun m => m.cls == 3)
  if o.travelMark.isSome then t.restoreTravel o.slot else t.undoOperation c o

/-- The step an abort stops (R46). -/
def Order.stepNow (o : Order) : AbortStep := if o.state = .travelling then .travel else .operation

/-- An abort of an order in TRAVELLING, ISSUED or RUNNING (R46); with its message unsent it ends at once (R47). -/
def Taking.abort (c : Setup) (o : Order) (cause : AbortCause) (t : Taking) : Taking :=
  if o.unsent then ((t.undoUnsent c o).workEnds o.slot).settleOrder c o
  else
    t.on fun l =>
      let l := l.updOrder o.tag fun x => { x with state := .aborting, cause := some cause, step := some o.stepNow }
      (l.queue c o.slot (.abort o.tag)).startStage o.slot .abort (c.acted Timing.acceptLimit)

/-- In TRAVELLING, ISSUED or RUNNING: in flight and not yet aborted. -/
def Order.abortable (o : Order) : Bool := o.state == .travelling || o.state == .issued || o.state == .running

/-- Each order of a list that is still abortable is aborted, in the order of the list, which is the order of arrival where an
event aborts several (R108, R146). Several of them may end at once, unsent on LEAVING slots (R47); R44 does not say which is
then "the order in flight" whose ORDER DONE goes first: it is the first to have arrived (DESIGN CHOICE, log entry 37). -/
def Taking.abortAll (c : Setup) (cause : AbortCause) (tags : List Nat) (t : Taking) : Taking :=
  tags.foldl (fun t tag =>
    match t.live.order? tag with
    | some o => if o.abortable then t.abort c o cause else t
    | none => t) t

/-- What a DONE spoils (R15, R16): the first case of each table. -/
def Order.spoiled (o : Order) (clamped : Bool) : Bool :=
  let cold := o.rivet.any fun r => r.whereabouts == .cold
  (o.state == .aborting && (o.cause == some .clampLost || (o.kind == .set && o.cause == some .rivetCold))) || !clamped
    || (o.kind == .set && cold)

/-- The Hole Table takes a completion (R41 step 1): the entry, and PROTOCOL for a bad code in the second case. -/
def Live.completeHole (c : Setup) (o : Order) (code value : Nat) (l : Live) : Live :=
  match o.hole? with
  | none => l
  | some h =>
    let spoiled := o.spoiled (l.holeClamped c h)
    if o.kind = .set then
      let l := l.updHole h (Hole.riveted (o.rivet.map AssignedRivet.serial) spoiled code value)
      if !spoiled && (Force.ofCode code).isNone then l.headError o.slot .protocol else l
    else
      let l := l.updHole h (Hole.drilled o.slot spoiled code value)
      if !spoiled && (Gauge.ofCode code).isNone then l.headError o.slot .protocol else l

/-- The tool count rises at a DONE of a DRILL or REAM (R137). -/
def Tool.counted (x : Tool) : Tool :=
  let n := min (x.count + 1) 65535
  { x with count := n, spent := x.spent || decide (x.limit ≤ n) }

/-- Step 4 of a completion (R41, R137): the count, and whether the tool was spent by it. -/
def Live.countTool (s : SlotId) (tag : Nat) (l : Live) : Live × Bool :=
  match l.slots[s].tool with
  | none => (l, false)
  | some x =>
    let y := x.counted
    let l := l.updSlot s fun z => { z with tool := some y }
    if y.spent && !x.spent then (l.postSlot s .toolSpent (.tag tag), true) else (l, false)

/-- A DONE completes an order (R41, R50): hole, rivet, units, tool, lane, flag, ORDER DONE; the slot leaves BUSY; a tool
that is spent by it withdraws the slot's waiting DRILL and REAM orders after that ORDER DONE (R137). -/
def Taking.complete (c : Setup) (o : Order) (code value : Nat) (heat : Option Nat) (t : Taking) : Taking :=
  let t := t.on fun l => (l.completeHole c o code value).dropRivetOf o
  let t := t.returnUnits o
  let counted := if o.kind = .drill ∨ o.kind = .ream then t.live.countTool o.slot o.tag else (t.live, false)
  let t := { t with live := counted.1 }
  let t := match o.kind, o.target, heat with
    | .heat, .lane i, some n => t.joinRivet c o.slot i n
    | _, _, _ => t
  let t := t.on (Live.endUnclamp o)
  let t := t.leave c o .completed (if o.state = .aborting then o.cause.map AbortCause.asDone else none) heat
  let t := if counted.2 then
      t.withdrawWaiting c o.slot (fun x => x.kind == .drill || x.kind == .ream) .toolSpent
    else t
  t.workEnds o.slot

/-- The end of a touched operation (R49). -/
def Taking.endPartial (c : Setup) (o : Order) (t : Taking) : Taking :=
  let t := t.on fun l =>
    let l := match o.hole? with
      | some h => l.updHole h (Hole.partial_ o)
      | none => l
    ((l.dropRivetOf o).endHeat o).endUnclamp o
  let t := t.returnUnits o
  (t.workEnds o.slot).leave c o .aborted (o.cause.map AbortCause.asPartial) none

/-- The order in flight of a slot that is lost ends (R52): WITHDRAWN when its message was unsent, else FAILED. The slot has
left its state already. Within step 3 of R127 and R129 no order is given between a HEAT's HEAT_FAILED and its ORDER DONE:
the notice is posted first, so that ORDER DONE carries ATTENTION set (R156; DESIGN CHOICE, log entry 31). -/
def Taking.loseOrder (c : Setup) (o : Order) (cause : LossCause) (code : Option Nat) (withdrawn : DoneCause)
    (t : Taking) : Taking :=
  if o.unsent then (t.undoUnsent c o).withdraw c o withdrawn
  else
    let t := if o.operating then
        (t.on fun l =>
          let l := match o.hole? with
            | some h => l.updHole h (Hole.uncertain o)
            | none => l
          let l := match o.kind, o.target with
            | .heat, .lane i => l.failHeat o.slot i cause code
            | _, _ => l
          (l.dropRivetOf o).endUnclamp o).returnUnits o
      else t.on (Live.setTravel o.slot none)
    t.leave c o .failed (some cause.asDone) none

/-- The rivet of an order goes cold (R51). -/
def Order.goesCold (o : Order) : Order :=
  { o with rivet := o.rivet.map fun r => { r with whereabouts := .cold } }

/-- The state of an order as a TAKEN reports it (R28, R45). -/
def Live.takenState (l : Live) (tag : Nat) : TakenState :=
  match l.order? tag with
  | none => .left
  | some o =>
    match o.state with
    | .waiting => .waiting o.wait
    | .travelling => .travelling
    | .issued | .running => .issued
    | .aborting => .aborting

end Sys2Proof.Machine
end

