-- ==== Sys2Proof/Machine/Zones.lean ====
section
/-!
DEFINITION. The Zone Monitor (chapter 5): clamp reports, a zone leaving CLAMPED, and the loss of a module (R102 to R109).
-/

namespace Sys2Proof.Machine

/-- The zone whose entry names a slot and channel (R102). -/
def Setup.zoneAt (c : Setup) (s : SlotId) (channel : Nat) : Option ZoneId :=
  allZones.find? fun z => c.tables.zones[z] == some { slot := s, channel }

/-- The tags of the hole orders of some zones in ISSUED or RUNNING, in the order of arrival (R108). -/
def Live.workOfZones (c : Setup) (l : Live) (zones : List ZoneId) : List Nat :=
  (l.pool.filter fun o =>
    (o.state == .issued || o.state == .running)
      && (o.hole?.bind c.row?).any fun r => zones.contains r.zone).map Order.tag

/-- CLAMP_LOST for each of some zones of a module (R108), in zone number order (R155). -/
def Live.postClampLost (module : SlotId) (zones : List ZoneId) (l : Live) : Live :=
  zones.foldl (fun l z => l.postSlot module .clampLost (.zone z)) l

/-- The sweep of some zones that have left CLAMPED, when a frame is bound (R107 step 2, R20). -/
def Live.sweepZones (c : Setup) (zones : List ZoneId) (l : Live) : Live :=
  if c.frame.isSome then zones.foldl (fun l z => l.sweep c z) l else l

/-- A zone, already in its new state, has left CLAMPED by a report (R107); `expected` is its unclamp-expected flag as the
report found it. R107 and R108 do not order the aborts of a loss of clamp and its notice: the orders are aborted first, oldest
first, and CLAMP_LOST is posted after, so an ORDER DONE that an abort places carries ATTENTION as before it (R156; DESIGN
CHOICE, log entry 31). Oldest first is also the order of the ORDER DONE messages where several end at once, unsent (R47; DESIGN
CHOICE, log entry 37). -/
def Taking.leftClamped (c : Setup) (z : ZoneId) (expected : Bool) (module : SlotId) (t : Taking) : Taking :=
  let t := t.on (Live.sweepZones c [z])
  let t := if expected then t
    else (t.abortAll c .clampLost (t.live.workOfZones c [z])).on (Live.postClampLost module [z])
  t.wakeGate

/-- An UNCLAMP of the zone is ISSUED, RUNNING or ABORTING (R106). -/
def Live.unclamping (l : Live) (z : ZoneId) : Bool :=
  l.pool.any fun o => o.kind == .unclamp && o.target == .zone z && o.inFlight

/-- The unclamp-expected flag after a report (R103, R106). -/
def flagAfterReport (before after : ZoneState) (unclamping flag : Bool) : Bool :=
  if after = .opened then false else if before = .opened ∧ unclamping then true else flag

/-- A report taken for a zone (R103). -/
def Taking.zoneReport (c : Setup) (z : ZoneId) (module : SlotId) (x : ZoneState) (t : Taking) : Taking :=
  let before := t.live.zones[z]
  if before.state = x then t
  else
    let flag := flagAfterReport before.state x (t.live.unclamping z) before.expected
    let t := t.on fun l => l.updZone z fun _ => { state := x, expected := flag }
    if before.state = .clamped then t.leftClamped c z before.expected module else t.wakeGate

/-- The state a report's code names (R102). -/
def ZoneState.ofCode : Nat → Option ZoneState
  | 1 => some .opened
  | 2 => some .moving
  | 3 => some .clamped
  | _ => none

/-- The zones mapped to a slot, in number order, with their records. -/
def Live.zonesOf (c : Setup) (l : Live) (s : SlotId) : List (ZoneId × Zone) :=
  (allZones.filter fun z => c.tables.zones[z].any fun m => m.slot == s).map fun z => (z, l.zones[z])

/-! ### The loss of a module (R109) -/

/-- The zones that a loss of the module takes out of CLAMPED, of its zones with the records the loss found. -/
def clampedOf (zones : List (ZoneId × Zone)) : List ZoneId := (zones.filter fun z => z.2.state == .clamped).map Prod.fst

/-- Those of them that lose their clamp: no unclamp was expected (R107 step 3). -/
def clampLostOf (zones : List (ZoneId × Zone)) : List ZoneId :=
  (zones.filter fun z => z.2.state == .clamped && !z.2.expected).map Prod.fst

/-- The zones of a lost module become UNKNOWN with their flags clear, and the holes of those that were CLAMPED are swept
(R109, R107 steps 1 and 2). -/
def Live.zonesGone (c : Setup) (zones : List (ZoneId × Zone)) (l : Live) : Live :=
  (zones.foldl (fun l z => l.updZone z.1 fun _ => { state := .unknown, expected := false }) l).sweepZones c (clampedOf zones)

/-- The order is one whose ISSUE or TRAVEL is unsent and which an abort ends at once (R47): by its cancel flag, or because
its slot is LEAVING. -/
def Live.abortEnds (l : Live) (o : Order) : Bool :=
  o.unsent && (o.cancel || l.slots[o.slot].state == .leaving)

/-- The orders that the loss of slot `s` ends or aborts beside the slot's own order in flight, in the order in which they
leave (R44): its WAITING orders (R53), and the orders in flight in `zones`, which lose their clamp (R108), in the order of
arrival. When the slot had no order in flight that went first, the oldest order in flight that ends here does. R44 does not say
which order is "the order in flight" of an event that ends several in flight: it is the lost slot's (DESIGN CHOICE, log entry
37). -/
def Live.lossOrder (c : Setup) (s : SlotId) (zones : List ZoneId) (ownFirst : Bool) (l : Live) : List Nat :=
  let hit := l.workOfZones c zones
  let others := l.pool.filter fun o => (o.slot == s && o.state == .waiting) || hit.contains o.tag
  let first := if ownFirst then none else others.find? fun o => hit.contains o.tag && l.abortEnds o
  match first with
  | some o => o.tag :: (others.map Order.tag).filter (· != o.tag)
  | none => others.map Order.tag

/-- The loss of slot `s` taken to those orders one by one: a WAITING order of the slot is withdrawn (R53), an order in flight
is aborted with CLAMP_LOST (R108). -/
def Taking.loseOrders (c : Setup) (s : SlotId) (cause : DoneCause) (tags : List Nat) (t : Taking) : Taking :=
  tags.foldl (fun t tag =>
    match t.live.order? tag with
    | some o =>
      if o.slot = s ∧ o.state = .waiting then t.withdraw c o cause
      else if o.abortable then t.abort c o .clampLost
      else t
    | none => t) t

/-- What the loss of slot `s` does to its zones and to every order but the slot's own in flight (step 4 of R127 and R129; of
R109 the records, the sweep and the aborts). `zones` are the slot's zones in number order with the records the loss found, so
that each flag is weighed as it stood then. The withdrawals and the aborts are one pass, so that the ORDER DONE messages of the
event stand in R44's order. -/
def Taking.ordersLost (c : Setup) (s : SlotId) (zones : List (ZoneId × Zone)) (cause : DoneCause) (ownFirst : Bool)
    (t : Taking) : Taking :=
  let t := t.on (Live.zonesGone c zones)
  t.loseOrders c s cause (t.live.lossOrder c s (clampLostOf zones) ownFirst)

/-- The rest of the loss of a module (R109): CLAMP_LOST for each zone that lost its clamp, and the examination that a zone's
change of state starts (R35). The notices come after the aborts (DESIGN CHOICE, log entry 31). -/
def Taking.moduleLost (s : SlotId) (zones : List (ZoneId × Zone)) (t : Taking) : Taking :=
  let t := t.on (Live.postClampLost s (clampLostOf zones))
  if zones.any fun z => z.2.state != .unknown then t.wakeGate else t

end Sys2Proof.Machine
end

