-- ==== Sys2Proof/Machine/Slots.lean ====
section
/-!
DEFINITION. The Slot Manager (chapter 6): joining, leaving, faults and link loss (R115 to R131).
-/

namespace Sys2Proof.Machine

/-- The work in flight of a slot ends at its loss (R127 step 3, R129 step 3): a pool order by R52, a lane heat by R90. -/
def Taking.loseWork (c : Setup) (s : SlotId) (work : Work) (cause : LossCause) (code : Option Nat) (withdrawn : DoneCause)
    (t : Taking) : Taking :=
  match work with
  | .idle => t
  | .heat i => t.on (Live.loseHeat s i cause code)
  | .order tag =>
    match t.live.orderOf? s tag with
    | none => t
    | some o => t.loseOrder c o cause code withdrawn

/-- Messages a fault removes from the outbound list (R129 step 5): all but LAMP, and REJOIN, which the rule does not
name. -/
def HeadMsg.goesAtFault : HeadMsg → Bool
  | .lamp _ | .rejoin _ => false
  | _ => true

/-- The detail of SLOT_FAULT (section 8.5). -/
def faultDetail (cause : LossCause) (code : Option Nat) : Detail := .cause cause code

/-- The slot's own order in flight is in the pool: it is the order in flight that ends first at the slot's loss (R44, R52). -/
def Live.ownOrder (s : SlotId) (work : Work) (l : Live) : Bool :=
  match work with
  | .order tag => (l.orderOf? s tag).isSome
  | _ => false

/-- A slot in READY, BUSY, LEAVING or RELEASED faults (R129). -/
def Taking.fault (c : Setup) (s : SlotId) (cause : LossCause) (code : Option Nat) (t : Taking) : Taking :=
  let work := t.live.slots[s].work
  let own := t.live.ownOrder s work
  let zones := t.live.zonesOf c s
  if !t.live.slots[s].state.joined then t
  else
    let t := t.on fun l => l.updSlot s fun x =>
      { x with state := .faulted, fault := some { cause, code, tag := work.tag? }, timer := none, leverPending := false
               work := .idle }
    let t := t.loseWork c s work cause code .slotFaulted
    let t := t.ordersLost c s zones .slotFaulted own
    let t := t.on fun l => ((l.unqueue s HeadMsg.goesAtFault).setTravel s none).heaterLost c s
    let t := t.moduleLost s zones
    t.on fun l => (l.syncLamp c s).postSlot s .slotFault (faultDetail cause code)

/-- The head link goes DOWN (R173): silence timer stopped, open frame and unsent messages discarded, link-down counted. A
transmission in progress runs to its sent event (R176). -/
def HeadLink.wentDown (k : HeadLink) : HeadLink :=
  { k with up := false, silence := none, list := [], rx := Receiver.reset
           status := { k.status with downs := countUp k.status.downs } }

/-- A link down (R127, R124). The lever that step 8 discards has no absent value in R113: an EMPTY slot shows CLOSED
(DESIGN CHOICE, log entry 30). -/
def Taking.linkLost (c : Setup) (s : SlotId) (t : Taking) : Taking :=
  let was := t.live.slots[s]
  let own := t.live.ownOrder s was.work
  let zones := t.live.zonesOf c s
  if was.state = .empty then t.on fun l => l.updHead s HeadLink.wentDown
  else
    let t := t.on fun l => l.updSlot s fun x => { x with state := .empty, timer := none, work := .idle }
    let t := t.loseWork c s was.work .linkLost none .slotLost
    let t := t.ordersLost c s zones .slotLost own
    let t := t.on fun l => l.updHead s HeadLink.wentDown
    let t := t.freeHolding s
    let t := t.on (Live.heaterLost c s)
    let t := t.moduleLost s zones
    let t := t.on fun l => l.updSlot s fun x =>
      { x with head := none, tool := none, lever := .closed, leverPending := false
               aspect := aspectOf x.lamp .empty }
    if was.state = .released then t
    else
      t.on (Live.postSlot s .linkLost (match was.work.tag? with
        | some n => .tag n
        | none => .none))

/-- A link up on an EMPTY slot (R115). -/
def Live.linkUp (c : Setup) (s : SlotId) (l : Live) : Live :=
  let l := l.updHead s fun k => { k with up := true, silence := some silenceLimit }
  let l := l.updSlot s fun x =>
    { x with state := .joining, head := none, tool := none, work := .idle, lever := .closed, leverPending := false
             timer := none, aspect := aspectOf x.lamp .joining }
  l.queueLamp c s

/-- A byte received on a head link (R173): on a DOWN link it is a link up, on an UP link it restarts the silence timer. -/
def Live.lineByte (c : Setup) (s : SlotId) (l : Live) : Live :=
  if l.heads[s].up then l.heard s else l.linkUp c s

/-- A slot becomes LEAVING from READY or BUSY (R121). -/
def Taking.leaving (c : Setup) (s : SlotId) (t : Taking) : Taking :=
  let t := t.on fun l => l.updSlot s fun x => { x with state := .leaving, leverPending := false }
  let t := t.withdrawWaiting c s (fun _ => true) .slotLeaving
  t.on fun l => (l.syncLamp c s).postSlot s .leverOpen .none

/-- LEVER OPEN (R120). -/
def Taking.leverOpened (c : Setup) (s : SlotId) (t : Taking) : Taking :=
  let t := t.on fun l => l.updSlot s fun x => { x with lever := .opened }
  if t.live.slots[s].state.working then
    if t.live.slots[s].lamp = .auto then t.leaving c s
    else t.on fun l => l.updSlot s fun x => { x with leverPending := true }
  else t

/-- LEVER CLOSED (R120, R122). -/
def Taking.leverShut (c : Setup) (s : SlotId) (t : Taking) : Taking :=
  let t := t.on fun l => l.updSlot s fun x => { x with lever := .closed }
  match t.live.slots[s].state with
  | .ready | .busy => t.on fun l => l.updSlot s fun x => { x with leverPending := false }
  | .leaving | .released =>
    let st : SlotState := if t.live.slots[s].work = .idle then .ready else .busy
    let t := t.on fun l => (l.updSlot s fun x => { x with state := st }).syncLamp c s
    if st = .ready then t.wakeGate else t
  | _ => t

/-! ### Joining (section 6.2) -/

/-- The kind a HELLO declares; absent for one that is malformed. -/
def helloKind : HelloBody → Option HeadKind
  | .malformed => none
  | .drill _ _ _ _ _ => some .drill
  | .set _ _ => some .set
  | .heat _ => some .heat
  | .clamp _ => some .clamp

/-- Check 1 of R117 fails: BAD_HELLO. -/
def helloBad : HelloBody → Bool
  | .malformed => true
  | .drill _ _ _ limit _ => !(decide (1 ≤ limit) && decide (limit ≤ 60000))
  | .heat lane => (laneOf lane).isNone
  | _ => false

/-- The position check of R58 passes. -/
def Live.positionOk (l : Live) (s : SlotId) (rail : Option Rail) (centre : Nat) : Bool :=
  match rail with
  | none => false
  | some r =>
    decide (centre ≤ 15) && (l.holdings[s].all fun h => h.rail == r) && !l.blocked s r (span centre)

/-- Check 3 of R117 passes (R58). -/
def Live.helloPosition (l : Live) (s : SlotId) : HelloBody → Bool
  | .drill rail centre _ _ _ => l.positionOk s rail centre
  | .set rail centre => l.positionOk s rail centre
  | _ => l.holdings[s].isNone

/-- The lane check of R81 passes. -/
def Setup.laneOk (c : Setup) (s : SlotId) (i : LaneId) : Bool :=
  let other : LaneId := if i = 0 then 1 else 0
  c.tables.lanes[i].slot == some s || (c.tables.lanes[i].slot.isNone && c.tables.lanes[other].slot != some s)

/-- Check 4 of R117 passes (R81). -/
def Setup.helloLane (c : Setup) (s : SlotId) : HelloBody → Bool
  | .heat lane => (laneOf lane).any fun i => c.laneOk s i
  | _ => true

/-- Check 5 of R117 passes (R104). -/
def Setup.helloChannels (c : Setup) (s : SlotId) : HelloBody → Bool
  | .clamp n =>
    decide (1 ≤ n) && decide (n ≤ 4) && c.tables.zones.toList.all fun e => e.all fun m => m.slot != s || decide (m.channel ≤ n)
  | _ => true

/-- The first failing check of a HELLO (R117). -/
def helloReason (c : Setup) (l : Live) (s : SlotId) (b : HelloBody) : Option JoinReason :=
  if helloBad b then some .badHello
  else if c.tables.slots[s].expected.any (fun k => helloKind b != some k) then some .kindMismatch
  else if !l.helloPosition s b then some .positionConflict
  else if !c.helloLane s b then some .laneTaken
  else if !c.helloChannels s b then some .channels
  else none

/-- The declared fields an accepted HELLO leaves in the record (R113); absent for one that R117 refuses. -/
def helloDeclared : HelloBody → Option Declared
  | .malformed => none
  | .drill rail centre _ _ _ => rail.map fun r => .drill r centre
  | .set rail centre => rail.map fun r => .set r centre
  | .heat lane => (laneOf lane).map .heat
  | .clamp n => some (.clamp n)

/-- The tool record of an accepted HELLO (R136). -/
def helloTool : HelloBody → Option Tool
  | .drill _ _ id limit count => some { id, limit, count, spent := decide (limit ≤ count) }
  | _ => none

/-- The lane table after an accepted HELLO (R81): an unmapped entry takes the slot. -/
def Tables.bindLane (t : Tables) (s : SlotId) (d : Declared) : Tables :=
  match d with
  | .heat i =>
    if t.lanes[i].slot.isNone then { t with lanes := vmod t.lanes i fun e => { e with slot := some s } } else t
  | _ => t

/-- The fields of WELCOME (R118). A CLAMP head's channels stand in the order of their zones' numbers (R118 gives none;
DESIGN CHOICE, log entry 34). -/
def welcomeBody (c : Setup) (s : SlotId) (d : Declared) (tool : Option Tool) : WelcomeBody :=
  let home := c.tables.slots[s].home
  match d with
  | .drill r centre =>
    .drill r (span centre) home ((tool.map Tool.id).getD 0) ((tool.map Tool.limit).getD 0) ((tool.map Tool.count).getD 0)
  | .set r centre => .set r (span centre) home
  | .heat i => .heat i c.tables.lanes[i].cls c.tables.lanes[i].mode
  | .clamp _ =>
    .clamp (allZones.filterMap fun z =>
      match c.tables.zones[z] with
      | some m => if m.slot = s then some (m.channel, z) else none
      | none => none)

/-- The holding an accepted HELLO sets (R58): freed segments of a former holding make the rail due. -/
def Taking.placeHead (s : SlotId) (d : Declared) (t : Taking) : Taking :=
  match d with
  | .drill r centre | .set r centre =>
    let t' := t.on (Live.setHolding s (some { rail := r, run := span centre }))
    match t.live.holdings[s] with
    | some h => if h.run.inside (span centre) then t' else t'.wakeRail r
    | none => t'
  | _ => t

/-- An accepted HELLO on the live side (R118), with the tables already holding its lane binding. -/
def Taking.welcome (c : Setup) (s : SlotId) (revision : Nat) (d : Declared) (tool : Option Tool) (t : Taking) : Taking :=
  let t := (t.on fun l => l.updSlot s fun x => { x with head := some { revision, declared := d }, tool }).placeHead s d
  let t := t.on fun l => l.updSlot s fun x => { x with state := .ready, work := .idle, timer := none }
  let t := t.on fun l => (l.queueJoin c s (.welcome d.kind (welcomeBody c s d tool))).syncLamp c s
  let t := if t.live.slots[s].lever = .opened then t.leverOpened c s else t
  let t := t.wakeGate
  match tool with
  | some x => if x.spent then t.on (Live.postSlot s .toolSpent .none) else t
  | none => t

end Sys2Proof.Machine
end

