-- ==== Sys2Proof/Machine/Orders.lean ====
section
/-!
DEFINITION. The order messages and CANCEL (R25 to R28, R45).
-/

namespace Sys2Proof.Machine

/-- An order message by its fields (R25); a field its kind has not is 0. -/
structure OrderMsg where
  kind : OrderKind
  tag : Nat
  slot : Nat
  hole : Nat
  zone : Nat
  lane : Nat
  feed : Nat
  deriving DecidableEq, Repr

/-- The hole kinds (section 2.1). -/
def OrderKind.holeKind : OrderKind → Bool
  | .drill | .ream | .set => true
  | _ => false

/-- CLAMP and UNCLAMP. -/
def OrderKind.zoneKind : OrderKind → Bool
  | .clamp | .unclamp => true
  | _ => false

/-- Whether a head kind serves an order kind (R25). -/
def OrderKind.servedBy (k : OrderKind) (h : Option HeadKind) : Bool :=
  match k, h with
  | .drill, some .drill | .ream, some .drill | .set, some .set | .heat, some .heat | .clamp, some .clamp
  | .unclamp, some .clamp | .park, some .drill | .park, some .set => true
  | _, _ => false

/-- The slot and channel of an order at admission (R25): a zone kind takes its zone's mapping. -/
def OrderMsg.place (c : Setup) (m : OrderMsg) : Option (SlotId × Option Nat) :=
  if m.kind.zoneKind then
    match zoneOf m.zone with
    | none => none
    | some z => (c.tables.zones[z]).map fun e => (e.slot, some e.channel)
  else (slotOf m.slot).map fun s => (s, none)

/-- Checks 7 to 9 of R27: the slot state. -/
def slotReason : SlotState → Option Reason
  | .empty | .joining => some .slotAbsent
  | .faulted => some .slotFaulted
  | .leaving | .released => some .slotLeaving
  | .ready | .busy => none

/-- The lane of a HEAT passes check 11 of R27. -/
def laneFits (c : Setup) (l : Live) (s : SlotId) (lane : Nat) : Option LaneId :=
  match laneOf lane with
  | none => none
  | some i =>
    if c.tables.lanes[i].slot = some s ∧ l.slots[s].head.map Joined.declared = some (.heat i) then some i else none

/-- The hole of a hole kind passes check 11 of R27: it is in 1..N. -/
def holeFits (c : Setup) (l : Live) (hole : Nat) : Option (PatternRow × Hole) :=
  match c.row? hole, l.hole? hole with
  | some r, some x => some (r, x)
  | _, _ => none

/-- The order record as admitted (R26, R28). -/
def newOrder (m : OrderMsg) (s : SlotId) (channel : Option Nat) (target : Target) (centre : Option Nat)
    (feed : Option Nat) : Order :=
  { tag := m.tag, kind := m.kind, slot := s, target, channel, centre, feed, state := .waiting, wait := none
    before := none, rivet := none, units := none, cause := none, step := none, cancel := false, travelMark := none
    issueMark := none }

/-- Checks 11 to 16 of R27 for an order whose slot has passed, and its record. -/
def admitTarget (c : Setup) (l : Live) (m : OrderMsg) (s : SlotId) (channel : Option Nat) : Except Reason Order :=
  let feedOk := decide (1 ≤ m.feed) && decide (m.feed ≤ 4)
  if m.kind.holeKind then
    if m.kind ≠ .set ∧ !feedOk then .error .badValue
    else
      match holeFits c l m.hole with
      | none => .error .badHole
      | some (r, x) =>
        if l.slots[s].rail? ≠ some r.rail then .error .wrongRail
        else if !m.kind.admittedBy x.state then .error .holeState
        else if l.pool.any fun o => o.target == .hole m.hole then .error .holeClaimed
        else if m.kind ≠ .set ∧ l.slots[s].tool.any Tool.spent then .error .toolSpent
        else .ok (newOrder m s none (.hole m.hole) (some r.centre) (if m.kind = .set then none else some m.feed))
  else
    match m.kind with
    | .heat =>
      match laneFits c l s m.lane with
      | none => .error .badLane
      | some i =>
        if c.tables.lanes[i].mode = .auto then .error .laneAuto
        else .ok (newOrder m s none (.lane i) none none)
    | .park => .ok (newOrder m s none .home (some c.tables.slots[s].home) none)
    | _ =>
      match zoneOf m.zone with
      | none => .error .badZone
      | some z => .ok (newOrder m s channel (.zone z) none none)

/-- Admission (R27): the first case of the table that applies, or the record. -/
def admission (c : Setup) (l : Live) (m : OrderMsg) : Except Reason Order :=
  if c.lockout ∨ c.preload = .running then .error .locked
  else if c.mode = .stop then .error .stopped
  else if m.kind.holeKind ∧ c.frame.isNone then .error .noFrame
  else if m.tag = 0 ∨ (l.order? m.tag).isSome then .error .tagInUse
  else if Config.poolSize ≤ l.pool.length then .error .poolFull
  else
    match m.place c with
    | none => .error (if m.kind.zoneKind then .badZone else .badSlot)
    | some (s, channel) =>
      match slotReason l.slots[s].state with
      | some r => .error r
      | none =>
        if !m.kind.servedBy l.slots[s].kind? then .error .wrongKind
        else admitTarget c l m s channel

/-- An order enters at the tail of the pool, and SLOW moves (R28, R54). -/
def Live.enter (o : Order) (l : Live) : Live :=
  { l with pool := l.pool ++ [o], slow := slowAfterEntry (l.pool.length + 1) l.slow }

/-- An admitted order (R28): it enters, the examination runs, TAKEN with its state goes ahead of the ORDER DONE messages
that the examination produced. -/
def Live.admitted (c : Setup) (o : Order) (l : Live) : Live :=
  let t := (Taking.holding (l.enter o)).wakeGate.settle c
  let t := t.on fun l => l.place c (.taken o.tag (l.takenState o.tag))
  (t.flush c).live.syncCadences c

/-- An order message that has passed the header (R27, R28). -/
def takeOrder (m : OrderMsg) (s : State) : State :=
  match admission s.setup s.live m with
  | .error r => s.place (.refused m.tag r)
  | .ok o => { s with live := s.live.admitted s.setup o }

/-- An order message, its body `length` bytes long (R25, R168). -/
def orderMessage (h : Header) (length : Nat) (m : OrderMsg) (s : State) : Result :=
  cellMessage .order h false (h.selector == 0) (h.length == length) true (takeOrder m) s

/-- DRILL (R27). -/
def execDrill (h : Header) (slot hole feed : Nat) (s : State) : Result :=
  orderMessage h 8 { kind := .drill, tag := h.tag, slot, hole, zone := 0, lane := 0, feed } s

/-- REAM (R27). -/
def execReam (h : Header) (slot hole feed : Nat) (s : State) : Result :=
  orderMessage h 8 { kind := .ream, tag := h.tag, slot, hole, zone := 0, lane := 0, feed } s

/-- SET (R27). -/
def execSetRivet (h : Header) (slot hole : Nat) (s : State) : Result :=
  orderMessage h 7 { kind := .set, tag := h.tag, slot, hole, zone := 0, lane := 0, feed := 0 } s

/-- HEAT (R27). -/
def execHeat (h : Header) (slot lane : Nat) (s : State) : Result :=
  orderMessage h 6 { kind := .heat, tag := h.tag, slot, hole := 0, zone := 0, lane, feed := 0 } s

/-- CLAMP (R27). -/
def execClamp (h : Header) (slot zone : Nat) (s : State) : Result :=
  orderMessage h 6 { kind := .clamp, tag := h.tag, slot, hole := 0, zone, lane := 0, feed := 0 } s

/-- UNCLAMP (R27). -/
def execUnclamp (h : Header) (slot zone : Nat) (s : State) : Result :=
  orderMessage h 6 { kind := .unclamp, tag := h.tag, slot, hole := 0, zone, lane := 0, feed := 0 } s

/-- PARK (R27). -/
def execPark (h : Header) (slot : Nat) (s : State) : Result :=
  orderMessage h 5 { kind := .park, tag := h.tag, slot, hole := 0, zone := 0, lane := 0, feed := 0 } s

/-- What a taken CANCEL does to its order (R45). -/
def Taking.cancelOrder (c : Setup) (o : Order) (t : Taking) : Taking :=
  let flagged := { o with cancel := true }
  match o.state with
  | .waiting => t.leave c o .cancelled none none
  | .aborting => t.on (Live.updOrder o.tag fun x => { x with cancel := true })
  | _ => (t.on (Live.updOrder o.tag fun x => { x with cancel := true })).abort c flagged .cancel

/-- A taken CANCEL (R45): the effect, TAKEN ahead of the order's ORDER DONE, then the examination. -/
def Live.cancelled (c : Setup) (o : Order) (l : Live) : Live :=
  let t := (Taking.holding l).cancelOrder c o
  let t := t.on fun l => l.place c (.taken o.tag (l.takenState o.tag))
  (t.flush c).finish c

/-- CANCEL (R45). -/
def execCancel (h : Header) (s : State) : Result :=
  cellMessage .order h false (h.selector == 0) (h.length == 4) true
    (fun s =>
      if h.tag = 0 then s.place (.refused h.tag .unknownTag)
      else
        match s.live.order? h.tag with
        | none => s.place (.refused h.tag .unknownTag)
        | some o => { s with live := s.live.cancelled s.setup o }) s

end Sys2Proof.Machine
end

