-- ==== Sys2Proof/Machine/Operands.lean ====
section
/-!
DEFINITION. The operand forms that messages and stored records share: pattern rows and their checks (R4), pattern opening
and writing (R2, R3, R5), and the value checks of the tables (R178, R114, R101, R80, R75).
-/

namespace Sys2Proof.Machine

/-! ### Pattern rows (R4) -/

/-- A number within a range. -/
def within (low high n : Nat) : Bool := decide (low ≤ n) && decide (n ≤ high)

/-- The predecessors read from a row: as many fields as its count says (section 9.6). -/
def rawPreds (r : RawRow) : List Nat :=
  match r.predCount with
  | 0 => []
  | 1 => [r.pred1]
  | _ => [r.pred1, r.pred2]

/-- The predecessor list of a row passes (R4). -/
def predsOk (r : RawRow) : Bool :=
  decide (r.predCount ≤ 2) && (rawPreds r).all (fun p => p != 0 && decide (p < r.hole))
    && (r.predCount != 2 || r.pred1 != r.pred2)

/-- The first failing field of a row (R4), in the order of R4; `earlier` are the hole numbers of the rows before it. -/
def rowFault (n : Nat) (earlier : List Nat) (r : RawRow) : Option RowField :=
  if !within 1 n r.hole || earlier.contains r.hole then some .hole
  else if !within 1 8 r.zone then some .zone
  else if !within 0 15 r.centre then some .centre
  else if !within 0 999 r.offset then some .offset
  else if !within 2 4 r.plies then some .plies
  else if !within 8 120 r.grip then some .grip
  else if !within 1 6 r.diameter then some .diameter
  else if !within 1 3 r.force then some .force
  else if !predsOk r then some .predecessor
  else none

/-- The first failing row of a message and its field (R4): positions count from 1. -/
def rowsFault (n : Nat) (earlier : List Nat) (position : Nat) : List RawRow → Option (Nat × RowField)
  | [] => none
  | r :: rest =>
    match rowFault n earlier r with
    | some f => some (position, f)
    | none => rowsFault n (r.hole :: earlier) (position + 1) rest

/-- A checked row as it is stored. -/
def rowOf (r : RawRow) : PatternRow :=
  { zone := (zoneOf r.zone).getD 0, rail := r.rail, centre := r.centre, offset := r.offset, plies := r.plies, grip := r.grip
    diameter := r.diameter, force := r.force, preds := rawPreds r }

/-- The rows of a message stored at their hole numbers (R3). -/
def storeRows (rows : List (Option PatternRow)) : List RawRow → List (Option PatternRow)
  | [] => rows
  | r :: rest => storeRows (rows.set (r.hole - 1) (some (rowOf r))) rest

/-- The number of written rows (R3). -/
def Pattern.written (p : Pattern) : Nat := (p.rows.filter Option.isSome).length

/-- The patterns and the free row count with pattern `i` replaced. -/
def Setup.setPattern (i : PatternId) (p : Option Pattern) (free : Nat) (c : Setup) : Setup :=
  { c with patterns := c.patterns.set i p, freeRows := free }

/-- PATTERN OPEN on the Pattern Store (R2). -/
def Setup.openPattern (p n : Nat) (c : Setup) : Except Reason Setup :=
  match patternOf p with
  | none => .error .badValue
  | some i =>
    if !within 1 Config.maxHoles n then .error .badValue
    else if c.patterns[i].isSome then .error .exists_
    else if c.freeRows < n then .error .noRoom
    else
      .ok (c.setPattern i (some { complete := false, count := n, rows := List.replicate n none }) (c.freeRows - n))

/-- Why a PATTERN ROWS is refused: a reason, or BAD_ROW with the row's position and field (R4). -/
inductive RowsRefusal where
  | reason (r : Reason)
  | badRow (position : Nat) (field : RowField)
  deriving DecidableEq, Repr

/-- PATTERN ROWS on the Pattern Store (R3, R5): taken whole or not at all. -/
def Setup.writeRows (p k : Nat) (rows : List RawRow) (c : Setup) : Except RowsRefusal (Setup × Pattern) :=
  match patternOf p with
  | none => .error (.reason .badValue)
  | some i =>
    if !within 1 4 k || rows.length != k then .error (.reason .badValue)
    else
      match c.patterns[i] with
      | none => .error (.reason .noPattern)
      | some x =>
        if x.complete then .error (.reason .patternComplete)
        else
          match rowsFault x.count [] 1 rows with
          | some (position, field) => .error (.badRow position field)
          | none =>
            let stored := storeRows x.rows rows
            let y : Pattern := { x with rows := stored, complete := stored.all Option.isSome }
            .ok (c.setPattern i (some y) c.freeRows, y)

/-- The four patterns EMPTY and the free row count 2,048 (R8). -/
def Setup.emptyPatterns (c : Setup) : Setup :=
  { c with patterns := Vector.replicate 4 none, freeRows := Config.patternRows }

/-! ### Table entries (R178) -/

/-- A timing entry number 1..12 as an index. -/
def timingOf (n : Nat) : Option TimingEntry := if h : 1 ≤ n ∧ n ≤ 12 then some ⟨n - 1, by omega⟩ else none

/-- A TIMING write (R178): the table after it, unless the entry or the value is out of range or the TRANSFER ALLOWANCE
acted on would not stay below the HEAT WINDOW acted on. -/
def writeTiming (t : Vector Nat 12) (entry value : Nat) : Except Reason (TimingEntry × Vector Nat 12) :=
  match timingOf entry with
  | none => .error .badValue
  | some e =>
    if timingMaxima[e] < value then .error .badValue
    else
      let t := t.set e value
      if actedOn Timing.heatWindow t[Timing.heatWindow] ≤ actedOn Timing.transferAllowance t[Timing.transferAllowance]
      then .error .badValue
      else .ok (e, t)

/-- The expected kind a code names (R178); the outer `none` is a code that names nothing. -/
def expectedOf : Nat → Option (Option HeadKind)
  | 0 => some none
  | 1 => some (some .drill)
  | 2 => some (some .set)
  | 3 => some (some .heat)
  | 4 => some (some .clamp)
  | _ => none

/-- A SLOT entry within its ranges (R114 check 1). -/
def slotEntryOf (slot kind home : Nat) : Option (SlotId × SlotEntry) :=
  match slotOf slot, expectedOf kind with
  | some s, some k => if home ≤ 15 then some (s, { expected := k, home }) else none
  | _, _ => none

/-- A ZONE entry within its ranges (R101 check 1); a channel without a slot is ignored. -/
def zoneEntryOf (zone slot channel : Nat) : Option (ZoneId × Option ZoneMap) :=
  match zoneOf zone with
  | none => none
  | some z =>
    if slot = 0 then some (z, none)
    else
      match slotOf slot with
      | none => none
      | some s => if within 1 4 channel then some (z, some { slot := s, channel }) else none

/-- Another zone's entry names the same slot and channel (R101 check 4). -/
def zoneTaken (t : Vector (Option ZoneMap) 8) (z : ZoneId) (e : Option ZoneMap) : Bool :=
  e.isSome && allZones.any fun x => x != z && t[x] == e

/-- The lane mode a code names (R178). -/
def laneModeOf : Nat → Option LaneMode
  | 1 => some .manual
  | 2 => some .auto
  | _ => none

/-- A LANE entry within its ranges (R80 check 1). -/
def laneEntryOf (lane slot cls mode target : Nat) : Option (LaneId × LaneEntry) :=
  match laneOf lane, laneModeOf mode with
  | some i, some m =>
    if within 1 6 cls && decide (target ≤ 4) then
      if slot = 0 then some (i, { slot := none, cls, mode := m, target })
      else (slotOf slot).map fun s => (i, { slot := some s, cls, mode := m, target })
    else none
  | _, _ => none

/-- The heater slot is one that the other lane's entry names (R80 check 2). -/
def laneTaken (t : Vector LaneEntry 2) (i : LaneId) (e : LaneEntry) : Bool :=
  let other : LaneId := if i = 0 then 1 else 0
  e.slot.isSome && t[other].slot == e.slot

/-- A pump budget within its range (R75). -/
def budgetOk (v : Nat) : Bool := within 1 15 v

end Sys2Proof.Machine
end

