-- ==== Sys2Proof/Machine/Patterns.lean ====
section
/-!
DEFINITION. The pattern messages (R2 to R6).
-/

namespace Sys2Proof.Machine

/-- A management message with selector 0 and a fixed body length (R168). -/
def manage (h : Header) (length : Nat) (lockable : Bool) (take : State → State) (s : State) : Result :=
  cellMessage .management h false (h.selector == 0) (h.length == length) lockable take s

/-- The state with its setup replaced. -/
def State.withSetup (c : Setup) (s : State) : State := { s with setup := c }

/-- A refusal of a management message (R169). -/
def State.refuse (h : Header) (r : Reason) (s : State) : State := s.answer h (.refused r)

/-- PATTERN OPEN (R2). -/
def execPatternOpen (h : Header) (p n : Nat) (s : State) : Result :=
  manage h 7 false
    (fun s =>
      match s.setup.openPattern p n with
      | .error r => s.refuse h r
      | .ok c => (s.withSetup c).answer h (.patternOpened c.freeRows n)) s

/-- PATTERN ROWS (R3, R4, R5). -/
def execPatternRows (h : Header) (p k : Nat) (rows : List RawRow) (s : State) : Result :=
  manage h (6 + 14 * k) false
    (fun s =>
      match s.setup.writeRows p k rows with
      | .error (.reason r) => s.refuse h r
      | .error (.badRow position field) => s.answer h (.badRow position field)
      | .ok (c, x) => (s.withSetup c).answer h (.patternRows x.complete x.written)) s

/-- The pattern of the bound frame (R1). -/
def Setup.bound (c : Setup) (i : PatternId) : Bool := c.frame.any fun f => f.pattern == i

/-- PATTERN DELETE (R6). -/
def execPatternDelete (h : Header) (p : Nat) (s : State) : Result :=
  manage h 5 false
    (fun s =>
      match patternOf p with
      | none => s.refuse h .badValue
      | some i =>
        match s.setup.patterns[i] with
        | none => s.refuse h .noPattern
        | some x =>
          if s.setup.bound i then s.refuse h .patternInUse
          else
            let c := s.setup.setPattern i none (s.setup.freeRows + x.count)
            (s.withSetup c).answer h (.patternDeleted c.freeRows)) s

end Sys2Proof.Machine
end

