-- ==== Sys2Proof/Machine/TableWrites.lean ====
section
/-!
DEFINITION. TABLE WRITE (R178, R114, R101, R80, R75).
-/

namespace Sys2Proof.Machine

/-- A TABLE WRITE with its own selector and body length (R168, section 9.5). -/
def tableWrite (h : Header) (selector length : Nat) (take : State → State) (s : State) : Result :=
  cellMessage .management h false (h.selector == selector) (h.length == length) false take s

/-- The state with its tables replaced. -/
def State.withTables (t : Tables) (s : State) : State := { s with setup := { s.setup with tables := t } }

/-- TABLE WRITE TIMING (R178). -/
def execTableWriteTiming (h : Header) (entry value : Nat) (s : State) : Result :=
  tableWrite h 1 9
    (fun s =>
      match writeTiming s.setup.tables.timing entry value with
      | .error r => s.refuse h r
      | .ok (e, t) =>
        (s.withTables { s.setup.tables with timing := t }).answer h (.timingWritten entry value (actedOn e value))) s

/-- TABLE WRITE SLOT (R114). -/
def execTableWriteSlot (h : Header) (slot kind home : Nat) (s : State) : Result :=
  tableWrite h 2 7
    (fun s =>
      match slotEntryOf slot kind home with
      | none => s.refuse h .badValue
      | some (i, e) =>
        let x := s.live.slots[i]
        if e.expected.isSome ∧ x.state.joined ∧ x.kind? ≠ e.expected then s.refuse h .wrongKind
        else
          (s.withTables { s.setup.tables with slots := s.setup.tables.slots.set i e }).answer h (.slotWritten x.state)) s

/-- The pool holds a CLAMP or UNCLAMP for a zone (R101 check 3). -/
def Live.zoneOrdered (l : Live) (z : ZoneId) : Bool :=
  l.pool.any fun o => o.kind.zoneKind && o.target == .zone z

/-- The checks of R101 on a ZONE entry within its ranges. -/
def zoneWriteReason (c : Setup) (l : Live) (z : ZoneId) (e : Option ZoneMap) : Option Reason :=
  if c.frame.isSome then some .frameBound
  else if c.tables.zones[z] ≠ e ∧ l.zoneOrdered z then some .inUse
  else if zoneTaken c.tables.zones z e then some .badValue
  else
    match e with
    | none => none
    | some m =>
      if !l.slots[m.slot].state.joined then none
      else
        match l.slots[m.slot].head.map Joined.declared with
        | some (.clamp n) => if n < m.channel then some .channels else none
        | _ => some .wrongKind

/-- A zone whose entry has changed is UNKNOWN with its flag clear (R101, R112). -/
def Live.forgetZone (z : ZoneId) (l : Live) : Live := l.updZone z fun _ => { state := .unknown, expected := false }

/-- TABLE WRITE ZONE (R101). The ANSWER goes ahead of the examination (log entry 18). -/
def execTableWriteZone (h : Header) (zone slot channel : Nat) (s : State) : Result :=
  tableWrite h 3 7
    (fun s =>
      match zoneEntryOf zone slot channel with
      | none => s.refuse h .badValue
      | some (z, e) =>
        match zoneWriteReason s.setup s.live z e with
        | some r => s.refuse h r
        | none =>
          if s.setup.tables.zones[z] = e then s.answer h (.zoneWritten s.live.zones[z].state)
          else
            let changed := decide (s.live.zones[z].state ≠ .unknown)
            let s := s.withTables { s.setup.tables with zones := s.setup.tables.zones.set z e }
            let s := { s with live := s.live.forgetZone z }
            let s := s.answer h (.zoneWritten .unknown)
            if changed then { s with live := (Taking.start s.live).wakeGate.finish s.setup } else s) s

/-- The IN_USE checks of R80. -/
def laneInUse (c : Setup) (l : Live) (i : LaneId) (e : LaneEntry) : Bool :=
  let old := c.tables.lanes[i]
  let free := fun x : Option SlotId =>
    match x with
    | none => true
    | some s => l.slots[s].state == .empty || l.slots[s].state == .joining
  ((e.cls != old.cls || e.slot != old.slot) && (!l.lanes[i].stock.isEmpty || l.lanes[i].heat.isSome))
    || (e.slot != old.slot && !(free old.slot && free e.slot))

/-- TABLE WRITE LANE (R80). -/
def execTableWriteLane (h : Header) (lane slot cls mode target : Nat) (s : State) : Result :=
  tableWrite h 4 9
    (fun s =>
      match laneEntryOf lane slot cls mode target with
      | none => s.refuse h .badValue
      | some (i, e) =>
        if laneTaken s.setup.tables.lanes i e then s.refuse h .badValue
        else if laneInUse s.setup s.live i e then s.refuse h .inUse
        else
          let s := s.withTables { s.setup.tables with lanes := s.setup.tables.lanes.set i e }
          let s := { s with live := s.live.syncCadences s.setup }
          s.answer h (.laneWritten (s.live.laneState s.setup i))) s

/-- TABLE WRITE PUMP (R75). The ANSWER goes ahead of the examination (log entry 18). -/
def execTableWritePump (h : Header) (value : Nat) (s : State) : Result :=
  tableWrite h 5 5
    (fun s =>
      if !budgetOk value then s.refuse h .badValue
      else
        let s := s.withTables { s.setup.tables with budget := value }
        let s := s.answer h (.pumpWritten value s.live.unitsInUse)
        { s with live := (Taking.start s.live).wakeGate.finish s.setup }) s

end Sys2Proof.Machine
end

