-- ==== Sys2Proof/Machine/Frames.lean ====
section
/-!
DEFINITION. The frame messages (R9 to R11), MODE (R142 to R145), and the guard's part in the mode (R146, R147, R149 to
R151).
-/

namespace Sys2Proof.Machine

/-- The hole entries FRAME BEGIN creates (R9, R12). -/
def entriesFor (rows : List (Option PatternRow)) : List Hole :=
  rows.map fun r => Hole.planned (match r with
    | some x => x.diameter
    | none => 1)

/-- FRAME BEGIN (R9). -/
def execFrameBegin (h : Header) (p serial : Nat) (s : State) : Result :=
  manage h 7 true
    (fun s =>
      if s.setup.mode ≠ .standby then s.refuse h .wrongMode
      else
        match patternOf p with
        | none => s.refuse h .badValue
        | some i =>
          match s.setup.patterns[i] with
          | none => s.refuse h .patternIncomplete
          | some x =>
            if !x.complete then s.refuse h .patternIncomplete
            else
              let c := { s.setup with frame := some { pattern := i, serial, count := x.count }, mode := .hold }
              let s := { s with setup := c, live := ({ s.live with holes := entriesFor x.rows } : Live).syncCadences c }
              s.answer h (.frameBegun x.count)) s

/-- The slots that get TOOL SYNC at a frame's release (R10, R138). -/
def Live.syncsTool (l : Live) (s : SlotId) : Bool :=
  l.slots[s].kind? == some .drill
    && (match l.slots[s].state with
      | .ready | .leaving | .released | .faulted => true
      | _ => false)

/-- The release of a frame (R10, R11): the WAITING orders withdrawn, the ANSWER, TOOL SYNC, the entries discarded, the
frame unbound and the mode set. -/
def State.releaseFrame (h : Header) (f : Frame) (mode : Mode) (s : State) : State :=
  let c := s.setup
  let counts := countStates s.live.holes
  let t := (s.live.pool.filter fun o => o.state == .waiting).foldl (fun t o => t.withdraw c o .frameEnded)
    (Taking.start s.live)
  let l := t.live.place c (.answer h.tag (.frameReleased f.serial counts))
  let l := (allSlots.filter l.syncsTool).foldl (fun l s => l.queueToolSync c s) l
  let c := { c with frame := none, mode }
  { s with setup := c, live := Taking.finish c { t with live := { l with holes := [] } } }

/-- The pool holds an order in flight (R10). -/
def Live.anyInFlight (l : Live) : Bool := l.pool.any Order.inFlight

/-- FRAME END (R10). -/
def execFrameEnd (h : Header) (s : State) : Result :=
  manage h 4 true
    (fun s =>
      match s.setup.frame with
      | none => s.refuse h .noFrame
      | some f =>
        if s.setup.mode = .stop then s.refuse h .stopped
        else if s.live.anyInFlight then s.refuse h .inFlight
        else if s.live.zones.toList.any fun z => z.state == .clamped then s.refuse h .zoneClamped
        else s.releaseFrame h f .standby) s

/-- FRAME ABANDON (R11). -/
def execFrameAbandon (h : Header) (s : State) : Result :=
  manage h 4 true
    (fun s =>
      match s.setup.frame with
      | none => s.refuse h .noFrame
      | some f =>
        if s.live.anyInFlight then s.refuse h .inFlight
        else s.releaseFrame h f (if s.setup.mode = .stop then .stop else .standby)) s

/-! ### MODE -/

/-- A MODE message with its own selector (R142). -/
def modeMessage (h : Header) (selector : Nat) (take : State → State) (s : State) : Result :=
  cellMessage .management h false (h.selector == selector) (h.length == 4) true take s

/-- The examinations that a mode of RUN or STANDBY starts (R63): the gate's and both rails', each rail before the gate or
after it as `first` says. -/
def Live.examineAll (c : Setup) (first : Rail → Bool) (l : Live) : Live :=
  let rail := fun (before : Bool) (t : Taking) (r : Rail) => if first r = before then (t.wakeRail r).settleRails c else t
  let t := [Rail.a, .b].foldl (rail true) (Taking.start l)
  let t := [Rail.a, .b].foldl (rail false) (t.examine c)
  t.live.syncCadences c

/-- The mode becomes RUN or STANDBY (R143, R145): the ANSWER, then the examinations, in the order given. -/
def State.startMode (h : Header) (mode : Mode) (first : Rail → Bool) (s : State) : State :=
  let c := { s.setup with mode, freeIndex := s.setup.freeIndex + 1 }
  let l := s.live.place c (.answer h.tag (.mode mode))
  { s with setup := c, live := l.examineAll c first }

/-- The mode becomes HOLD (R144, R145): no examination; the cadence timers start or run on (R86). -/
def State.holdMode (h : Header) (s : State) : State :=
  let c := { s.setup with mode := .hold }
  { s with setup := c, live := (s.live.place c (.answer h.tag (.mode .hold))).syncCadences c }

/-- MODE RUN (R143). The order of the examinations is a free value (log entry 7). -/
def execModeRun (h : Header) (s : State) : Result :=
  modeMessage h 1
    (fun s =>
      match s.setup.mode with
      | .stop => s.refuse h .stopped
      | _ =>
        if s.setup.frame.isNone then s.refuse h .noFrame
        else if s.setup.guard.state ≠ .closed then s.refuse h .guardOpen
        else if s.setup.mode = .hold then s.startMode h .run (Config.railFirst s.setup.freeIndex)
        else s.answer h (.mode s.setup.mode)) s

/-- MODE HOLD (R144). -/
def execModeHold (h : Header) (s : State) : Result :=
  modeMessage h 2
    (fun s =>
      match s.setup.mode with
      | .stop => s.refuse h .stopped
      | _ =>
        if s.setup.frame.isNone then s.refuse h .noFrame
        else if s.setup.mode = .run then s.holdMode h
        else s.answer h (.mode s.setup.mode)) s

/-- A lane's own heat is ABORTING (R145). -/
def Live.heatAborting (l : Live) : Bool :=
  l.lanes.toList.any fun x => x.heat.any fun g => g.origin == .lane && g.step == some .aborting

/-- MODE RESUME (R145). The order of the examinations is a free value (log entry 7). -/
def execModeResume (h : Header) (s : State) : Result :=
  modeMessage h 3
    (fun s =>
      if s.setup.mode ≠ .stop then s.refuse h .wrongMode
      else if s.setup.guard.state ≠ .closed then s.refuse h .guardOpen
      else if (s.live.pool.any fun o => o.state == .aborting) || s.live.heatAborting then s.refuse h .inFlight
      else if s.setup.frame.isSome then s.holdMode h
      else s.startMode h .standby (Config.railFirst s.setup.freeIndex)) s

/-! ### The guard -/

/-- The guard state after a channel event (R149). -/
def guardAfter (before : GuardState) (ch1 ch2 : Level) : GuardState :=
  match before, ch1, ch2 with
  | .closed, .closed, .closed => .closed
  | .closed, _, _ => .opened
  | .opened, .closed, .closed => .closed
  | .opened, _, _ => .opened
  | .latched, .opened, .opened => .opened
  | .latched, _, _ => .latched

/-- The discrepancy timer after a channel event (R150): every new disagreement starts it afresh. -/
def discrepancyAfter (state : GuardState) (ch1 ch2 : Level) : Option Nat :=
  if ch1 ≠ ch2 ∧ state ≠ .latched then some discrepancyLength else none

/-- The guard record after a channel event (R149, R150). -/
def Guard.change (g : Guard) (ch : Channel) (v : Level) : Guard :=
  let ch1 := if ch = .one then v else g.ch1
  let ch2 := if ch = .two then v else g.ch2
  let state := guardAfter g.state ch1 ch2
  { ch1, ch2, state, timer := discrepancyAfter state ch1 ch2 }

/-- The level last read on a channel. -/
def Guard.level (g : Guard) (ch : Channel) : Level :=
  match ch with
  | .one => g.ch1
  | .two => g.ch2

/-- The input levels with one channel changed. -/
def GuardPins.change (p : GuardPins) (ch : Channel) (v : Level) : GuardPins :=
  match ch with
  | .one => { p with ch1 := v }
  | .two => { p with ch2 := v }

/-- Entering STOP on the live side (R146), `c` already holding the mode STOP. R146 leaves the order of its parts free: the
gate's aborts go first, then the lanes' heats, and GUARD_OPEN is posted last, so an ORDER DONE that the aborts place carries
ATTENTION as before it (R156; DESIGN CHOICE, log entry 31). The orders are aborted in the order of arrival: where several end at once, unsent on LEAVING slots
(WITHDRAWN, R47), their ORDER DONE messages go in that order, as neither R146 nor R44 says which is "the order in flight" that
goes first (DESIGN CHOICE, log entry 37). -/
def Live.enterStop (c : Setup) (l : Live) : Live :=
  let t := (Taking.start l).abortAll c .guard (l.pool.map Order.tag)
  let t := (t.stopHeat c 0).stopHeat c 1
  (t.on (Live.post 0 .guardOpen .none)).finish c

/-- What the guard's change hands the mode (R151): leaving CLOSED enters STOP (R146) or, in STOP, posts again (R147);
becoming CLOSED posts GUARD_CLOSED. -/
def State.guardMoved (before after : GuardState) (s : State) : State :=
  match before, after with
  | .closed, .opened =>
    if s.setup.mode = .stop then { s with live := s.live.post 0 .guardOpen .none }
    else
      let c := { s.setup with mode := .stop }
      { s with setup := c, live := s.live.enterStop c }
  | .opened, .closed => { s with live := s.live.post 0 .guardClosed .none }
  | _, _ => s

/-- GUARD_CHANNEL_CHANGE (R149, R183): a level already recorded is no event; while the reset pin is held only the input
itself changes. -/
def execGuardChannelChange (ch : Channel) (v : Level) (s : State) : Result :=
  let s := { s with setup := { s.setup with pins := s.setup.pins.change ch v } }
  if s.setup.resetHeld then .next s
  else if s.setup.guard.level ch = v then .next s
  else
    let g := s.setup.guard.change ch v
    .next (({ s with setup := { s.setup with guard := g } } : State).guardMoved s.setup.guard.state g.state)

/-- The channel that reads OPEN, for the detail of GUARD_DISCREPANCY (R150). -/
def Guard.openChannel (g : Guard) : Channel := if g.ch1 = .opened then .one else .two

/-- The discrepancy timer has expired (R150): the guard is LATCHED. Only an OPEN guard whose channels disagree has the
timer running. -/
def State.latch (s : State) : State :=
  let g := s.setup.guard
  if g.state = .opened ∧ g.ch1 ≠ g.ch2 then
    { s with
      setup := { s.setup with guard := { g with state := .latched, timer := none } }
      live := s.live.post 0 .guardDiscrepancy (.channel g.openChannel) }
  else s

/-- DISCREPANCY_EXPIRY (R150): the time left on the timer passes first (log entry 2); nothing without a running timer. -/
def execDiscrepancyExpiry (s : State) : Result :=
  event (fun s =>
    match s.setup.guard.timer with
    | none => s
    | some n => (s.elapse n).latch) s

end Sys2Proof.Machine
end

