-- ==== Sys2Proof/Machine/Management.lean ====
section
/-!
DEFINITION. HOLE REWORK (R21), SLOT CLEAR (R131), SLOT RELEASE (R123), LAMP SET (R126) and NOTICE TAKE (R157).
-/

namespace Sys2Proof.Machine

/-- HOLE REWORK (R21). The ANSWER goes ahead of the examination (log entry 18). -/
def execHoleRework (h : Header) (hole : Nat) (s : State) : Result :=
  manage h 6 true
    (fun s =>
      if s.setup.frame.isNone then s.refuse h .noFrame
      else
        match s.live.hole? hole with
        | none => s.refuse h .badHole
        | some x =>
          if x.state ≠ .defect then s.refuse h .holeState
          else
            let y := x.rework
            let s := { s with live := s.live.updHole hole Hole.rework }
            let s := s.answer h (.reworked y.state y.reworks y.cls)
            { s with live := (Taking.start s.live).wakeGate.finish s.setup }) s

/-- SLOT CLEAR (R131). -/
def execSlotClear (h : Header) (slot : Nat) (s : State) : Result :=
  manage h 5 true
    (fun s =>
      match slotOf slot with
      | none => s.refuse h .badSlot
      | some i =>
        if s.live.slots[i].state ≠ .faulted then s.refuse h .slotState
        else
          let l := s.live.updSlot i fun x => { x with state := .joining }
          let l := (l.queueJoin s.setup i (.rejoin .cleared)).syncLamp s.setup i
          ({ s with live := l.syncCadences s.setup } : State).answer h .ok) s

/-- SLOT RELEASE (R123). -/
def execSlotRelease (h : Header) (slot : Nat) (s : State) : Result :=
  manage h 5 true
    (fun s =>
      match slotOf slot with
      | none => s.refuse h .badSlot
      | some i =>
        if s.live.slots[i].state ≠ .leaving then s.refuse h .slotState
        else if s.live.slots[i].work ≠ .idle then s.refuse h .slotBusy
        else
          let l := s.live.queueToolSync s.setup i
          let l := (l.updSlot i fun x => { x with state := .released }).syncLamp s.setup i
          ({ s with live := l.syncCadences s.setup } : State).answer h .ok) s

/-- The lamp setting a code names (section 9.5). -/
def lampOf : Nat → Option LampSetting
  | 1 => some .forceOn
  | 2 => some .forceOff
  | 3 => some .auto
  | _ => none

/-- LAMP SET (R126). A LEAVING that it brings is taken before the ANSWER, the examination after it (log entry 18). -/
def execLampSet (h : Header) (slot setting : Nat) (s : State) : Result :=
  manage h 6 true
    (fun s =>
      match slotOf slot, lampOf setting with
      | none, _ => s.refuse h .badSlot
      | some _, none => s.refuse h .badValue
      | some i, some v =>
        let c := s.setup
        let t := (Taking.start s.live).on fun l => (l.updSlot i fun x => { x with lamp := v }).syncLamp c i
        let x := t.live.slots[i]
        let t := if v = .auto ∧ x.state.working ∧ x.leverPending then t.leaving c i else t
        let y := t.live.slots[i]
        let t := t.on fun l => l.place c (.answer h.tag (.lamp y.lamp y.aspect y.leverPending))
        { s with live := t.finish c }) s

/-- The sources in the order NOTICE TAKE chooses them (R157): 0, then 12 down to 1. -/
def noticeSources : List (Fin 13) := [0, 12, 11, 10, 9, 8, 7, 6, 5, 4, 3, 2, 1]

/-- The entries in the order NOTICE TAKE chooses them (R157). -/
def noticeOrder : List (Fin 13 × NoticeLevel) :=
  [NoticeLevel.alarm, .fault, .warn, .info].flatMap fun v => noticeSources.map fun src => (src, v)

/-- The entry a NOTICE TAKE chooses (R157). -/
def Live.chooseNotice (l : Live) : Option ((Fin 13 × NoticeLevel) × Notice) :=
  noticeOrder.findSome? fun p => (l.notices[noticeIndex p.1 p.2]).map fun n => (p, n)

/-- The number of filled entries. -/
def Live.filled (l : Live) : Nat := (l.notices.toList.filter Option.isSome).length

/-- NOTICE TAKE (R157): the entry is emptied before the ANSWER is placed, so its flags show ATTENTION after the take
(R156). -/
def execNoticeTake (h : Header) (s : State) : Result :=
  manage h 4 false
    (fun s =>
      match s.live.chooseNotice with
      | none => s.answer h .noNotice
      | some (p, n) =>
        let l := { s.live with notices := s.live.notices.set (noticeIndex p.1 p.2) none }
        ({ s with live := l } : State).answer h (.notice p.1 p.2 n l.filled)) s

end Sys2Proof.Machine
end

