-- ==== Sys2Proof/Machine/Queries.lean ====
section
/-!
DEFINITION. QUERY (R179): the data of each of its eleven forms.
-/

namespace Sys2Proof.Machine

/-- A QUERY with its own selector and body length (R168, section 9.5). QUERY STATUS alone is answered during a preload
(R190). A message of selector 1 with a wrong length counts as QUERY STATUS there and is refused BAD_VALUE, not LOCKED (R168
leaves this open; DESIGN CHOICE, log entry 32). -/
def query (h : Header) (selector length : Nat) (take : State → State) (s : State) : Result :=
  cellMessage .management h (selector == 1 && h.selector == 1) (h.selector == selector) (h.length == length) false take s

/-! ### STATUS (R180) -/

/-- The number of filled entries of a level (R159). -/
def Live.filledAt (l : Live) (v : NoticeLevel) : Nat :=
  (noticeSources.filter fun src => (l.notices[noticeIndex src v]).isSome).length

/-- The data of QUERY STATUS (R180). -/
def statusView (c : Setup) (l : Live) : StatusView :=
  { mode := c.mode, guard := c.guard.state, ch1 := c.guard.ch1, ch2 := c.guard.ch2
    discrepancy := c.guard.timer.isSome, frame := c.frame, poolCount := l.pool.length, slow := l.slow
    lockout := c.lockout, preload := c.preload, resetCause := c.resetCause
    filled := [NoticeLevel.alarm, .fault, .warn, .info].map l.filledAt
    attention := attention l
    source0 := [NoticeLevel.alarm, .fault, .warn, .info].map fun v => (l.notices[noticeIndex 0 v]).map Notice.code
    slots := allSlots.map fun s => l.slots[s].state
    listCount := l.cell.list.length, holdoff := l.cell.holdoff }

/-- QUERY STATUS (R180). -/
def execQueryStatus (h : Header) (s : State) : Result :=
  query h 1 4 (fun s => s.answer h (.status (statusView s.setup s.live))) s

/-! ### HOLE and ORDER (R23, R55) -/

/-- The tag of the pool order that targets a hole (R23). -/
def Live.holeTag (l : Live) (hole : Nat) : Option Nat :=
  (l.pool.find? fun o => o.target == .hole hole).map Order.tag

/-- QUERY HOLE (R23). -/
def execQueryHole (h : Header) (hole : Nat) (s : State) : Result :=
  query h 2 6
    (fun s =>
      match s.setup.frame with
      | none => s.refuse h .noFrame
      | some f =>
        match s.live.hole? hole with
        | none => s.refuse h .badHole
        | some x => s.answer h (.hole f.serial x (s.setup.row? hole) (s.live.holeTag hole))) s

/-- An order as QUERY ORDER by rank shows it (R55). -/
def orderLine (o : Order) : OrderLine := { tag := o.tag, kind := o.kind, slot := o.slot, state := o.state, wait := o.wait }

/-- QUERY ORDER (R55): form 1 by tag, form 2 by rank (R177). -/
def execQueryOrder (h : Header) (form arg : Nat) (s : State) : Result :=
  query h 3 6
    (fun s =>
      match form with
      | 1 =>
        match s.live.order? arg with
        | none => s.refuse h .unknownTag
        | some o => s.answer h (.order o ((s.live.pool.findIdx fun x => x.tag == arg) + 1))
      | 2 =>
        if within 1 32 arg then
          s.answer h (.orders s.live.pool.length (((s.live.pool.drop (arg - 1)).take 12).map orderLine))
        else s.refuse h .badValue
      | _ => s.refuse h .badValue) s

/-! ### SLOT (R139) -/

/-- The work in flight with its kind and state (R139). -/
def workView (l : Live) (s : SlotId) : Work → WorkView
  | .idle => .idle
  | .order tag => .order tag ((l.order? tag).map Order.kind) ((l.order? tag).map Order.state)
  | .heat i => .laneHeat .heat ((l.lanes[i].heatOn s).bind Heat.step)

/-- The data of QUERY SLOT (R139, R167). -/
def slotView (c : Setup) (l : Live) (s : SlotId) : SlotView :=
  { slot := l.slots[s], entry := c.tables.slots[s], work := workView l s l.slots[s].work, holding := l.holdings[s]
    orders := (l.pool.filter fun o => o.slot == s).length, up := l.heads[s].up, status := l.heads[s].status
    outbound := l.heads[s].list.length }

/-- QUERY SLOT (R139): the link status record is returned and then cleared (R167). -/
def execQuerySlot (h : Header) (slot : Nat) (s : State) : Result :=
  query h 4 5
    (fun s =>
      match slotOf slot with
      | none => s.refuse h .badSlot
      | some i =>
        let v := slotView s.setup s.live i
        let l := s.live.updHead i fun k => { k with status := k.status.cleared }
        ({ s with live := l } : State).answer h (.slot v)) s

/-! ### RAIL (R71) -/

/-- The slot that holds a segment of a rail (R71). -/
def Live.holder (l : Live) (r : Rail) (seg : Nat) : Option SlotId :=
  allSlots.find? fun s =>
    match l.holdings[s] with
    | some h => h.rail == r && h.run.contains seg
    | none => false

/-- The centre whose span a run is (R71). -/
def centreOf (run : Run) : Option Nat := (List.range 16).find? fun t => span t == run

/-- The TRAVEL of a slot has been sent (R66). -/
def Live.travelSent (l : Live) (v : Travel) : Bool := (l.order? v.tag).any fun o => o.travelMark == some .sent

/-- A travel record as HOLDINGS shows it (R71). -/
def Live.travelLine (l : Live) (v : Travel) : TravelLine :=
  { tag := v.tag, target := v.target, sweep := v.sweep, sent := l.travelSent v }

/-- A claim request as REQUESTS shows it (R71). -/
def requestLine (q : Request) : RequestLine :=
  { slot := q.slot, tag := q.tag, target := q.target, sweep := q.sweep, waited := q.waited, urgent := q.urgent }

/-- The entry of a slot that holds segments of a rail (R71). -/
def Live.holdingLine (l : Live) (r : Rail) (s : SlotId) : Option HoldingLine :=
  match l.holdings[s] with
  | none => none
  | some h =>
    if h.rail = r then
      some { slot := s, state := l.slots[s].state, run := h.run, centre := centreOf h.run
             travel := (l.travels[s]).map l.travelLine }
    else none

/-- The rail a code names (section 9.7). -/
def railOf : Nat → Option Rail
  | 1 => some .a
  | 2 => some .b
  | _ => none

/-- QUERY RAIL (R71): part 1 HOLDINGS, part 2 REQUESTS. R71 gives HOLDINGS one entry for each slot that holds segments and
no order among them: ascending slot numbers are the model's choice (DESIGN CHOICE, log entry 25). -/
def execQueryRail (h : Header) (rail part start : Nat) (s : State) : Result :=
  query h 5 (if part = 2 then 7 else 6)
    (fun s =>
      match railOf rail, part with
      | some r, 1 =>
        s.answer h (.railHoldings ((List.range 16).map (s.live.holder r)) (allSlots.filterMap (s.live.holdingLine r)))
      | some r, 2 =>
        if within 1 12 start then
          s.answer h (.railRequests (s.live.requests r).length ((((s.live.requests r).drop (start - 1)).take 6).map requestLine))
        else s.refuse h .badValue
      | _, _ => s.refuse h .badValue) s

/-! ### LANE, ZONE and PUMP (R97, R111, R77) -/

/-- A rivet as QUERY LANE shows it (R97). -/
def rivetLine (now : Nat) (r : Rivet) : RivetLine :=
  { serial := r.serial, cls := r.cls, age := r.age now, left := r.left now, tag := r.tag }

/-- The heat record with its step; for origin ORDER the step is the pool order's state (R97). -/
def heatView (l : Live) (g : Heat) : Heat × HeatStepView :=
  (g, match g.origin with
    | .lane => .lane g.step
    | .order => .order ((l.order? g.tag).map Order.state))

/-- The data of QUERY LANE (R97). -/
def laneView (c : Setup) (l : Live) (i : LaneId) : LaneView :=
  { entry := c.tables.lanes[i], state := l.laneState c i, serving := l.servingSlot c i, late := l.lanes[i].late
    cadence := l.lanes[i].cadence, heat := l.lanes[i].heat.map (heatView l), stockCount := l.lanes[i].stock.length
    stock := l.lanes[i].stock.map (rivetLine c.now), fault := l.lanes[i].fault }

/-- QUERY LANE (R97). -/
def execQueryLane (h : Header) (lane : Nat) (s : State) : Result :=
  query h 6 5
    (fun s =>
      match laneOf lane with
      | none => s.refuse h .badValue
      | some i => s.answer h (.lane (laneView s.setup s.live i))) s

/-- The channel count that the head of a slot declared (R104); a record kept through FAULTED and JOINING still gives it. -/
def Slot.channels? (x : Slot) : Option Nat :=
  match x.head.map Joined.declared with
  | some (.clamp n) => some n
  | _ => none

/-- The channel count of the module joined in a slot (R111): absent in EMPTY and in JOINING, where no HELLO has been
accepted (R113). A FAULTED slot's head is still a joined head, as R10 calls it (DEDUCED, log entry 26). -/
def Slot.joinedChannels? (x : Slot) : Option Nat :=
  if x.state = .empty ∨ x.state = .joining then none else x.channels?

/-- The data of QUERY ZONE for one zone (R111). The tags of its in-flight hole orders stand in the order of arrival, which
R111 leaves open (DESIGN CHOICE, log entry 38). -/
def zoneView (c : Setup) (l : Live) (z : ZoneId) : ZoneView :=
  let e := c.tables.zones[z]
  { entry := e, state := l.zones[z].state, expected := l.zones[z].expected
    slotState := e.map fun m => l.slots[m.slot].state
    channels := e.bind fun m => (l.slots[m.slot]).joinedChannels?
    order := (l.pool.find? fun o => o.kind.zoneKind && o.target == .zone z).map fun o => (o.tag, o.state)
    holes := c.frame.map fun _ => countStates (holesOfZone c z 1 l.holes)
    inFlight := c.frame.map fun _ =>
      (l.pool.filter fun o => o.inFlight && (o.hole?.bind c.row?).any fun r => r.zone == z).map Order.tag }

/-- QUERY ZONE (R111). -/
def execQueryZone (h : Header) (zone : Nat) (s : State) : Result :=
  query h 7 5
    (fun s =>
      if zone = 0 then s.answer h (.zones (allZones.map fun z => (s.setup.tables.zones[z], s.live.zones[z])))
      else
        match zoneOf zone with
        | none => s.refuse h .badValue
        | some z => s.answer h (.zone (zoneView s.setup s.live z))) s

/-- The data of QUERY PUMP (R77). -/
def pumpView (c : Setup) (l : Live) : PumpView :=
  let waiting := l.pool.filter fun o => o.kind == .set && o.state == .waiting && o.wait == some .pump
  { budget := c.tables.budget, inUse := l.unitsInUse, waiting := waiting.length, oldest := waiting.head?.map Order.tag
    holders := l.pool.filterMap fun o => o.units.map fun n =>
      { tag := o.tag, slot := o.slot, target := o.target, units := n, state := o.state } }

/-- QUERY PUMP (R77). -/
def execQueryPump (h : Header) (s : State) : Result :=
  query h 8 4 (fun s => s.answer h (.pump (pumpView s.setup s.live))) s

/-! ### LINK, TABLE and PATTERN (R166, R181, R7) -/

/-- QUERY LINK (R166): the record is returned and then cleared, its high mark at the present list count (log entry 17). -/
def execQueryLink (h : Header) (s : State) : Result :=
  query h 9 4
    (fun s =>
      let k := s.live.cell
      let l := { s.live with cell := { k with status := CellStatus.cleared k.list.length } }
      ({ s with live := l } : State).answer h (.link k.status k.list.length k.holdoff)) s

/-- One entry of a table or all of them: index 0 asks for all (R181). -/
def entriesAt {α : Type} (index : Nat) (entries : List α) : Option (List α) :=
  if index = 0 then some entries else (entries[index - 1]?).map fun e => [e]

/-- The data of QUERY TABLE (R181); `none` for a table or an index out of range. -/
def tableView (t : Tables) (table index : Nat) : Option TableView :=
  match table with
  | 1 =>
    if index = 0 then some (.timingWritten t.timing.toList)
    else (timingOf index).map fun e => .timing [(t.timing[e], actedOn e t.timing[e])]
  | 2 => (entriesAt index t.slots.toList).map .slots
  | 3 => (entriesAt index t.zones.toList).map .zones
  | 4 => (entriesAt index t.lanes.toList).map .lanes
  | 5 => if index = 0 then some (.pump t.budget) else none
  | _ => none

/-- QUERY TABLE (R181). -/
def execQueryTable (h : Header) (table index : Nat) (s : State) : Result :=
  query h 10 6
    (fun s =>
      match tableView s.setup.tables table index with
      | none => s.refuse h .badValue
      | some v => s.answer h (.table v)) s

/-- The lowest hole number whose mark is clear, from hole number `n` on. -/
def lowestUnwritten (n : Nat) : List (Option PatternRow) → Option Nat
  | [] => none
  | none :: _ => some n
  | some _ :: rest => lowestUnwritten (n + 1) rest

/-- The data of QUERY PATTERN without a hole (R7). -/
def patternView (c : Setup) (i : PatternId) : PatternView :=
  match c.patterns[i] with
  | none =>
    { complete := none, count := none, written := 0, lowestUnwritten := none, bound := c.bound i, freeRows := c.freeRows }
  | some p =>
    { complete := some p.complete, count := some p.count, written := p.written
      lowestUnwritten := if p.complete then none else lowestUnwritten 1 p.rows
      bound := c.bound i, freeRows := c.freeRows }

/-- QUERY PATTERN (R7). -/
def execQueryPattern (h : Header) (p : Nat) (hole : Option Nat) (s : State) : Result :=
  query h 11 (if hole.isSome then 7 else 5)
    (fun s =>
      match patternOf p, hole with
      | none, _ => s.refuse h .badValue
      | some i, none => s.answer h (.pattern (patternView s.setup i))
      | some i, some n =>
        match s.setup.patterns[i] with
        | none => s.refuse h .noPattern
        | some x =>
          if !within 1 x.count n then s.refuse h .badHole
          else
            match x.row? n with
            | none => s.refuse h .noRow
            | some r => s.answer h (.row n r)) s

end Sys2Proof.Machine
end

