-- ==== Sys2Proof/Machine/Replies.lean ====
section
/-!
DEFINITION. The data of every ANSWER (R177) and of WELCOME (R118): item by item, in the order in which the owning rule lists
it, and the bytes the items take on the line.
-/

namespace Sys2Proof.Machine

/-! ### Items -/

/-- An item that may be absent. -/
def Datum.opt {α : Type} (f : α → Datum) : Option α → Datum
  | some x => f x
  | none => .absent

/-- The data of an optional record. -/
def optData {α : Type} (f : α → List Datum) : Option α → List Datum
  | some x => f x
  | none => [.absent]

/-- A slot by its number. -/
def Datum.slot (s : SlotId) : Datum := .number (s.val + 1)

/-- A zone by its number. -/
def Datum.zone (z : ZoneId) : Datum := .number (z.val + 1)

/-- A lane by its number. -/
def Datum.lane (i : LaneId) : Datum := .number (i.val + 1)

/-- A wait reason by its code, which R177 gives wherever it is carried. -/
def Datum.wait (r : Option WaitReason) : Datum := .opt (fun x => .number x.code) r

/-- A run of segments (R57). -/
def Run.data (r : Run) : List Datum := [.number r.first, .number r.last]

/-- The static fields of a row in the order of section 1.1.1, the predecessors counted. -/
def PatternRow.data (r : PatternRow) : List Datum :=
  [ .zone r.zone, .rail r.rail, .number r.centre, .number r.offset, .number r.plies, .number r.grip, .number r.diameter,
    .number r.force, .number r.preds.length ] ++ r.preds.map .number

/-- The fields of a hole entry in the order of R12. -/
def Hole.data (x : Hole) : List Datum :=
  [ .holeState x.state, .number x.cls, .number x.reworks, .opt .slot x.lastDrill, .opt .gauge x.gauge,
    .opt .number x.diameter, .opt .number x.rivetSerial, .opt .force x.force, .opt .number x.peak ]

/-- The target of an order (R26), absent for PARK. -/
def Target.datum : Target → Datum
  | .hole n => .number n
  | .zone z => .zone z
  | .lane i => .lane i
  | .home => .absent

/-- The assigned rivet of an order (R26). -/
def AssignedRivet.data (r : AssignedRivet) : List Datum := [.lane r.lane, .number r.serial, .whereabouts r.whereabouts]

/-- The fields of an order record in the order of R26. -/
def Order.data (o : Order) : List Datum :=
  List.flatten
    [ [ .number o.tag, .orderKind o.kind, .slot o.slot, o.target.datum, .opt .number o.channel, .opt .number o.centre,
        .opt .number o.feed, .orderState o.state, .wait o.wait, .opt .holeState o.before ],
      optData AssignedRivet.data o.rivet,
      [ .opt .number o.units, .opt .abortCause o.cause, .opt .abortStep o.step, .flag o.cancel, .opt .mark o.travelMark,
        .opt .mark o.issueMark ] ]

/-- One entry of QUERY ORDER by rank (R55). -/
def OrderLine.data (o : OrderLine) : List Datum :=
  [.number o.tag, .orderKind o.kind, .slot o.slot, .orderState o.state, .wait o.wait]

/-- One entry of HOLDINGS (R71); the fields of a travel stand while it is open. -/
def HoldingLine.data (x : HoldingLine) : List Datum :=
  [.slot x.slot, .slotState x.state] ++ x.run.data ++ [.opt .number x.centre]
    ++ (match x.travel with
      | some v => [.number v.tag, .number v.target] ++ v.sweep.data ++ [.flag v.sent]
      | none => [])

/-- One entry of REQUESTS (R71). -/
def RequestLine.data (q : RequestLine) : List Datum :=
  [.slot q.slot, .number q.tag, .number q.target] ++ q.sweep.data ++ [.number q.waited, .flag q.urgent]

/-- A lane table entry (R80). -/
def LaneEntry.data (e : LaneEntry) : List Datum := [.opt .slot e.slot, .number e.cls, .laneMode e.mode, .number e.target]

/-- A slot table entry (R114). -/
def SlotEntry.data (e : SlotEntry) : List Datum := [.expected e.expected, .number e.home]

/-- A zone table entry (R100): module slot and channel, or unmapped. -/
def zoneEntryData (e : Option ZoneMap) : List Datum := [.opt (fun m => .slot m.slot) e, .opt (fun m => .number m.channel) e]

/-- The heat record with its step (R84, R97); the abort cause is GUARD exactly in ABORTING. -/
def heatData (g : Heat × HeatStepView) : List Datum :=
  [.number g.1.tag, .heatOrigin g.1.origin, .slot g.1.slot, .number g.1.cls, .opt .number g.1.serial]
    ++ (match g.2 with
      | .lane st => [.opt .heatStep st, .opt .mark g.1.mark,
        if st = some .aborting then .abortCause .guard else .absent]
      | .order st => [.opt .orderState st])

/-- One rivet of QUERY LANE (R97). -/
def RivetLine.data (r : RivetLine) : List Datum :=
  [.number r.serial, .number r.cls, .number r.age, .number r.left, .opt .number r.tag]

/-- A lane's fault record (R90). -/
def LaneFault.data (x : LaneFault) : List Datum :=
  [.number x.tag, .slot x.slot, .lossCause x.cause, .opt .number x.code, .opt .number x.serial]

/-- The declared fields and the revision (R113). -/
def Joined.data (x : Joined) : List Datum :=
  (match x.declared with
    | .drill r c | .set r c => [.rail r, .number c]
    | .heat i => [.lane i]
    | .clamp n => [.number n]) ++ [.number x.revision]

/-- The tool record (R113). -/
def Tool.data (x : Tool) : List Datum := [.number x.id, .number x.limit, .number x.count, .flag x.spent]

/-- The work in flight of a slot record (R113). -/
def Work.data : Work → List Datum
  | .idle => [.absent]
  | .order t => [.number t]
  | .heat _ => [.laneHeat]

/-- A slot's fault record (R113). -/
def SlotFault.data (x : SlotFault) : List Datum := [.lossCause x.cause, .opt .number x.code, .opt .number x.tag]

/-- The stage of R132 that the timer stands in: GRACE is one stage, whichever stage it was entered from. -/
def TimedStage.stage : TimedStage → Stage
  | .accept => .accept
  | .run => .run
  | .travel => .travel
  | .graceRun | .graceTravel => .grace
  | .abort => .abort

/-- The timer's stage, one of the five of R132, and remaining time (R113, R139). -/
def StageTimer.data (t : StageTimer) : List Datum := [.stage t.stage.stage, .number t.left]

/-- The fields of a slot record in the order of R113. -/
def Slot.data (x : Slot) : List Datum :=
  List.flatten
    [ [.slotState x.state, .opt .headKind x.kind?], optData Joined.data x.head, optData Tool.data x.tool, x.work.data,
      [.lever x.lever, .flag x.leverPending, .lampSetting x.lamp, .aspect x.aspect],
      optData StageTimer.data x.timer, optData SlotFault.data x.fault ]

/-- The work in flight with its kind and state (R139). -/
def WorkView.data : WorkView → List Datum
  | .idle => [.absent]
  | .order t k s => [.number t, .opt .orderKind k, .opt .orderState s]
  | .laneHeat k s => [.laneHeat, .orderKind k, .opt .heatStep s]

/-- A holding (R57). -/
def Holding.data (h : Holding) : List Datum := .rail h.rail :: h.run.data

/-- The cell link status record in the order of R166. -/
def CellStatus.data (x : CellStatus) : List Datum :=
  [ .flag x.errorSeen, .number x.crc, .number x.length, .number x.framing, .number x.overrun, .number x.protocol,
    .opt .linkError x.last, .number x.highMark ]

/-- A head link status record in the order of R167, with the link state and outbound count that the link holds. -/
def HeadStatus.data (up : Bool) (outbound : Nat) (x : HeadStatus) : List Datum :=
  [ .flag up, .flag x.errorSeen, .number x.crc, .number x.length, .number x.framing, .number x.protocol,
    .opt .linkError x.last, .number x.downs, .opt .number x.headState, .number outbound ]

/-- The kind of a notice detail (R153). -/
def Detail.kind : Detail → DetailKind
  | .none => .none
  | .tag _ => .tag
  | .zone _ => .zone
  | .lane _ => .lane
  | .channel _ => .channel
  | .reason _ => .reason
  | .cause _ _ => .cause
  | .reset _ => .reset
  | .record _ _ => .record

/-- The values of a notice detail (R153): CAUSE has a head fault code for HEAD_FAULT alone, RECORD carries its reason's
code. -/
def Detail.values : Detail → List Datum
  | .none => []
  | .tag t => [.number t]
  | .zone z => [.zone z]
  | .lane i => [.lane i]
  | .channel c => [.number (match c with
    | .one => 1
    | .two => 2)]
  | .reason r => [.joinReason r]
  | .cause c code => .lossCause c :: (code.toList.map .number)
  | .reset c => [.resetCause c]
  | .record position r => [.number position, .number r.code]

/-- A notice detail (R153): its kind, then its values. -/
def Detail.data (d : Detail) : List Datum := .detailKind d.kind :: d.values

/-- QUERY STATUS (R180). -/
def StatusView.data (v : StatusView) : List Datum :=
  List.flatten
    [ [.mode v.mode, .guard v.guard, .level v.ch1, .level v.ch2, .flag v.discrepancy],
      match v.frame with
      | some f => [.flag true, .number (f.pattern.val + 1), .number f.serial, .number f.count]
      | none => [.flag false],
      [.number v.poolCount, .flag v.slow, .flag v.lockout, .preload v.preload, .resetCause v.resetCause],
      v.filled.map .number,
      [.flag v.attention],
      v.source0.map (.opt .noticeCode),
      v.slots.map .slotState,
      [.number v.listCount, .flag v.holdoff] ]

/-- QUERY SLOT (R139). -/
def SlotView.data (v : SlotView) : List Datum :=
  List.flatten
    [ v.slot.data, v.entry.data, v.work.data, optData StageTimer.data v.slot.timer, optData Holding.data v.holding,
      [.number v.orders], v.status.data v.up v.outbound ]

/-- QUERY LANE (R97). -/
def LaneView.data (v : LaneView) : List Datum :=
  List.flatten
    [ v.entry.data, [.laneState v.state, .opt .slot v.serving, .flag v.late, .opt .number v.cadence],
      optData heatData v.heat, [.number v.stockCount], v.stock.flatMap RivetLine.data, optData LaneFault.data v.fault ]

/-- QUERY ZONE for one zone (R111). -/
def ZoneView.data (v : ZoneView) : List Datum :=
  List.flatten
    [ zoneEntryData v.entry,
      [.zoneState v.state, .flag v.expected, .opt .slotState v.slotState, .opt .number v.channels],
      optData (fun o : Nat × OrderState => [.number o.1, .orderState o.2]) v.order,
      (v.holes.getD []).map .number, (v.inFlight.getD []).map .number ]

/-- QUERY PUMP (R77). -/
def PumpView.data (v : PumpView) : List Datum :=
  [.number v.budget, .number v.inUse, .number v.waiting, .opt .number v.oldest]
    ++ v.holders.flatMap fun x => [.number x.tag, .slot x.slot, x.target.datum, .number x.units, .orderState x.state]

/-- QUERY TABLE (R181). -/
def TableView.data : TableView → List Datum
  | .timing lines => lines.flatMap fun x => [.number x.1, .number x.2]
  | .timingWritten values => values.map .number
  | .slots entries => entries.flatMap SlotEntry.data
  | .zones entries => entries.flatMap zoneEntryData
  | .lanes entries => entries.flatMap LaneEntry.data
  | .pump budget => [.number budget]

/-! ### ANSWER -/

/-- The result byte of an ANSWER (R177): 0 for OK, or the code of the reason. -/
def Answer.result : Answer → Nat
  | .refused r => r.code
  | .badRow _ _ => Reason.badRow.code
  | _ => 0

/-- The number of the rule that gives an ANSWER its data. -/
def Answer.rule : Answer → Nat
  | .refused _ => 169
  | .badRow _ _ => 4
  | .ok => 169
  | .patternOpened _ _ => 2
  | .patternRows _ _ => 3
  | .patternDeleted _ => 6
  | .timingWritten _ _ _ => 178
  | .slotWritten _ => 114
  | .zoneWritten _ => 101
  | .laneWritten _ => 80
  | .pumpWritten _ _ => 75
  | .frameBegun _ => 9
  | .frameReleased _ _ => 10
  | .mode _ => 142
  | .reworked _ _ _ => 21
  | .lamp _ _ _ => 126
  | .notice _ _ _ _ => 157
  | .noNotice => 157
  | .storeBytes _ _ _ => 184
  | .storeWritten _ _ => 185
  | .unlocked _ => 191
  | .restarting => 194
  | .status _ => 180
  | .hole _ _ _ _ => 23
  | .order _ _ => 55
  | .orders _ _ => 55
  | .slot _ => 139
  | .railHoldings _ _ => 71
  | .railRequests _ _ => 71
  | .lane _ => 97
  | .zone _ => 111
  | .zones _ => 111
  | .pump _ => 77
  | .link _ _ _ => 166
  | .table _ => 181
  | .pattern _ => 7
  | .row _ _ => 7

/-- The data of an ANSWER after its result, in the order its owning rule lists it (R177). -/
def Answer.data : Answer → List Datum
  | .refused _ | .ok | .restarting => []
  | .badRow position field => [.number position, .rowField field]
  | .patternOpened free count => [.number free, .number count]
  | .patternRows complete written => [.patternState (some complete), .number written]
  | .patternDeleted free => [.number free]
  | .timingWritten entry value acted => [.number entry, .number value, .number acted]
  | .slotWritten st => [.slotState st]
  | .zoneWritten st => [.zoneState st]
  | .laneWritten st => [.laneState st]
  | .pumpWritten budget inUse => [.number budget, .number inUse]
  | .frameBegun count => [.number count]
  | .frameReleased serial counts => .number serial :: counts.map .number
  | .mode m => [.mode m]
  | .reworked st reworks cls => [.holeState st, .number reworks, .number cls]
  | .lamp v a pending => [.lampSetting v, .aspect a, .flag pending]
  | .notice source level n left =>
    [.number source.val, .noticeLevel level, .noticeCode n.code] ++ n.detail.data ++ [.flag n.overrun, .number left]
  | .noNotice => [.absent, .number 0]
  | .storeBytes addr count bytes => [.number addr, .number count] ++ bytes.map .byte
  | .storeWritten addr count => [.number addr, .number count]
  | .unlocked v => [.flag v]
  | .status v => v.data
  | .hole serial x r tag => [.number serial] ++ x.data ++ optData PatternRow.data r ++ [.opt .number tag]
  | .order o rank => o.data ++ [.number rank]
  | .orders count lines => .number count :: lines.flatMap OrderLine.data
  | .slot v => v.data
  | .railHoldings holders lines => holders.map (.opt .slot) ++ lines.flatMap HoldingLine.data
  | .railRequests count lines => .number count :: lines.flatMap RequestLine.data
  | .lane v => v.data
  | .zone v => v.data
  | .zones lines => lines.flatMap fun x => zoneEntryData x.1 ++ [.zoneState x.2.state, .flag x.2.expected]
  | .pump v => v.data
  | .link st listCount holdoff => st.data ++ [.number listCount, .flag holdoff]
  | .table v => v.data
  | .pattern v =>
    [ .patternState v.complete, .opt .number v.count, .number v.written, .opt .number v.lowestUnwritten, .flag v.bound,
      .number v.freeRows ]
  | .row n r => .number n :: r.data

/-- The data of a WELCOME after its slot number, in the order of R118. -/
def WelcomeBody.data : WelcomeBody → List Datum
  | .drill rail span home id limit count =>
    [.rail rail] ++ span.data ++ [.number home, .number id, .number limit, .number count]
  | .set rail span home => [.rail rail] ++ span.data ++ [.number home]
  | .heat lane cls mode => [.lane lane, .number cls, .laneMode mode]
  | .clamp channels => channels.flatMap fun x => [.number x.1, .zone x.2]

/-! ### Bytes -/

/-- The bytes of one item: a byte of the store is itself; the width and code of any other is the free value of log entry
16. -/
def Datum.bytes (rule place : Nat) : Datum → List Byte
  | .byte b => [b]
  | d => Config.datumBytes rule place d

/-- The bytes of data from item number `place` on, one item after another (R177). -/
def dataBytes (rule place : Nat) : List Datum → List Byte
  | [] => []
  | d :: rest => d.bytes rule place ++ dataBytes rule (place + 1) rest

end Sys2Proof.Machine
end

