-- ==== Sys2Proof/Machine/Wire.lean ====
section
/-!
DEFINITION. The wire: the CRC (R164), the receiver (R165), and the byte layouts of the messages whose layout section 9.6
gives.
-/

namespace Sys2Proof.Machine

/-! ### CRC (R164) -/

/-- One bit of the CRC. -/
def crcBit (crc : BitVec 16) : BitVec 16 := if crc.msb then (crc <<< 1) ^^^ 0x1021#16 else crc <<< 1

/-- One byte of the CRC, most significant bit first. -/
def crcByte (crc : BitVec 16) (b : Byte) : BitVec 16 :=
  let x := crc ^^^ (b.zeroExtend 16 <<< 8)
  crcBit (crcBit (crcBit (crcBit (crcBit (crcBit (crcBit (crcBit x)))))))

/-- The CRC of bytes, going on from a value (R164). -/
def crcFrom (crc : BitVec 16) : List Byte → BitVec 16
  | [] => crc
  | b :: rest => crcFrom (crcByte crc b) rest

/-- The CRC of a body (R164). -/
def crcOf (body : List Byte) : BitVec 16 := crcFrom 0xFFFF#16 body

/-! ### The receiver (R165) -/

/-- The check of a frame that closes with the collected bytes (R165): LENGTH first, then CRC; `none` is a good frame. -/
def frameFault (content : List Byte) : Option LinkError :=
  let n := content.length
  if n < 6 ∨ 66 < n ∨ (content.headD 0).toNat ≠ n - 2 then some .length
  else if crcOf content ≠ 0#16 then some .crc
  else none

/-- A frame opens; on the cell link it will be discarded when HOLDOFF is asserted (R171). -/
def Receiver.opening (held : Bool) : Receiver := { state := .inside, content := [], discarding := held }

/-- Collecting a byte, with the length limit of R165. -/
def Receiver.collect (rx : Receiver) (b : Byte) : Receiver × Option LinkError :=
  if 66 ≤ rx.content.length then (Receiver.reset, some .length)
  else ({ rx with state := .inside, content := rx.content ++ [b] }, none)

/-- What an interrupted frame records: FRAMING, or OVERRUN when it was being discarded under HOLDOFF (R171; log entry
21). -/
def Receiver.cutError (rx : Receiver) : LinkError := if rx.discarding then .overrun else .framing

/-- One byte received (R165): the receiver after it and the error recorded. A frame discarded under HOLDOFF collects and
checks nothing, and records OVERRUN at its close (R171). -/
def Receiver.byte (held : Bool) (rx : Receiver) (b : Byte) : Receiver × Option LinkError :=
  match rx.state with
  | .outside =>
    if b = 0xD1 then (Receiver.opening held, none)
    else if b = 0xD2 then (rx, some .framing)
    else (rx, none)
  | .inside =>
    if b = 0xD1 then (Receiver.opening held, some rx.cutError)
    else if b = 0xD2 then (Receiver.reset, if rx.discarding then some .overrun else frameFault rx.content)
    else if rx.discarding then (rx, none)
    else if b = 0xD3 then ({ rx with state := .escaped }, none)
    else rx.collect b
  | .escaped =>
    if b = 0xF1 ∨ b = 0xF2 ∨ b = 0xF3 then rx.collect (b ^^^ 0x20)
    else if b = 0xD1 then (Receiver.opening held, some .framing)
    else (Receiver.reset, some .framing)

/-- Bytes received one after another, each error handed to `record`. -/
def receive {σ : Type} (held : Bool) (record : LinkError → σ → σ) : Receiver → List Byte → σ → Receiver × σ
  | rx, [], s => (rx, s)
  | rx, b :: rest, s =>
    match rx.byte held b with
    | (rx, none) => receive held record rx rest s
    | (rx, some e) => receive held record rx rest (record e s)

/-! ### Frames (R163) -/

/-- A byte as it stands on the line inside a frame (R163). -/
def escapeByte (b : Byte) : List Byte := if b = 0xD1 ∨ b = 0xD2 ∨ b = 0xD3 then [0xD3, b ^^^ 0x20] else [b]

/-- A body as a frame on the line (R163): start delimiter, escaped body and CRC, end delimiter. -/
def frameOf (body : List Byte) : List Byte :=
  let crc := crcOf body
  let inner := body ++ [(crc >>> 8).truncate 8, crc.truncate 8]
  [0xD1] ++ inner.flatMap escapeByte ++ [0xD2]

/-- A byte on the line (R163): one start bit, eight data bits least significant first, one stop bit. -/
def byteBits (b : Byte) : List LineBit := .start :: ((List.range 8).map fun i => .data (b.getLsbD i)) ++ [.stop]

/-- Bytes on the line, one after another (R163). -/
def lineBits (bytes : List Byte) : List LineBit := bytes.flatMap byteBits

/-! ### Layouts (section 9.6, R177) -/

/-- A number in one byte. -/
def byte1 (n : Nat) : List Byte := [BitVec.ofNat 8 n]

/-- A number in two bytes, most significant first. -/
def byte2 (n : Nat) : List Byte := [BitVec.ofNat 8 (n / 256), BitVec.ofNat 8 n]

/-- A number in four bytes, most significant first. -/
def byte4 (n : Nat) : List Byte := byte2 (n / 65536) ++ byte2 (n % 65536)

/-- A body with its header: length, kind, tag, and byte 3. -/
def bodyOf (kind tag : Nat) (third : Byte) (fields : List Byte) : List Byte :=
  byte1 (fields.length + 4) ++ byte1 kind ++ byte1 tag ++ [third] ++ fields

/-- The target bytes of an ORDER DONE (section 9.6). -/
def Target.number : Target → Nat
  | .hole n => n
  | .zone z => z.val + 1
  | .lane i => i.val + 1
  | .home => 0

/-- The fields of an ISSUE (section 9.6). -/
def IssueBody.bytes : IssueBody → List Byte
  | .drill kind hole centre offset plies grip diameter cls feed =>
    byte1 kind.code ++ byte2 hole ++ byte1 centre ++ byte2 offset ++ byte1 plies ++ byte1 grip ++ byte1 diameter
      ++ byte1 cls ++ byte1 feed
  | .set hole centre offset plies grip cls force lane serial =>
    byte1 0x12 ++ byte2 hole ++ byte1 centre ++ byte2 offset ++ byte1 plies ++ byte1 grip ++ byte1 cls ++ byte1 force
      ++ byte1 (lane.val + 1) ++ byte2 serial
  | .heat lane cls => byte1 0x13 ++ byte1 (lane.val + 1) ++ byte1 cls
  | .clamp kind zone channel => byte1 kind.code ++ byte1 (zone.val + 1) ++ byte1 channel

/-- The body of a message to the head in a slot. The slot number that a WELCOME carries
(R118) is byte 3 of its header; the kind accepted and the fields of its kind follow, whose bytes are the free value of log
entry 16. -/
def HeadMsg.bytes (s : SlotId) (m : HeadMsg) : List Byte :=
  let third := BitVec.ofNat 8 (s.val + 1)
  match m with
  | .issue tag b => bodyOf 0xA0 tag third b.bytes
  | .travel tag centre => bodyOf 0xA1 tag third (byte1 centre)
  | .abort tag => bodyOf 0xA2 tag third []
  | .discard serial => bodyOf 0xA3 0 third (byte2 serial)
  | .lamp a => bodyOf 0xA4 0 third (byte1 a.code)
  | .welcome kind b => bodyOf 0xA8 0 third (dataBytes 118 1 (.headKind kind :: b.data))
  | .rejoin r => bodyOf 0xA9 0 third (byte1 r.code)
  | .toolSync id limit count => bodyOf 0xAA 0 third (byte4 id ++ byte2 limit ++ byte2 count)

/-- The fields of an ORDER DONE (section 9.6). -/
def OrderDone.bytes (d : OrderDone) : List Byte :=
  let base := byte1 d.kind.code ++ byte1 (d.slot.val + 1) ++ byte2 d.target.number ++ byte1 d.outcome.code
    ++ byte1 ((d.cause.map DoneCause.code).getD 0) ++ byte1 d.cancel.toNat
  let held := match d.holeInfo with
    | some (st, cls) => byte1 st.code ++ byte1 cls
    | none => []
  if d.outcome ≠ .completed then base ++ held
  else
    match d.kind with
    | .drill | .ream =>
      base ++ held ++ byte1 ((d.gauge.map Gauge.code).getD 0) ++ byte2 (d.measure.getD 0)
    | .set =>
      base ++ held ++ byte1 ((d.force.map Force.code).getD 0) ++ byte2 (d.measure.getD 0) ++ byte2 (d.serial.getD 0)
    | .heat => base ++ byte2 (d.serial.getD 0)
    | _ => base

/-- The wait reason byte of a TAKEN (R177). -/
def TakenState.reasonByte : TakenState → Nat
  | .waiting (some r) => r.code
  | _ => 0

/-- The fields of an ANSWER from byte 4 on (R177): the result, then the data in the order its owning rule lists it. -/
def Answer.bytes (a : Answer) : List Byte := byte1 a.result ++ dataBytes a.rule 1 a.data

/-- The body of a message to the cell, its flags in byte 3 (section 9.6, R177). -/
def CellMsg.bytes (m : CellMsg) : List Byte :=
  let third := m.flags.byte
  match m.body with
  | .taken tag st => bodyOf 0x80 tag third (byte1 st.code ++ byte1 st.reasonByte)
  | .refused tag r => bodyOf 0x81 tag third (byte1 r.code)
  | .orderDone d => bodyOf 0x82 d.tag third d.bytes
  | .answer seq a => bodyOf 0x83 seq third a.bytes

/-! ### What the links send (R163, R182, R183, R194) -/

/-- The idle byte, sent on a link whenever no frame is (R163). -/
def idleByte : Byte := 0xD0

/-- What the cell link sends now: the frame of the message in transmission, or the idle byte (R163, R182); nothing while the
reset pin is held (R183). -/
def State.cellLine (s : State) : List Byte :=
  if s.setup.resetHeld then []
  else
    match s.live.cell.sending with
    | some m => frameOf m.bytes
    | none => [idleByte]

/-- What the head link of a slot sends now: the frame of the message in transmission, or the idle byte (R163, R182);
nothing while the reset pin is held (R183) and for 300 ms after a RESTART (R194). -/
def State.headLine (slot : SlotId) (s : State) : List Byte :=
  if s.setup.resetHeld ∨ s.setup.headHold.isSome then []
  else
    match s.live.heads[slot].sending with
    | some m => frameOf (m.bytes slot)
    | none => [idleByte]

/-- What the cell link sends now, bit by bit (R163). -/
def State.cellLineBits (s : State) : List LineBit := lineBits s.cellLine

/-- What the head link of a slot sends now, bit by bit (R163). -/
def State.headLineBits (slot : SlotId) (s : State) : List LineBit := lineBits (s.headLine slot)

end Sys2Proof.Machine
end

