-- ==== Sys2Proof/Machine/StorePreload.lean ====
section
/-!
DEFINITION. Store and Preload (chapter 10): store access, the preload, UNLOCK, RELOAD, RESTART, and the resets.
-/

namespace Sys2Proof.Machine

/-! ### The store (R184, R185) -/

/-- STORE READ (R184). -/
def execStoreRead (h : Header) (addr count : Nat) (s : State) : Result :=
  manage h 7 false
    (fun s =>
      if s.setup.store.busy then s.refuse h .busy
      else if !within 1 48 count then s.refuse h .badValue
      else if Config.storeSize < addr + count then s.refuse h .badAddress
      else s.answer h (.storeBytes addr count (s.setup.store.bytes addr count))) s

/-- The first refusal of a STORE WRITE of `n` bytes (R185). -/
def storeWriteReason (m : Store) (addr n : Nat) : Option Reason :=
  if m.busy then some .busy
  else if Config.storeSize ≤ addr ∨ addr / 16 ≠ (addr + n - 1) / 16 then some .badAddress
  else if addr < 256 then some .protected_
  else none

/-- STORE WRITE (R185): a taken write begins at once; its ANSWER comes at its end. -/
def execStoreWrite (h : Header) (addr : Nat) (data : List Byte) (s : State) : Result :=
  cellMessage .management h false (h.selector == 0) (within 7 22 h.length && data.length == h.length - 6) false
    (fun s =>
      match storeWriteReason s.setup.store addr data.length with
      | some r => s.refuse h r
      | none =>
        let m := { s.setup.store with
          writing := some { addr, data, left := storeWriteTime, answer := some h.tag } }
        { s with setup := { s.setup with store := m } }) s

/-- The end of the store write in progress (R185): its ANSWER is placed unless a reset has lost it or the reset pin is
held. -/
def State.endStoreWrite (w : StoreWrite) (s : State) : State :=
  let s := s.elapse w.left
  let s := { s with setup := { s.setup with store := s.setup.store.finishWrite } }
  match w.answer with
  | some seq => if s.setup.resetHeld then s else s.place (.answer seq (.storeWritten w.addr w.data.length))
  | none => s

/-- STORE_WRITE_END (R185): the store goes on under a held reset pin (R183). Nothing without a write in progress. -/
def execStoreWriteEnd (s : State) : Result :=
  match s.setup.store.writing with
  | none => .next s
  | some w => .next (s.endStoreWrite w)

/-! ### The preload (R187 to R189) -/

/-- A preload begins (R187): the lockout set, the state RUNNING, a load set of defaults opened. -/
def Setup.beginPreload (c : Setup) : Setup :=
  { c with lockout := true, preload := .running, engine := some Engine.start }

/-- The zones whose entries two tables give differently. -/
def changedZones (old new : Tables) : List ZoneId := allZones.filter fun z => decide (old.zones[z] ≠ new.zones[z])

/-- The preload ends (R189): state, tables whole, lockout; a zone whose entry changed is UNKNOWN (R112), lanes and cadence
timers are taken anew (R98). A rivet that joined while the preload ran leaves a lane that the tables map to an EMPTY, FAULTED
or JOINING slot (R95), and stays in any other, free to a SET (DESIGN CHOICE, log entry 28). -/
def State.endPreload (st : PreloadState) (tables : Tables) (lockout : Bool) (s : State) : State :=
  let zones := changedZones s.setup.tables tables
  let c := { s.setup with preload := st, engine := none, tables, lockout }
  let l := zones.foldl (fun l z => l.forgetZone z) s.live
  let t := Taking.start ((l.weedStock c 0).weedStock c 1)
  { s with setup := c, live := (if zones.isEmpty then t else t.wakeGate).finish c }

/-- The preload fails (R189). -/
def State.failPreload (position : Nat) (r : Reason) (s : State) : State :=
  let s := ({ s with setup := s.setup.emptyPatterns } : State).endPreload .failed Tables.defaults true
  { s with live := s.live.post 0 .preloadFailed (.record position r) }

/-- Two bytes of the store as a number, most significant first (R186). -/
def Store.half (m : Store) (a : Nat) : Nat := (m.byte a).toNat * 256 + (m.byte (a + 1)).toNat

/-- The header read (R187): no signature ends the preload by the strap; a length above 7,930 fails it; else the records
follow. -/
def State.readHeader (e : Engine) (s : State) : State :=
  let m := s.setup.store
  if m.byte 256 ≠ 0x5A ∨ m.byte 257 ≠ 0xC3 then s.endPreload .noImage e.loadSet s.setup.strap
  else if 7930 < m.half 258 then s.failPreload 0 .badImage
  else
    { s with setup := { s.setup with
        engine := some { e with phase := .records 262 (m.half 258) 1 0xFFFF#16 (BitVec.ofNat 16 (m.half 260)) } } }

/-- PRELOAD_HEADER_READ (R187): once the write a reset found in progress has ended (R185). -/
def execPreloadHeaderRead (s : State) : Result :=
  event (fun s =>
    match s.setup.engine with
    | none => s
    | some e =>
      match e.phase with
      | .records _ _ _ _ _ => s
      | .header => if s.setup.store.writing.isSome then s else s.readHeader e) s

/-- Byte `i` of a record. -/
def byteAt (b : List Byte) (i : Nat) : Nat := (b.getD i 0).toNat

/-- Bytes `i` and `i + 1` of a record, most significant first. -/
def halfAt (b : List Byte) (i : Nat) : Nat := byteAt b i * 256 + byteAt b (i + 1)

/-- One stored row, `b` beginning at its byte 0 (section 9.6). -/
def rawRowOf (b : List Byte) : RawRow :=
  { hole := halfAt b 0, zone := byteAt b 2 % 32, rail := if byteAt b 2 / 128 = 0 then .a else .b, centre := byteAt b 3
    offset := halfAt b 4, plies := byteAt b 6, grip := byteAt b 7, diameter := byteAt b 8, force := byteAt b 9
    predCount := byteAt b 2 / 32 % 4, pred1 := halfAt b 10, pred2 := halfAt b 12 }

/-- `k` stored rows. -/
def rawRowsOf (b : List Byte) : Nat → List RawRow
  | 0 => []
  | k + 1 => rawRowOf b :: rawRowsOf (b.drop 14) k

/-- A TABLE WRITE record on the load set (R188): the value checks of its owner alone. -/
def loadTable (t : Tables) (selector : Nat) (b : List Byte) : Except Reason Tables :=
  match selector with
  | 1 =>
    match writeTiming t.timing (byteAt b 4) (halfAt b 5 * 65536 + halfAt b 7) with
    | .error r => .error r
    | .ok (_, v) => .ok { t with timing := v }
  | 2 =>
    match slotEntryOf (byteAt b 4) (byteAt b 5) (byteAt b 6) with
    | none => .error .badValue
    | some (s, e) => .ok { t with slots := t.slots.set s e }
  | 3 =>
    match zoneEntryOf (byteAt b 4) (byteAt b 5) (byteAt b 6) with
    | none => .error .badValue
    | some (z, e) => if zoneTaken t.zones z e then .error .badValue else .ok { t with zones := t.zones.set z e }
  | 4 =>
    match laneEntryOf (byteAt b 4) (byteAt b 5) (byteAt b 6) (byteAt b 7) (byteAt b 8) with
    | none => .error .badValue
    | some (i, e) => if laneTaken t.lanes i e then .error .badValue else .ok { t with lanes := t.lanes.set i e }
  | _ => if budgetOk (byteAt b 4) then .ok { t with budget := byteAt b 4 } else .error .badValue

/-- The selector and length of a record fit its kind (R188, section 9.5). -/
def recordFits (b : List Byte) : Bool :=
  match byteAt b 1, byteAt b 3 with
  | 0x20, 0 => b.length == 7
  | 0x21, 0 => b.length == 6 + 14 * byteAt b 5
  | 0x28, 1 => b.length == 9
  | 0x28, 2 => b.length == 7
  | 0x28, 3 => b.length == 7
  | 0x28, 4 => b.length == 9
  | 0x28, 5 => b.length == 5
  | 0x6A, 0 => b.length == 4
  | _, _ => false

/-- A record taken (R188): the setup and the engine after it, or the reason it is refused. -/
def loadRecord (c : Setup) (e : Engine) (b : List Byte) : Except Reason (Setup × Engine) :=
  if !([0x20, 0x21, 0x28, 0x6A] : List Nat).contains (byteAt b 1) then .error .unknownKind
  else if !recordFits b then .error .badValue
  else
    match byteAt b 1 with
    | 0x20 =>
      match c.openPattern (byteAt b 4) (halfAt b 5) with
      | .error r => .error r
      | .ok c => .ok (c, e)
    | 0x21 =>
      match c.writeRows (byteAt b 4) (byteAt b 5) (rawRowsOf (b.drop 6) (byteAt b 5)) with
      | .error (.reason r) => .error r
      | .error (.badRow _ _) => .error .badRow
      | .ok (c, _) => .ok (c, e)
    | 0x28 =>
      match loadTable e.loadSet (byteAt b 3) b with
      | .error r => .error r
      | .ok t => .ok (c, { e with loadSet := t })
    | _ => .ok (c, { e with unlock := true })

/-- The next record read and applied (R188). -/
def State.readRecord (e : Engine) (addr left position : Nat) (crc want : BitVec 16) (s : State) : State :=
  let n := (s.setup.store.byte addr).toNat
  if n < 4 ∨ 64 < n ∨ left < n then s.failPreload 0 .badImage
  else
    let b := s.setup.store.bytes addr n
    match loadRecord s.setup e b with
    | .error r => s.failPreload position r
    | .ok (c, e) =>
      let phase := PreloadPhase.records (addr + n) (left - n) (position + 1) (crcFrom crc b) want
      { s with setup := { c with engine := some { e with phase } } }

/-- PRELOAD_RECORD (R188): nothing while the header is unread or no record is left. -/
def execPreloadRecord (s : State) : Result :=
  event (fun s =>
    match s.setup.engine with
    | none => s
    | some e =>
      match e.phase with
      | .header => s
      | .records addr left position crc want => if left = 0 then s else s.readRecord e addr left position crc want) s

/-- PRELOAD_END (R188, R189): after the last record the CRC decides. -/
def execPreloadEnd (s : State) : Result :=
  event (fun s =>
    match s.setup.engine with
    | none => s
    | some e =>
      match e.phase with
      | .header => s
      | .records _ left _ crc want =>
        if left ≠ 0 then s
        else if crc ≠ want then s.failPreload 0 .badImage
        else s.endPreload .done e.loadSet (!e.unlock)) s

/-! ### UNLOCK, RELOAD, RESTART (R191, R192, R194) -/

/-- UNLOCK (R191). -/
def execUnlock (h : Header) (s : State) : Result :=
  manage h 4 false
    (fun s => ({ s with setup := { s.setup with lockout := false } } : State).answer h (.unlocked false)) s

/-- RELOAD (R192): the stocks emptied by R98, the preload begun, the ANSWER. -/
def execReload (h : Header) (s : State) : Result :=
  manage h 4 false
    (fun s =>
      if s.setup.mode ≠ .standby then s.refuse h .wrongMode
      else if !s.live.pool.isEmpty then s.refuse h .inUse
      else if s.setup.store.busy then s.refuse h .busy
      else
        let l := (s.live.emptyStock s.setup 0).emptyStock s.setup 1
        ({ s with setup := s.setup.emptyPatterns.beginPreload, live := l } : State).answer h .ok) s

/-- The ANSWER to RESTART is placed at the first moment the list is empty (R194). -/
def State.placeRestartAnswer (s : State) : State :=
  match s.setup.restart with
  | .taken seq =>
    if s.live.cell.list.isEmpty then
      ({ s with setup := { s.setup with restart := .answered } } : State).place (.answer seq .restarting)
    else s
  | _ => s

/-- RESTART (R194). -/
def execRestart (h : Header) (s : State) : Result :=
  manage h 4 false
    (fun s =>
      if s.setup.store.busy then s.refuse h .busy
      else ({ s with setup := { s.setup with restart := .taken h.tag } } : State).placeRestartAnswer) s

/-! ### Resets (R193, R183) -/

/-- POWER_UP (R193): a reset with cause POWER. -/
def execPowerUp (s : State) : Result := .next (s.takeReset .power)

/-- RESET_PIN_HELD (R183): from now until the pin returns high nothing is taken. -/
def execResetPinHeld (s : State) : Result := .next { s with setup := { s.setup with resetHeld := true } }

/-- RESET_PIN_RELEASE (R183, R193): a reset with cause PIN when the pin had been held. -/
def execResetPinRelease (s : State) : Result := if s.setup.resetHeld then .next (s.takeReset .pin) else .next s

/-- HEAD_LINK_HOLD_END (R194): the queued head messages may be sent. -/
def execHeadLinkHoldEnd (s : State) : Result :=
  event (fun s =>
    match s.setup.headHold with
    | none => s
    | some n =>
      let s := s.elapse n
      let c := { s.setup with headHold := none }
      { s with setup := c, live := allSlots.foldl (fun l i => l.beginHead c i) s.live }) s

end Sys2Proof.Machine
end

