-- ==== Sys2Proof/Machine/Links.lean ====
section
/-!
DEFINITION. The events of the links themselves: frames that are not taken (R165, R168, R171, R174, R194), sent events
(R170, R176), link up and down (R173, R115, R127), the start delimiter (R171) and line activity (R173).
-/

namespace Sys2Proof.Machine

/-- UNKNOWN_KIND (R168 step 1). -/
def execUnknownKind (h : Header) (_kind : Nat) (s : State) : Result :=
  cellMessage .management h false true true false
    (fun s => ({ s with live := s.live.cellError .protocol } : State).refuse h .unknownKind) s

/-- The cell link's receiver takes bytes (R165); after RESTART was taken nothing is recorded (R194). -/
def State.cellBytes (bytes : List Byte) (s : State) : State :=
  if s.setup.restart ≠ .idle then { s with live := s.live.closeFrame }
  else
    let r := receive s.live.cell.holdoff Live.cellError s.live.cell.rx bytes s.live
    { s with live := { r.2 with cell := { r.2.cell with rx := r.1 } } }

/-- A head link's receiver takes bytes (R165), each of them line activity (R173). -/
def State.headBytes (slot : SlotId) (bytes : List Byte) (s : State) : State :=
  let l := s.live.lineByte s.setup slot
  let r := receive false (fun e l => l.headError slot e) l.heads[slot].rx bytes l
  { s with live := r.2.updHead slot fun k => { k with rx := r.1 } }

/-- DAMAGED_FRAME (R165): the receiver takes the bytes of the frame; nothing is taken from it. -/
def execDamagedFrame (link : LinkId) (bytes : List Byte) (s : State) : Result :=
  event (fun s =>
    if bytes.isEmpty then s
    else
      match link with
      | .cell => s.cellBytes bytes
      | .head slot => s.headBytes slot bytes) s

/-- HOLDOFF_DISCARD (R171): OVERRUN at the close of a frame that began under HOLDOFF; no effect when no frame did. -/
def execHoldoffDiscard (s : State) : Result :=
  event (fun s =>
    if s.setup.restart ≠ .idle then { s with live := s.live.closeFrame }
    else if s.live.cell.underHoldoff then { s with live := s.live.closeFrame.cellError .overrun }
    else s) s

/-- RESTART_DISCARDED_FRAME (R194): no reply and no record; no effect when RESTART was not taken. -/
def execRestartDiscardedFrame (s : State) : Result :=
  event (fun s => if s.setup.restart ≠ .idle then { s with live := s.live.closeFrame } else s) s

/-- A message in transmission is the ANSWER to RESTART (R194). -/
def CellMsg.endsRestart (m : CellMsg) : Bool :=
  match m.body with
  | .answer _ .restarting => true
  | _ => false

/-- The transmitter of the cell link falls idle and the next message begins (R170). -/
def Live.cellSent (l : Live) : Live := { l with cell := ({ l.cell with sending := none } : CellLink).begin_ }

/-- CELL_SENT_EVENT (R170): the sent event of the ANSWER to RESTART takes the reset (R193); any other lets the next message
begin, and places that ANSWER when it empties the list (R194). Nothing on an idle transmitter. -/
def execCellSentEvent (s : State) : Result :=
  event (fun s =>
    match s.live.cell.sending with
    | none => s
    | some m =>
      if m.endsRestart then s.takeReset .restart
      else ({ s with live := s.live.cellSent } : State).placeRestartAnswer) s

/-- START_DELIMITER (R171): a frame opens; whether HOLDOFF is asserted now decides what becomes of it. After RESTART was
taken the frame is discarded (R194). -/
def execStartDelimiter (s : State) : Result := event (fun s => s.cellBytes [0xD1]) s

/-- LINK_UP (R115, R173): the first byte on a DOWN link. -/
def execLinkUp (slot : SlotId) (s : State) : Result :=
  event (fun s => { s with live := s.live.lineByte s.setup slot }) s

/-- LINE_ACTIVITY (R173): a byte on a head link. -/
def execLineActivity (slot : SlotId) (s : State) : Result :=
  event (fun s => { s with live := s.live.lineByte s.setup slot }) s

/-- LINK_DOWN (R127, R173): the silence left passes first (log entry 2); nothing on a link that is DOWN. -/
def execLinkDown (slot : SlotId) (s : State) : Result :=
  event (fun s =>
    match s.live.heads[slot].silence with
    | none => s
    | some n =>
      let s := s.elapse n
      { s with live := ((Taking.start s.live).linkLost s.setup slot).finish s.setup }) s

/-- HEAD_MESSAGE_SET_ASIDE (R174): PROTOCOL, whatever the cause. -/
def execHeadMessageSetAside (slot : SlotId) (hs : Nat) (_cause : SetAsideCause) (s : State) : Result :=
  event (fun s => { s with live := (s.live.headFrame slot hs).headError slot .protocol }) s

/-- HEAD_SENT_EVENT (R176): the next message is chosen; nothing on an idle transmitter. -/
def execHeadSentEvent (slot : SlotId) (s : State) : Result :=
  event (fun s =>
    match s.live.heads[slot].sending with
    | none => s
    | some _ =>
      { s with live := (s.live.updHead slot fun k => { k with sending := none }).beginHead s.setup slot }) s

end Sys2Proof.Machine
end

