-- ==== Sys2Proof/Machine/HeadReports.lean ====
section
/-!
DEFINITION. The reports of the heads (R40 to R43, R48, R49, R66 to R68, R88, R102, R116 to R118, R120, R122, R128).
-/

namespace Sys2Proof.Machine

/-- PROTOCOL recorded for a report that is ignored (R42). -/
def State.protocol (slot : SlotId) (s : State) : State := { s with live := s.live.headError slot .protocol }

/-- A report taken on the live side: its steps, then what they started. -/
def State.taking (f : Setup → Taking → Taking) (s : State) : State :=
  { s with live := (f s.setup (Taking.start s.live)).finish s.setup }

/-! ### HELLO -/

/-- A HELLO refused (R117). -/
def State.refuseHello (slot : SlotId) (r : JoinReason) (s : State) : State :=
  { s with live := (s.live.queueJoin s.setup slot (.rejoin (.refused r))).postSlot slot .joinRefused (.reason r) }

/-- A HELLO accepted (R118): the lane binding first, then the live side against the tables with it. -/
def State.acceptHello (slot : SlotId) (revision : Nat) (b : HelloBody) (d : Declared) (s : State) : State :=
  let s := s.withTables (s.setup.tables.bindLane slot d)
  s.taking fun c t => t.welcome c slot revision d (helloTool b)

/-- HELLO (R116, R117, R118). -/
def execHello (slot : SlotId) (hs revision : Nat) (b : HelloBody) (s : State) : Result :=
  headReport slot hs
    (fun s =>
      if s.live.slots[slot].state ≠ .joining then s.protocol slot
      else if s.setup.preload = .running then
        { s with live := s.live.queueJoin s.setup slot (.rejoin .preload) }
      else
        match helloReason s.setup s.live slot b, helloDeclared b with
        | some r, _ => s.refuseHello slot r
        | none, some d => s.acceptHello slot revision b d
        | none, none => s.refuseHello slot .badHello) s

/-! ### Tag 0: a lane's own heat (R88) -/

/-- The lane whose own heat is on a slot, and the heat (R42, R88). -/
def Live.ownHeat (l : Live) (slot : SlotId) : Option (LaneId × Heat) :=
  ([0, 1] : List LaneId).findSome? fun i =>
    match l.lanes[i].heatOn slot with
    | some h => if h.origin = .lane then some (i, h) else none
    | none => none

/-- ACCEPT of a lane's own heat (R88). -/
def Live.acceptHeat (c : Setup) (slot : SlotId) (i : LaneId) (h : Heat) (serial : Option Nat) (l : Live) : Live :=
  if h.step = some .issued then
    (l.editHeat slot i fun g => { g with step := some .running, serial }).startStage slot .run (c.acted Timing.heatLimit)
  else l

/-! ### ACCEPT (R40) -/

/-- ACCEPT of an ISSUED order (R40, R84): RUNNING, the RUN stage; a SET's rivet leaves its stock CARRIED; a heat's serial
is recorded. -/
def Live.acceptOrder (c : Setup) (o : Order) (serial : Option Nat) (l : Live) : Live :=
  let l := l.dropRivetOf o
  let l := l.updOrder o.tag fun x =>
    { x with state := .running, rivet := x.rivet.map fun r => { r with whereabouts := .carried } }
  let l := match o.kind, o.target with
    | .heat, .lane i => l.editHeat o.slot i fun g => { g with serial }
    | _, _ => l
  l.startStage o.slot .run (c.acted o.kind.limit)

/-- ACCEPT (R40, R42, R88). A serial under heat for work that is no heat is a wrong length (R174). -/
def execAccept (slot : SlotId) (hs tag : Nat) (serial : Option Nat) (s : State) : Result :=
  headReport slot hs
    (fun s =>
      if tag = 0 then
        match s.live.ownHeat slot with
        | none => s.protocol slot
        | some (i, h) => { s with live := s.live.acceptHeat s.setup slot i h serial }
      else
        match s.live.orderOf? slot tag with
        | none => s.protocol slot
        | some o =>
          if serial.isSome ∧ o.kind ≠ .heat then s.protocol slot
          else
            match o.state with
            | .waiting | .travelling => s.protocol slot
            | .running | .aborting => s
            | .issued => { s with live := s.live.acceptOrder s.setup o serial }) s

/-! ### DONE (R41) -/

/-- The results a DONE carries for an order kind: code, value and heat serial; absent when its length does not match
(R174). -/
def doneResult (k : OrderKind) (b : DoneBody) : Option (Nat × Nat × Option Nat) :=
  match k, b with
  | .drill, .result code value | .ream, .result code value | .set, .result code value => some (code, value, none)
  | .heat, .serial n => some (0, 0, some n)
  | .clamp, .bare | .unclamp, .bare => some (0, 0, none)
  | _, _ => none

/-- DONE (R41, R42, R50, R88). -/
def execDone (slot : SlotId) (hs tag : Nat) (b : DoneBody) (s : State) : Result :=
  headReport slot hs
    (fun s =>
      if tag = 0 then
        match s.live.ownHeat slot, b with
        | some (i, _), .serial n => s.taking fun c t => (t.joinRivet c slot i n).workEnds slot
        | _, _ => s.protocol slot
      else
        match s.live.orderOf? slot tag with
        | none => s.protocol slot
        | some o =>
          match doneResult o.kind b with
          | none => s.protocol slot
          | some (code, value, heat) =>
            if o.operating then s.taking fun c t => t.complete c o code value heat else s.protocol slot) s

/-! ### ABORTED (R48, R49, R89) -/

/-- ABORTED with tag 0 (R88, R89): either progress ends an ABORTING heat. -/
def State.abortedHeat (slot : SlotId) (s : State) : State :=
  match s.live.ownHeat slot with
  | some (i, h) =>
    if h.step = some .aborting then s.taking fun _ t => (t.on (Live.closeHeat slot i)).workEnds slot else s.protocol slot
  | none => s.protocol slot

/-- In ABORTING with aborted step OPERATION (R48). -/
def Order.abortingOperation (o : Order) : Bool := o.state == .aborting && o.step == some .operation

/-- ABORTED with progress NONE (R48). -/
def execAbortedNone (slot : SlotId) (hs tag : Nat) (s : State) : Result :=
  headReport slot hs
    (fun s =>
      if tag = 0 then s.abortedHeat slot
      else
        match s.live.orderOf? slot tag with
        | none => s.protocol slot
        | some o =>
          if o.abortingOperation then
            s.taking fun c t => ((t.undoOperation c o).workEnds slot).settleOrder c o
          else s.protocol slot) s

/-- ABORTED with progress PARTIAL (R49). -/
def execAbortedPartial (slot : SlotId) (hs tag : Nat) (s : State) : Result :=
  headReport slot hs
    (fun s =>
      if tag = 0 then s.abortedHeat slot
      else
        match s.live.orderOf? slot tag with
        | none => s.protocol slot
        | some o =>
          if o.abortingOperation then s.taking fun c t => t.endPartial c o else s.protocol slot) s

/-! ### ARRIVED (R66 to R68) -/

/-- The order whose ARRIVED is expected (R66). -/
def Live.expectedTravel (l : Live) (slot : SlotId) (tag : Nat) : Option (Travel × Order) :=
  match l.travels[slot], l.orderOf? slot tag with
  | some v, some o =>
    if v.tag = tag ∧ (o.state = .travelling ∨ (o.state = .aborting ∧ o.step = some .travel))
        ∧ o.travelMark = some .sent then some (v, o)
    else none
  | _, _ => none

/-- An arrival at `centre` is good (R67, R68). -/
def goodArrival (v : Travel) (o : Order) (centre : Nat) : Bool :=
  if o.state = .travelling then centre == v.target else decide (centre ≤ 15) && (span centre).inside v.sweep

/-- A good arrival (R67, R68): the holding narrowed, the travel closed, the slot out of BUSY, and the order requeued, ended
or withdrawn. -/
def Taking.arrive (c : Setup) (slot : SlotId) (v : Travel) (o : Order) (centre : Nat) (t : Taking) : Taking :=
  let t := ((t.narrow slot (span centre)).workEnds slot).wakeGate
  if o.state ≠ .travelling ∧ o.cancel then t.leave c o .cancelled none none
  else if t.live.slots[slot].state = .leaving then
    if o.kind = .park ∧ centre = v.target then t.leave c o .completed none none else t.withdraw c o .slotLeaving
  else t.on (Live.updOrder o.tag Order.requeued)

/-- ARRIVED (R66 to R68). An unexpected one is ignored with PROTOCOL. -/
def execArrived (slot : SlotId) (hs tag centre : Nat) (s : State) : Result :=
  headReport slot hs
    (fun s =>
      match s.live.expectedTravel slot tag with
      | none => s.protocol slot
      | some (v, o) =>
        if goodArrival v o centre then s.taking fun c t => t.arrive c slot v o centre
        else s.taking fun c t => t.fault c slot .positionLost none) s

/-! ### FAULT, LEVER and CLAMP STATE -/

/-- FAULT (R128). Every SLOT_FAULT posted here has the detail CAUSE with HEAD_FAULT and the code that this report carries. For
a FAULT taken in FAULTED, R128 says only that SLOT_FAULT is posted once more: the detail shows when the slot's FAULT entry is
empty, its notice already taken (R154), and neither rule says whether it is the report's or the cause of the fault record that
stands. That it is the report's is the model's choice (DESIGN CHOICE, log entry 41). -/
def execFault (slot : SlotId) (hs code : Nat) (s : State) : Result :=
  headReport slot hs
    (fun s =>
      let s := if code = 0 then s.protocol slot else s
      let detail := faultDetail .headFault (some code)
      if s.live.slots[slot].state.joined then s.taking fun c t => t.fault c slot .headFault (some code)
      else if s.live.slots[slot].state = .joining then
        let l := s.live.updSlot slot fun x =>
          { x with fault := some { cause := .headFault, code := some code, tag := none } }
        { s with live := l.postSlot slot .slotFault detail }
      else { s with live := s.live.postSlot slot .slotFault detail }) s

/-- LEVER OPEN (R120, R121). -/
def execLeverOpen (slot : SlotId) (hs : Nat) (s : State) : Result :=
  headReport slot hs (fun s => s.taking fun c t => t.leverOpened c slot) s

/-- LEVER CLOSED (R120, R122). -/
def execLeverClosed (slot : SlotId) (hs : Nat) (s : State) : Result :=
  headReport slot hs (fun s => s.taking fun c t => t.leverShut c slot) s

/-- What a CLAMP STATE does once its frame is taken (R102, in the order of its cases). -/
def State.clampReport (slot : SlotId) (channel code : Nat) (s : State) : State :=
  let x := s.live.slots[slot]
  if !x.state.joined then s
  else
    match x.channels? with
    | none => s.protocol slot
    | some n =>
      match within 1 n channel, ZoneState.ofCode code with
      | true, some st =>
        match s.setup.zoneAt slot channel with
        | none => s
        | some z => s.taking fun c t => t.zoneReport c z slot st
      | _, _ => s.protocol slot

/-- CLAMP STATE (R102). One that step 1 ignores records no error but that of its head state byte (log entry 13). -/
def execClampState (slot : SlotId) (hs channel code : Nat) (s : State) : Result :=
  event (fun s => ({ s with live := s.live.headFrame slot hs } : State).clampReport slot channel code) s

end Sys2Proof.Machine
end

