-- ==== Sys2Proof/Machine/Expiries.lean ====
section
/-!
DEFINITION. Expiries: the stages of the operation timer (R129, R132, R133), rivet windows (R91, R92), cadence (R87) and
claim clocks (R62). In each the time left passes first, and a command whose timer does not run changes nothing (log entry
2).
-/

namespace Sys2Proof.Machine

/-- The stage of a slot expires: when `p` holds of the stage running, its time passes and `take` follows. -/
def stageExpiry (slot : SlotId) (p : TimedStage → Bool) (take : Setup → TimedStage → Taking → Taking) (s : State) : Result :=
  event (fun s =>
    match s.live.slots[slot].timer with
    | none => s
    | some t => if p t.stage then (s.elapse t.left).taking fun c x => take c t.stage x else s) s

/-- ACCEPT_STAGE_EXPIRY (R129): NO_ACCEPT. -/
def execAcceptStageExpiry (slot : SlotId) (s : State) : Result :=
  stageExpiry slot (fun g => g == .accept) (fun c _ t => t.fault c slot .noAccept none) s

/-- OP_SLOW is posted and GRACE starts (R133). -/
def Live.slowStage (c : Setup) (slot : SlotId) (next : TimedStage) (l : Live) : Live :=
  (l.postSlot slot .opSlow (.tag ((l.slots[slot].work.tag?).getD 0))).startStage slot next (c.acted Timing.grace)

/-- RUN_STAGE_EXPIRY (R133). -/
def execRunStageExpiry (slot : SlotId) (s : State) : Result :=
  stageExpiry slot (fun g => g == .run) (fun c _ t => t.on (Live.slowStage c slot .graceRun)) s

/-- TRAVEL_STAGE_EXPIRY (R133). -/
def execTravelStageExpiry (slot : SlotId) (s : State) : Result :=
  stageExpiry slot (fun g => g == .travel) (fun c _ t => t.on (Live.slowStage c slot .graceTravel)) s

/-- GRACE_STAGE_EXPIRY (R129): OP_TIMEOUT after RUN, POSITION_LOST after TRAVEL. -/
def execGraceStageExpiry (slot : SlotId) (s : State) : Result :=
  stageExpiry slot (fun g => g == .graceRun || g == .graceTravel)
    (fun c g t => t.fault c slot (if g = .graceRun then .opTimeout else .positionLost) none) s

/-- ABORT_STAGE_EXPIRY (R129): ABORT_LOST. -/
def execAbortStageExpiry (slot : SlotId) (s : State) : Result :=
  stageExpiry slot (fun g => g == .abort) (fun c _ t => t.fault c slot .abortLost none) s

/-- The stock of a lane without the rivet at a place. -/
def Live.removeRivet (i : LaneId) (place : Nat) (l : Live) : Live :=
  l.updLane i fun x => { x with stock := x.stock.eraseIdx place }

/-- RIVET_EXPIRY_UNASSIGNED (R91): the rivet at a place of the stock, oldest 0. It starts no examination. -/
def execRivetExpiryUnassigned (lane : LaneId) (place : Nat) (s : State) : Result :=
  event (fun s =>
    match s.live.lanes[lane].stock[place]? with
    | none => s
    | some r =>
      if r.tag.isSome then s
      else
        let s := s.elapse (r.left s.setup.now)
        { s with live := (s.live.removeRivet lane place).scrap s.setup lane r.serial }) s

/-- The gate's part of a cold rivet (R51). -/
def Taking.rivetCold (c : Setup) (tag : Nat) (t : Taking) : Taking :=
  let t := t.on (Live.updOrder tag Order.goesCold)
  match t.live.order? tag with
  | none => t
  | some o => if o.state = .issued then t.abort c o .rivetCold else t

/-- RIVET_EXPIRY_ASSIGNED (R92): the rivet at a place of the stock leaves it without DISCARD or notice. -/
def execRivetExpiryAssigned (lane : LaneId) (place : Nat) (s : State) : Result :=
  event (fun s =>
    match s.live.lanes[lane].stock[place]? with
    | none => s
    | some r =>
      match r.tag with
      | none => s
      | some tag =>
        (s.elapse (r.left s.setup.now)).taking fun c t => (t.on (Live.removeRivet lane place)).rivetCold c tag) s

/-- A cadence expiry (R86, R87): the timer starts again, and the lane acts by its state. A READY lane whose serving slot has
work in flight issues no heat (R87 names no such guard; DESIGN CHOICE, log entry 33). -/
def Live.cadenceExpired (c : Setup) (i : LaneId) (l : Live) : Live :=
  let l := l.updLane i fun x => { x with cadence := some (c.acted Timing.cadence) }
  match l.servingSlot c i, l.laneState c i with
  | some s, .heating =>
    let was := l.lanes[i].late
    let l := l.updLane i fun x => { x with late := true }
    if was then l else l.postSlot s .heatLate (.lane i)
  | some s, .ready =>
    if l.lanes[i].stock.length < c.tables.lanes[i].target ∧ l.slots[s].work = .idle then l.issueLaneHeat c i s else l
  | _, _ => l

/-- CADENCE_EXPIRY (R87). -/
def execCadenceExpiry (lane : LaneId) (s : State) : Result :=
  event (fun s =>
    match s.live.lanes[lane].cadence with
    | none => s
    | some n => (s.elapse n).taking fun c t => t.on (Live.cadenceExpired c lane)) s

/-- The request of a slot (R60: at most one). -/
def Live.requestOf (l : Live) (s : SlotId) : Option (Rail × Request) :=
  match l.requestsA.find? fun q => q.slot == s with
  | some q => some (.a, q)
  | none => (l.requestsB.find? fun q => q.slot == s).map fun q => (.b, q)

/-- A request turns URGENT (R62): CLAIM_STARVED is posted and its rail examined. -/
def Taking.starve (r : Rail) (q : Request) (t : Taking) : Taking :=
  (t.on fun l =>
    (l.setRequests r ((l.requests r).map fun x => if x.slot = q.slot then { x with urgent := true } else x)).postSlot
      q.slot .claimStarved (.tag q.tag)).wakeRail r

/-- CLAIM_STARVED (R62): only while the claim clocks count, for a request that is not yet URGENT. -/
def execClaimStarved (slot : SlotId) (s : State) : Result :=
  event (fun s =>
    match s.live.requestOf slot with
    | none => s
    | some (r, q) =>
      if q.urgent || !s.setup.progresses then s
      else (s.elapse (q.patience - q.waited)).taking fun _ t => t.starve r q) s

end Sys2Proof.Machine
end

