-- ==== Sys2Proof/Machine/Events.lean ====
section
/-!
DEFINITION. What the block does of itself when no command waits: the first event that is due, in the order of log entry 1.
-/

namespace Sys2Proof.Machine

/-- The first index of a list at which `f` gives something. -/
def firstOf {α β : Type} (l : List α) (f : α → Option β) : Option β := l.findSome? f

/-- The command of a stage's expiry. -/
def TimedStage.expiry (s : SlotId) : TimedStage → Instr
  | .accept => .acceptStageExpiry s
  | .run => .runStageExpiry s
  | .travel => .travelStageExpiry s
  | .graceRun | .graceTravel => .graceStageExpiry s
  | .abort => .abortStageExpiry s

/-- The next step of a running preload (R187, R188). -/
def Setup.preloadStep (c : Setup) : Option Instr :=
  match c.engine with
  | none => none
  | some e =>
    match e.phase with
    | .header => if c.store.writing.isSome then none else some .preloadHeaderRead
    | .records _ left _ _ _ => some (if left = 0 then .preloadEnd else .preloadRecord)

/-- The store write whose time has passed (R185). -/
def Setup.writeDue (c : Setup) : Option Instr :=
  if c.store.writing.any fun w => w.left == 0 then some .storeWriteEnd else none

/-- A timer that has run down. -/
def ranDown (t : Option Nat) (i : Instr) : Option Instr := if t = some 0 then some i else none

/-- The first rivet of a stock whose window has ended (R91, R92), from place `n` on. -/
def expiredRivet (now : Nat) (i : LaneId) (n : Nat) : List Rivet → Option Instr
  | [] => none
  | r :: rest =>
    if r.left now = 0 then
      some (if r.tag.isSome then .rivetExpiryAssigned i n else .rivetExpiryUnassigned i n)
    else expiredRivet now i (n + 1) rest

/-- The first event that is due (log entry 1): sent events, the preload, the store, and then what has run down. While the
reset pin is held only the store goes on (R183). -/
def State.dueEvent (s : State) : Option Instr :=
  let c := s.setup
  let l := s.live
  if c.resetHeld then c.writeDue
  else
    firstOf
      [ l.cell.sending.map fun _ => Instr.cellSentEvent,
        firstOf allSlots fun i => (l.heads[i].sending).map fun _ => Instr.headSentEvent i,
        c.preloadStep,
        c.writeDue,
        ranDown c.headHold .headLinkHoldEnd,
        ranDown c.guard.timer .discrepancyExpiry,
        firstOf allSlots fun i => (l.slots[i].timer).bind fun t => if t.left = 0 then some (t.stage.expiry i) else none,
        firstOf allSlots fun i => ranDown l.heads[i].silence (.linkDown i),
        firstOf [0, 1] fun i : LaneId => ranDown l.lanes[i].cadence (.cadenceExpiry i),
        firstOf [0, 1] fun i : LaneId => expiredRivet c.now i 0 l.lanes[i].stock,
        if c.progresses then
          firstOf (l.requestsA ++ l.requestsB) fun q =>
            if !q.urgent && decide (q.patience ≤ q.waited) then some (Instr.claimStarved q.slot) else none
        else none ] id

end Sys2Proof.Machine
end

