-- ==== Sys2Proof/Machine/Dispatch.lean ====
section
/-! DEFINITION. What each command does, one arm a command. -/

namespace Sys2Proof.Machine

/-- The meaning of a command, on everything but the queue. -/
def exec (i : Instr) (s : State) : Host.Outcome State Fault Refusal :=
  match i with
  | .drill h slot hole feed => Sys2Proof.Machine.execDrill h slot hole feed s
  | .ream h slot hole feed => Sys2Proof.Machine.execReam h slot hole feed s
  | .setRivet h slot hole => Sys2Proof.Machine.execSetRivet h slot hole s
  | .heat h slot lane => Sys2Proof.Machine.execHeat h slot lane s
  | .clamp h slot zone => Sys2Proof.Machine.execClamp h slot zone s
  | .unclamp h slot zone => Sys2Proof.Machine.execUnclamp h slot zone s
  | .park h slot => Sys2Proof.Machine.execPark h slot s
  | .cancel h => Sys2Proof.Machine.execCancel h s
  | .patternOpen h p n => Sys2Proof.Machine.execPatternOpen h p n s
  | .patternRows h p k rows => Sys2Proof.Machine.execPatternRows h p k rows s
  | .patternDelete h p => Sys2Proof.Machine.execPatternDelete h p s
  | .tableWriteTiming h entry value => Sys2Proof.Machine.execTableWriteTiming h entry value s
  | .tableWriteSlot h slot kind home => Sys2Proof.Machine.execTableWriteSlot h slot kind home s
  | .tableWriteZone h zone slot channel => Sys2Proof.Machine.execTableWriteZone h zone slot channel s
  | .tableWriteLane h lane slot cls mode target => Sys2Proof.Machine.execTableWriteLane h lane slot cls mode target s
  | .tableWritePump h value => Sys2Proof.Machine.execTableWritePump h value s
  | .frameBegin h p serial => Sys2Proof.Machine.execFrameBegin h p serial s
  | .frameEnd h => Sys2Proof.Machine.execFrameEnd h s
  | .frameAbandon h => Sys2Proof.Machine.execFrameAbandon h s
  | .modeRun h => Sys2Proof.Machine.execModeRun h s
  | .modeHold h => Sys2Proof.Machine.execModeHold h s
  | .modeResume h => Sys2Proof.Machine.execModeResume h s
  | .holeRework h hole => Sys2Proof.Machine.execHoleRework h hole s
  | .slotClear h slot => Sys2Proof.Machine.execSlotClear h slot s
  | .slotRelease h slot => Sys2Proof.Machine.execSlotRelease h slot s
  | .lampSet h slot setting => Sys2Proof.Machine.execLampSet h slot setting s
  | .queryStatus h => Sys2Proof.Machine.execQueryStatus h s
  | .queryHole h hole => Sys2Proof.Machine.execQueryHole h hole s
  | .queryOrder h form arg => Sys2Proof.Machine.execQueryOrder h form arg s
  | .querySlot h slot => Sys2Proof.Machine.execQuerySlot h slot s
  | .queryRail h rail part start => Sys2Proof.Machine.execQueryRail h rail part start s
  | .queryLane h lane => Sys2Proof.Machine.execQueryLane h lane s
  | .queryZone h zone => Sys2Proof.Machine.execQueryZone h zone s
  | .queryPump h => Sys2Proof.Machine.execQueryPump h s
  | .queryLink h => Sys2Proof.Machine.execQueryLink h s
  | .queryTable h table index => Sys2Proof.Machine.execQueryTable h table index s
  | .queryPattern h p hole => Sys2Proof.Machine.execQueryPattern h p hole s
  | .noticeTake h => Sys2Proof.Machine.execNoticeTake h s
  | .storeRead h addr count => Sys2Proof.Machine.execStoreRead h addr count s
  | .storeWrite h addr data => Sys2Proof.Machine.execStoreWrite h addr data s
  | .storeWriteEnd => Sys2Proof.Machine.execStoreWriteEnd s
  | .reload h => Sys2Proof.Machine.execReload h s
  | .restart h => Sys2Proof.Machine.execRestart h s
  | .unlock h => Sys2Proof.Machine.execUnlock h s
  | .unknownKind h kind => Sys2Proof.Machine.execUnknownKind h kind s
  | .damagedFrame link bytes => Sys2Proof.Machine.execDamagedFrame link bytes s
  | .holdoffDiscard => Sys2Proof.Machine.execHoldoffDiscard s
  | .restartDiscardedFrame => Sys2Proof.Machine.execRestartDiscardedFrame s
  | .cellSentEvent => Sys2Proof.Machine.execCellSentEvent s
  | .powerUp => Sys2Proof.Machine.execPowerUp s
  | .resetPinHeld => Sys2Proof.Machine.execResetPinHeld s
  | .resetPinRelease => Sys2Proof.Machine.execResetPinRelease s
  | .preloadHeaderRead => Sys2Proof.Machine.execPreloadHeaderRead s
  | .preloadRecord => Sys2Proof.Machine.execPreloadRecord s
  | .preloadEnd => Sys2Proof.Machine.execPreloadEnd s
  | .headLinkHoldEnd => Sys2Proof.Machine.execHeadLinkHoldEnd s
  | .linkUp slot => Sys2Proof.Machine.execLinkUp slot s
  | .linkDown slot => Sys2Proof.Machine.execLinkDown slot s
  | .hello slot hs revision body => Sys2Proof.Machine.execHello slot hs revision body s
  | .accept slot hs tag serial => Sys2Proof.Machine.execAccept slot hs tag serial s
  | .done slot hs tag body => Sys2Proof.Machine.execDone slot hs tag body s
  | .abortedNone slot hs tag => Sys2Proof.Machine.execAbortedNone slot hs tag s
  | .abortedPartial slot hs tag => Sys2Proof.Machine.execAbortedPartial slot hs tag s
  | .arrived slot hs tag centre => Sys2Proof.Machine.execArrived slot hs tag centre s
  | .fault slot hs code => Sys2Proof.Machine.execFault slot hs code s
  | .leverOpen slot hs => Sys2Proof.Machine.execLeverOpen slot hs s
  | .leverClosed slot hs => Sys2Proof.Machine.execLeverClosed slot hs s
  | .clampState slot hs channel state => Sys2Proof.Machine.execClampState slot hs channel state s
  | .headMessageSetAside slot hs cause => Sys2Proof.Machine.execHeadMessageSetAside slot hs cause s
  | .headSentEvent slot => Sys2Proof.Machine.execHeadSentEvent slot s
  | .acceptStageExpiry slot => Sys2Proof.Machine.execAcceptStageExpiry slot s
  | .runStageExpiry slot => Sys2Proof.Machine.execRunStageExpiry slot s
  | .travelStageExpiry slot => Sys2Proof.Machine.execTravelStageExpiry slot s
  | .graceStageExpiry slot => Sys2Proof.Machine.execGraceStageExpiry slot s
  | .abortStageExpiry slot => Sys2Proof.Machine.execAbortStageExpiry slot s
  | .rivetExpiryUnassigned lane place => Sys2Proof.Machine.execRivetExpiryUnassigned lane place s
  | .rivetExpiryAssigned lane place => Sys2Proof.Machine.execRivetExpiryAssigned lane place s
  | .cadenceExpiry lane => Sys2Proof.Machine.execCadenceExpiry lane s
  | .claimStarved slot => Sys2Proof.Machine.execClaimStarved slot s
  | .guardChannelChange channel level => Sys2Proof.Machine.execGuardChannelChange channel level s
  | .discrepancyExpiry => Sys2Proof.Machine.execDiscrepancyExpiry s
  | .startDelimiter => Sys2Proof.Machine.execStartDelimiter s
  | .lineActivity slot => Sys2Proof.Machine.execLineActivity slot s

end Sys2Proof.Machine
end

