-- ==== Sys2Proof/Safety.lean ====
section
/-!
DEFINITION. What it means for the machine to be safe: the laws that every step keeps, each over the whole state.
-/

namespace Sys2Proof.Safety

open Sys2Proof.Machine

/-- The contents of the store are in canonical form, and a write in progress lies within the store. -/
def StoreCanonical (s : State) : Prop :=
  Memory.wf s.setup.store.cells = true
    ∧ ∀ w, s.setup.store.writing = some w → w.addr + w.data.length ≤ Config.storeSize

/-- The rows that pattern `i` holds of the pool: its hole count while in use. -/
def rowsOf (p : Option Pattern) : Nat :=
  match p with
  | none => 0
  | some x => x.count

/-- The law of R1: the free row count is 2,048 less the sum of the hole counts of the patterns in use. -/
def RowsBalanced (s : State) : Prop :=
  s.setup.freeRows + (rowsOf s.setup.patterns[0] + rowsOf s.setup.patterns[1] + rowsOf s.setup.patterns[2]
    + rowsOf s.setup.patterns[3]) = Config.patternRows

/-- The law of R141: the guard is CLOSED whenever the mode is not STOP. -/
def GuardClosedUnlessStop (s : State) : Prop := s.setup.mode = .stop ∨ s.setup.guard.state = .closed

/-- The half of the law of R191 on the frame: while the lockout is set no frame is bound. A running preload keeps the
lockout set, which makes the law hold through its steps. -/
def LockedUnbound (s : State) : Prop :=
  (s.setup.lockout = true → s.setup.frame = none) ∧ (s.setup.engine.isSome = true → s.setup.lockout = true ∧ s.setup.preload = .running)
    ∧ (s.setup.mode = .standby → s.setup.frame = none)

/-- The laws of R28 on the pool: at most 32 orders, no two with one tag, no two at one hole. -/
def PoolLaw (s : State) : Prop :=
  s.live.pool.length ≤ Config.poolSize ∧ (s.live.pool.map Order.tag).Nodup ∧ (s.live.pool.filterMap Order.hole?).Nodup

/-! ### Words of the statements -/

/-- A cell message is weighed now: the reset pin is not held (R183), no RESTART was taken (R194), its frame did not begin
under HOLDOFF (R171), and no preload runs (R190). -/
def Weighed (s : State) : Prop :=
  s.setup.resetHeld = false ∧ s.setup.restart = .idle ∧ s.live.cell.underHoldoff = false ∧ s.setup.preload ≠ .running

/-- The header of a message whose kind admits selector 0 alone and a body of `n` bytes (R168). -/
def Plain (h : Header) (n : Nat) : Prop := h.selector = 0 ∧ h.length = n

/-- The header of a message with a selector of its own (R168). -/
def Selects (h : Header) (selector n : Nat) : Prop := h.selector = selector ∧ h.length = n

/-- The state once the frame of the message has closed. -/
def closed (s : State) : State := { s with live := s.live.closeFrame }

/-- The message taken, with nothing changed but a message placed for the cell. -/
def replied (s : State) (b : CellBody) : State := (closed s).place b

/-- The message taken, with nothing changed but its ANSWER placed. -/
def answered (s : State) (h : Header) (a : Answer) : State := replied s (.answer h.tag a)

/-- A message for the cell is on the outbound list or in transmission. -/
def Says (l : Live) (b : CellBody) : Prop := b ∈ l.cell.bodies

/-- A report of a head is taken now: the reset pin is not held, and the slot is not EMPTY (R174). -/
def Reports (s : State) (slot : SlotId) : Prop := s.setup.resetHeld = false ∧ s.live.slots[slot].state ≠ .empty

/-- The live state once the frame of a report has been taken (R173, R174). -/
def framed (s : State) (slot : SlotId) (hs : Nat) : Live := s.live.headFrame slot hs

/-- The report taken, and ignored with PROTOCOL recorded (R42). -/
def setAside (s : State) (slot : SlotId) (hs : Nat) : State :=
  { s with live := (framed s slot hs).headError slot .protocol }

/-- What a taking left, once its examinations have been taken: the examination the events of R35 start, and the rails'. -/
def settled (s : State) (u : Taking) : State := { s with live := u.finish s.setup }

/-- The reason of the first case that applies. -/
def firstReason : List (Bool × Reason) → Option Reason
  | [] => none
  | (c, r) :: rest => if c then some r else firstReason rest

/-- The slot of an order message (R25): of a zone kind, the mapped module's. -/
def slotNamed (c : Setup) (m : OrderMsg) : Option SlotId :=
  if m.kind = .clamp ∨ m.kind = .unclamp then (zoneOf m.zone).bind fun z => (c.tables.zones[z]).map ZoneMap.slot
  else slotOf m.slot

/-- A fact of the slot an order message names. -/
def atSlot (c : Setup) (m : OrderMsg) (p : SlotId → Bool) : Bool := (slotNamed c m).any p

/-- The kind is DRILL, REAM or SET. -/
def needsHole (k : OrderKind) : Bool := k == .drill || k == .ream || k == .set

/-- The table of R27, case by case in its order. -/
def refusals (c : Setup) (l : Live) (m : OrderMsg) : List (Bool × Reason) :=
  [ (c.lockout || c.preload == .running, .locked),
    (c.mode == .stop, .stopped),
    (needsHole m.kind && c.frame.isNone, .noFrame),
    (m.tag == 0 || l.pool.any (fun o => o.tag == m.tag), .tagInUse),
    (decide (32 ≤ l.pool.length), .poolFull),
    ((slotNamed c m).isNone, if m.kind = .clamp ∨ m.kind = .unclamp then .badZone else .badSlot),
    (atSlot c m fun s => l.slots[s].state == .empty || l.slots[s].state == .joining, .slotAbsent),
    (atSlot c m fun s => l.slots[s].state == .faulted, .slotFaulted),
    (atSlot c m fun s => l.slots[s].state == .leaving || l.slots[s].state == .released, .slotLeaving),
    (atSlot c m fun s => !m.kind.servedBy l.slots[s].kind?, .wrongKind),
    ((m.kind == .drill || m.kind == .ream) && !(decide (1 ≤ m.feed) && decide (m.feed ≤ 4)), .badValue),
    (needsHole m.kind && ((c.row? m.hole).isNone || (l.hole? m.hole).isNone), .badHole),
    (m.kind == .heat && atSlot c m (fun s => (laneFits c l s m.lane).isNone), .badLane),
    (needsHole m.kind && atSlot c m (fun s => l.slots[s].rail? != (c.row? m.hole).map PatternRow.rail), .wrongRail),
    (needsHole m.kind && !(l.hole? m.hole).any (fun x => m.kind.admittedBy x.state), .holeState),
    (needsHole m.kind && l.pool.any (fun o => o.target == .hole m.hole), .holeClaimed),
    (m.kind == .heat && (laneOf m.lane).any (fun i => c.tables.lanes[i].mode == .auto), .laneAuto),
    ((m.kind == .drill || m.kind == .ream) && atSlot c m (fun s => l.slots[s].tool.any Tool.spent), .toolSpent) ]

/-- The ORDER DONE of an order that leaves with its hole as it stands (R44), for every outcome but COMPLETED. -/
def orderDone (l : Live) (o : Order) (outcome : OrderOutcome) (cause : Option DoneCause) : CellBody :=
  .orderDone { tag := o.tag, kind := o.kind, slot := o.slot, target := o.target, outcome, cause, cancel := o.cancel
               holeInfo := (o.hole?.bind l.hole?).map fun x => (x.state, x.cls)
               gauge := none, force := none, measure := none, serial := none }

/-! ### Ends of work in flight -/

/-- The rivet of an order is in the stock of a lane (R26). -/
def rivetIn (o : Order) (i : LaneId) : Bool := o.rivet.any fun r => r.lane == i && r.whereabouts == .lane

/-- A stock without the rivet assigned to a tag. -/
def stockWithout (tag : Nat) (stock : List Rivet) : List Rivet := stock.filter fun r => r.tag != some tag

/-- A stock with the rivet assigned to a tag freed (R94). -/
def stockFreed (tag : Nat) (stock : List Rivet) : List Rivet :=
  stock.map fun r => if r.tag = some tag then { r with tag := none } else r

/-- Work has ended on a slot, `l` being the live state before (R134, R175): none in flight, the timer stopped, a BUSY slot READY,
an unsent ABORT off its list (after an ABORTED the model's reading of R175, log entry 20), and no other message queued or
taken off. -/
def WorkOver (l : Live) (slot : SlotId) (u : Live) : Prop :=
  u.slots[slot] = { l.slots[slot] with
      work := .idle, timer := none, state := if l.slots[slot].state = .busy then .ready else l.slots[slot].state }
    ∧ u.heads[slot].list = l.heads[slot].list.filter (fun m => !m.isAbort)
    ∧ u.heads[slot].sending = l.heads[slot].sending
    ∧ ∀ j, j ≠ slot → u.slots[j] = l.slots[j] ∧ u.heads[j] = l.heads[j]

/-- What becomes of an order whose end is untouched (R47, R48), `l` being the live state before: by its flag it leaves
CANCELLED, from a LEAVING slot WITHDRAWN, and else it waits again with nothing left of its flight. -/
def GoesBack (l : Live) (o : Order) (u : Live) : Prop :=
  let leaves := fun (outcome : OrderOutcome) (cause : Option DoneCause) =>
    u.order? o.tag = none ∧ ∃ d, Says u (.orderDone d) ∧ d.tag = o.tag ∧ d.kind = o.kind ∧ d.slot = o.slot
      ∧ d.outcome = outcome ∧ d.cause = cause ∧ d.cancel = o.cancel
  (o.cancel = true → leaves .cancelled none)
    ∧ (o.cancel = false → l.slots[o.slot].state = .leaving → leaves .withdrawn (some .slotLeaving))
    ∧ (o.cancel = false → l.slots[o.slot].state ≠ .leaving → u.order? o.tag = some { o with
        state := .waiting, wait := none, before := none, rivet := none, units := none, cause := none, step := none
        travelMark := none, issueMark := none })

/-- What taking back an unsent message leaves (R47), `l` being the live state before: no ISSUE, TRAVEL or ABORT stands on
the slot's list, its work and timer have ended, and a BUSY slot is READY. An unsent TRAVEL gives the holding back as the
travel found it (R69). An unsent ISSUE gives back the hole (R17), the rivet (R94) and the pump units (R74), closes the heat
record of a HEAT (R85) and clears the flag of an UNCLAMP (R106). R47 names the order's own message alone: that an ISSUE which an
early DONE left queued goes with it is the model's choice (log entry 27). -/
def TakenBack (c : Setup) (l : Live) (o : Order) (u : Live) : Prop :=
  u.heads[o.slot].list = l.heads[o.slot].list.filter (fun m => m.cls != 3 && !m.isAbort)
    ∧ u.heads[o.slot].sending = l.heads[o.slot].sending
    ∧ u.slots[o.slot] = { l.slots[o.slot] with
        work := .idle, timer := none
        state := if l.slots[o.slot].state = .busy then .ready else l.slots[o.slot].state }
    ∧ (∀ j, j ≠ o.slot → u.slots[j] = l.slots[j] ∧ u.heads[j] = l.heads[j])
    ∧ (o.travelMark ≠ none → u.holes = l.holes ∧ u.unitsInUse = l.unitsInUse ∧ u.lanes = l.lanes ∧ u.zones = l.zones
        ∧ ∀ v g, l.travels[o.slot] = some v → l.holdings[o.slot] = some g →
            u.holdings[o.slot] = some { rail := g.rail, run := v.former } ∧ u.travels[o.slot] = none)
    ∧ (o.travelMark = none → u.holdings = l.holdings ∧ u.travels = l.travels
        ∧ (∀ hole x b, o.hole? = some hole → l.hole? hole = some x → o.before = some b →
            u.hole? hole = some (Hole.returned (some b) (l.holeClamped c hole) x))
        ∧ u.unitsInUse = l.unitsInUse - o.units.getD 0
        ∧ (∀ i : LaneId, u.lanes[i].stock =
            if rivetIn o i = true then
              if c.tables.lanes[i].slot.any fun h => !l.slots[h].state.joined then stockWithout o.tag l.lanes[i].stock
              else stockFreed o.tag l.lanes[i].stock
            else l.lanes[i].stock)
        ∧ (∀ i : LaneId, u.lanes[i].heat =
            if o.kind = .heat ∧ o.target = .lane i then l.lanes[i].heatOff o.slot else l.lanes[i].heat)
        ∧ ∀ z : ZoneId, u.zones[z] =
            if o.kind = .unclamp ∧ o.target = .zone z then { l.zones[z] with expected := false } else l.zones[z])

/-- The heat that fails with its slot (R90): one on that slot, of the lane's own with its ISSUE sent or of a pool order under
its operation. -/
def failingHeat (l : Live) (slot : SlotId) : Option (LaneId × Heat) :=
  match l.slots[slot].work with
  | .idle => none
  | .heat i => (l.lanes[i].heatOn slot).bind fun g => if g.mark ≠ some .unsent then some (i, g) else none
  | .order tag =>
    (l.orderOf? slot tag).bind fun o =>
      match o.kind, o.target with
      | .heat, .lane i =>
        (l.lanes[i].heatOn slot).bind fun g => if o.operating = true ∧ o.unsent = false then some (i, g) else none
      | _, _ => none

/-- The heat that a lane has on a slot closes with the slot's loss (R90, R47): it fails, or its ISSUE was unsent. -/
def heatCloses (l : Live) (slot : SlotId) (i : LaneId) : Bool :=
  match l.slots[slot].work with
  | .idle => false
  | .heat j => j == i
  | .order tag =>
    (l.orderOf? slot tag).any fun o =>
      o.kind == .heat && o.target == .lane i && (if o.unsent then o.travelMark.isNone else o.operating)

/-- The FAULT notice entry of a slot that is lost, before the notice of the loss itself: HEAT_FAILED is posted first when the
slot is the source of a heat that fails (R90; log entry 31). -/
def faultEntry (l : Live) (slot : SlotId) : Option Notice :=
  let e := l.notices[noticeIndex (slotSource slot) .fault]
  match failingHeat l slot with
  | some (i, _) => some (postedEntry .heatFailed (.lane i) e)
  | none => e

/-- A hole lies in a zone that `zones` holds of. -/
def holeIn (c : Setup) (zones : ZoneId → Bool) (hole : Nat) : Bool := (c.row? hole).any fun r => zones r.zone

/-- A hole after the sweep of the zones that `zones` holds of (R20). -/
def sweptIn (c : Setup) (zones : ZoneId → Bool) (hole : Nat) (x : Hole) : Hole :=
  if holeIn c zones hole = true ∧ (x.state = .drilled ∨ x.state = .oversize) then { x with state := .suspect } else x

/-- The order works, ISSUED or RUNNING, on a hole in a zone that `zones` holds of (R108). -/
def worksIn (c : Setup) (zones : ZoneId → Bool) (o : Order) : Bool :=
  (o.state == .issued || o.state == .running) && o.hole?.any (holeIn c zones)

/-- What a loss of clamp does to the orders that `hit` holds of, `l` being the live state before (R108, R46): each is ABORTING
with CLAMP_LOST; where it is the one such order of its slot, the slot's ABORT stage is in full and ABORT is queued; and one
whose message is unsent has it taken back and goes as its flag and its slot say (R47), and the hole that no other order has
returns to its state before issue, as SUSPECT from DRILLED or OVERSIZE (R17). That no ISSUE or TRAVEL is then left on its slot's
list, one that an early DONE left queued neither, is the model's choice (log entry 27). -/
def ClampAborts (c : Setup) (l : Live) (hit : Order → Bool) (u : Live) : Prop :=
  (∀ o ∈ l.pool, hit o = true → o.unsent = false →
    u.order? o.tag = some { o with state := .aborting, cause := some .clampLost, step := some .operation }
    ∧ ((∀ q ∈ l.pool, hit q = true → q.slot = o.slot → q.tag = o.tag) →
      u.slots[o.slot].timer = some { stage := .abort, left := c.acted Timing.acceptLimit }
      ∧ HeadMsg.abort o.tag ∈ u.heads[o.slot].sending.toList ++ u.heads[o.slot].list))
  ∧ ∀ o ∈ l.pool, hit o = true → o.unsent = true →
    GoesBack l o u ∧ (∀ m ∈ u.heads[o.slot].list, m.cls ≠ 3)
    ∧ ∀ n x b, o.hole? = some n → (∀ q ∈ l.pool, q.hole? = some n → q.tag = o.tag) → l.hole? n = some x →
      o.before = some b → o.travelMark = none →
      u.hole? n = some { x with state := if b = .drilled ∨ b = .oversize then .suspect else b }

/-- A zone of the slot's own is CLAMPED. -/
def ownClamped (c : Setup) (l : Live) (slot : SlotId) (z : ZoneId) : Bool :=
  (c.tables.zones[z]).any (fun m => m.slot == slot) && l.zones[z].state == .clamped

/-- A zone of the slot's own is CLAMPED with no unclamp expected: at the slot's loss it is a loss of clamp (R109, R108). -/
def ownLost (c : Setup) (l : Live) (slot : SlotId) (z : ZoneId) : Bool := ownClamped c l slot z && !l.zones[z].expected

/-- What the loss of a slot leaves of its zones, `l` being the live state as the loss found it (R109, R107, R108): each is
UNKNOWN with its flag clear, and no hole of one that was CLAMPED is left DRILLED or OVERSIZE. For each that was CLAMPED with no
unclamp expected CLAMP_LOST is posted, and the ISSUED and RUNNING orders of other slots in it are aborted; every other order of
another slot stands. CLAMP_LOST is posted in zone number order (R155). -/
def ModuleGone (c : Setup) (l : Live) (slot : SlotId) (u : Live) : Prop :=
  let hit := fun o : Order => worksIn c (ownLost c l slot) o && o.slot != slot
  (∀ (z : ZoneId) (m : ZoneMap), c.tables.zones[z] = some m → m.slot = slot →
      u.zones[z] = { state := .unknown, expected := false })
    ∧ (∀ n x, u.hole? n = some x → holeIn c (ownClamped c l slot) n = true → x.state ≠ .drilled ∧ x.state ≠ .oversize)
    ∧ u.notices[noticeIndex (slotSource slot) .alarm] =
        ((List.finRange 8).filter (ownLost c l slot)).foldl (fun e z => some (postedEntry .clampLost (.zone z) e))
          l.notices[noticeIndex (slotSource slot) .alarm]
    ∧ ClampAborts c l hit u
    ∧ ∀ o ∈ l.pool, o.slot ≠ slot → hit o = false → u.order? o.tag = some o

/-- What the loss of a slot leaves of the holes, pump units, lanes and unclamp flag of its work in flight (R52, R19, R74,
R90, R94), of the holes of its CLAMPED zones (R20, R109) and of the stock of a lane it heats (R95), `l` being the live state as
the loss found it, where the loss takes back no unsent order of another slot. That a lane whose entry names the slot loses its
free rivets also where the slot did not serve it is the model's choice (log entry 28). -/
def LossEnds (c : Setup) (l : Live) (slot : SlotId) (cause : LossCause) (code : Option Nat) (u : Live) : Prop :=
  let kept := fun (i : LaneId) (stock : List Rivet) =>
    if c.tables.lanes[i].slot = some slot then stock.filter (fun r => r.tag.isSome) else stock
  let swept := sweptIn c (ownClamped c l slot)
  let standing := (∀ n, u.hole? n = (l.hole? n).map (swept n)) ∧ u.unitsInUse = l.unitsInUse
    ∧ ∀ i : LaneId, u.lanes[i].stock = kept i l.lanes[i].stock
  (∀ i : LaneId, u.lanes[i].heat = if heatCloses l slot i = true then l.lanes[i].heatOff slot else l.lanes[i].heat)
    ∧ (∀ i : LaneId, (∀ g, failingHeat l slot ≠ some (i, g)) → u.lanes[i].fault = l.lanes[i].fault)
    ∧ (∀ i g, failingHeat l slot = some (i, g) →
        u.lanes[i].fault = some { tag := g.tag, slot, cause, code, serial := g.serial })
    ∧ ((∀ tag, l.slots[slot].work = .order tag → l.orderOf? slot tag = none) → standing)
    ∧ ∀ tag o, l.slots[slot].work = .order tag → l.orderOf? slot tag = some o →
      let ends := fun (hole : Hole → Hole) (stock : LaneId → List Rivet → List Rivet) =>
        (∀ n x, o.hole? = some n → l.hole? n = some x → u.hole? n = some (swept n (hole x)))
        ∧ (∀ n, o.hole? ≠ some n → u.hole? n = (l.hole? n).map (swept n))
        ∧ u.unitsInUse = l.unitsInUse - o.units.getD 0
        ∧ (∀ i : LaneId, u.lanes[i].stock =
            kept i (if rivetIn o i = true then stock i l.lanes[i].stock else l.lanes[i].stock))
        ∧ ∀ z : ZoneId, o.kind = .unclamp → o.target = .zone z → u.zones[z].expected = false
      (o.unsent = false → o.operating = true → ends (Hole.uncertain o) fun _ => stockWithout tag)
      ∧ (o.unsent = false → o.operating = false → standing)
      ∧ (o.unsent = true → o.travelMark ≠ none → standing)
      ∧ (o.unsent = true → o.travelMark = none →
          ends (fun x => Hole.returned o.before ((o.hole?.map (l.holeClamped c)).getD false) x) fun i stock =>
            if c.tables.lanes[i].slot.any fun h => h == slot || !l.slots[h].state.joined then stockWithout tag stock
            else stockFreed tag stock)

/-- No order of the slot's own works in a zone of its own that loses its clamp. -/
def SlotApart (c : Setup) (l : Live) (slot : SlotId) : Prop :=
  ∀ o ∈ l.pool, worksIn c (ownLost c l slot) o = true → o.slot ≠ slot

/-- No order whose message is unsent works in a zone of the slot's own that loses its clamp. -/
def NoneTakenBack (c : Setup) (l : Live) (slot : SlotId) : Prop :=
  ∀ o ∈ l.pool, worksIn c (ownLost c l slot) o = true → o.unsent = false

/-- What a fault leaves of the messages queued to its slot, before the LAMP of its aspect (R129 step 5): LAMP stays, and
ISSUE, TRAVEL, ABORT, DISCARD, WELCOME and TOOL SYNC go. The rule does not name REJOIN, which stays. -/
def keptAtFault : List HeadMsg → List HeadMsg :=
  List.filter fun m => match m with
    | .lamp _ | .rejoin _ => true
    | .issue _ _ | .travel _ _ | .abort _ | .discard _ | .welcome _ _ | .toolSync _ _ _ => false

/-- What the fault of a joined slot leaves (R129), `l` being the live state as the fault found it: FAULTED with its record,
the head, tool record and lever kept, its waiting orders withdrawn and their claims with them (R53, R61), its order in flight
ended by R52, its zones as `ModuleGone` says, and SLOT_FAULT posted. No message but LAMP and REJOIN is left unsent to it (step
5), its aspect is that of FAULTED (R125), and where no order of its own is aborted by its loss its outbound list is what the
fault kept of it, with LAMP where the aspect has changed (step 7). Its work and timer have ended, its holding stands unless the
TRAVEL was unsent, and `LossEnds` says the rest. -/
def FaultLeaves (c : Setup) (l : Live) (slot : SlotId) (cause : LossCause) (code : Option Nat) (u : Live) : Prop :=
  u.slots[slot].state = .faulted ∧ u.slots[slot].fault = some { cause, code, tag := l.slots[slot].work.tag? }
    ∧ u.slots[slot].head = l.slots[slot].head ∧ u.slots[slot].tool = l.slots[slot].tool
    ∧ u.slots[slot].lever = l.slots[slot].lever ∧ u.slots[slot].leverPending = false
    ∧ u.travels[slot] = none
    ∧ (∀ o ∈ l.pool, o.slot = slot → o.state = .waiting → l.slots[slot].work ≠ .order o.tag →
        u.order? o.tag = none ∧ u.request? o.tag = none
        ∧ ∃ d, Says u (.orderDone d) ∧ d.tag = o.tag ∧ d.outcome = .withdrawn ∧ d.cause = some .slotFaulted)
    ∧ (∀ tag o, l.slots[slot].work = .order tag → l.orderOf? slot tag = some o →
        u.order? tag = none ∧ ∃ d, Says u (.orderDone d) ∧ d.tag = tag
          ∧ (if o.unsent = true then d.outcome = .withdrawn ∧ d.cause = some .slotFaulted
            else d.outcome = .failed ∧ d.cause = some cause.asDone))
    ∧ ModuleGone c l slot u
    ∧ u.notices[noticeIndex (slotSource slot) .fault] = some
        (postedEntry .slotFault (.cause cause code) (faultEntry l slot))
    ∧ u.slots[slot].lamp = l.slots[slot].lamp
    ∧ u.slots[slot].aspect = (if l.slots[slot].lamp = .forceOn then .steady else .off)
    ∧ (∀ m ∈ u.heads[slot].list, m.isLamp = true ∨ ∃ r, m = .rejoin r)
    ∧ (SlotApart c l slot →
        let left : Live := { l with
          slots := l.slots.set slot { l.slots[slot] with state := .faulted }
          heads := l.heads.set slot { l.heads[slot] with list := keptAtFault l.heads[slot].list } }
        let k := (left.syncLamp c slot).heads[slot]
        u.heads[slot].list = k.list ∧ u.heads[slot].sending = k.sending)
    ∧ (SlotApart c l slot →
        u.slots[slot].work = .idle ∧ u.slots[slot].timer = none
        ∧ ((∀ tag o, l.slots[slot].work = .order tag → l.orderOf? slot tag = some o →
              o.unsent = false ∨ o.travelMark = none) →
            u.holdings[slot] = l.holdings[slot])
        ∧ (∀ tag o v g, l.slots[slot].work = .order tag → l.orderOf? slot tag = some o → o.unsent = true →
            o.travelMark ≠ none → l.travels[slot] = some v → l.holdings[slot] = some g →
            u.holdings[slot] = some { rail := g.rail, run := v.former }))
    ∧ (SlotApart c l slot → NoneTakenBack c l slot → LossEnds c l slot cause code u)

/-! ### Tables of the statements about all commands -/

/-- The header of a cell message; none for a head report, an event or an expiry. -/
def headerOf : Instr → Option Header
  | .drill h _ _ _ => some h
  | .ream h _ _ _ => some h
  | .setRivet h _ _ => some h
  | .heat h _ _ => some h
  | .clamp h _ _ => some h
  | .unclamp h _ _ => some h
  | .park h _ => some h
  | .cancel h => some h
  | .patternOpen h _ _ => some h
  | .patternRows h _ _ _ => some h
  | .patternDelete h _ => some h
  | .tableWriteTiming h _ _ => some h
  | .tableWriteSlot h _ _ _ => some h
  | .tableWriteZone h _ _ _ => some h
  | .tableWriteLane h _ _ _ _ _ => some h
  | .tableWritePump h _ => some h
  | .frameBegin h _ _ => some h
  | .frameEnd h => some h
  | .frameAbandon h => some h
  | .modeRun h => some h
  | .modeHold h => some h
  | .modeResume h => some h
  | .holeRework h _ => some h
  | .slotClear h _ => some h
  | .slotRelease h _ => some h
  | .lampSet h _ _ => some h
  | .queryStatus h => some h
  | .queryHole h _ => some h
  | .queryOrder h _ _ => some h
  | .querySlot h _ => some h
  | .queryRail h _ _ _ => some h
  | .queryLane h _ => some h
  | .queryZone h _ => some h
  | .queryPump h => some h
  | .queryLink h => some h
  | .queryTable h _ _ => some h
  | .queryPattern h _ _ => some h
  | .noticeTake h => some h
  | .storeRead h _ _ => some h
  | .storeWrite h _ _ => some h
  | .reload h => some h
  | .restart h => some h
  | .unlock h => some h
  | .unknownKind h _ => some h
  | _ => none

/-- The selector of each cell message (section 9.5); 0 where its kind has one form. -/
def ownSelector : Instr → Nat
  | .tableWriteTiming _ _ _ => 1
  | .tableWriteSlot _ _ _ _ => 2
  | .tableWriteZone _ _ _ _ => 3
  | .tableWriteLane _ _ _ _ _ _ => 4
  | .tableWritePump _ _ => 5
  | .modeRun _ => 1
  | .modeHold _ => 2
  | .modeResume _ => 3
  | .queryStatus _ => 1
  | .queryHole _ _ => 2
  | .queryOrder _ _ _ => 3
  | .querySlot _ _ => 4
  | .queryRail _ _ _ _ => 5
  | .queryLane _ _ => 6
  | .queryZone _ _ => 7
  | .queryPump _ => 8
  | .queryLink _ => 9
  | .queryTable _ _ _ => 10
  | .queryPattern _ _ _ => 11
  | _ => 0

/-- The body length of each cell message (section 9.5), header included; a STORE WRITE carries 1..16 bytes of data. -/
def ownLength : Instr → Nat
  | .drill _ _ _ _ => 8
  | .ream _ _ _ _ => 8
  | .setRivet _ _ _ => 7
  | .heat _ _ _ => 6
  | .clamp _ _ _ => 6
  | .unclamp _ _ _ => 6
  | .park _ _ => 5
  | .patternOpen _ _ _ => 7
  | .patternRows _ _ k _ => 6 + 14 * k
  | .patternDelete _ _ => 5
  | .tableWriteTiming _ _ _ => 9
  | .tableWriteSlot _ _ _ _ => 7
  | .tableWriteZone _ _ _ _ => 7
  | .tableWriteLane _ _ _ _ _ _ => 9
  | .tableWritePump _ _ => 5
  | .frameBegin _ _ _ => 7
  | .holeRework _ _ => 6
  | .slotClear _ _ => 5
  | .slotRelease _ _ => 5
  | .lampSet _ _ _ => 6
  | .queryHole _ _ => 6
  | .queryOrder _ _ _ => 6
  | .querySlot _ _ => 5
  | .queryRail _ _ part _ => if part = 2 then 7 else 6
  | .queryLane _ _ => 5
  | .queryZone _ _ => 5
  | .queryTable _ _ _ => 6
  | .queryPattern _ _ hole => if hole.isSome then 7 else 5
  | .storeRead _ _ _ => 7
  | .storeWrite _ _ data => if 1 ≤ data.length ∧ data.length ≤ 16 then 6 + data.length else 0
  | _ => 4

/-- The order messages (section 2.1). -/
def isOrder : Instr → Bool
  | .drill _ _ _ _ | .ream _ _ _ _ | .setRivet _ _ _ | .heat _ _ _ | .clamp _ _ _ | .unclamp _ _ _ | .park _ _ => true
  | _ => false

/-- A refusal in the form of its message (R169): REFUSED for an order message and CANCEL, ANSWER for any other. -/
def refusedAs (i : Instr) (h : Header) (r : Reason) : CellBody :=
  match i with
  | .cancel _ => .refused h.tag r
  | _ => if isOrder i then .refused h.tag r else .answer h.tag (.refused r)

/-- The commands that take a reset, or may. -/
def mayReset : Instr → Bool
  | .powerUp | .resetPinRelease | .cellSentEvent => true
  | _ => false

/-- The commands that act under a held reset pin (R183, R185, R193). -/
def underPin : Instr → Bool
  | .powerUp | .resetPinRelease | .guardChannelChange _ _ | .storeWriteEnd => true
  | _ => false

/-- The parts of the setup that statements about all commands tell apart. -/
inductive SetupPart where
  | patterns | frame | tables | mode | guard | storeBytes | preload | lockout
  deriving DecidableEq, Repr

/-- A part of two setups is the same. The guard's timer and a store write in progress run with time and are left out. -/
def SetupPart.same (p : SetupPart) (c d : Setup) : Prop :=
  match p with
  | .patterns => d.patterns = c.patterns ∧ d.freeRows = c.freeRows
  | .frame => d.frame = c.frame
  | .tables => d.tables = c.tables
  | .mode => d.mode = c.mode
  | .guard => d.guard.ch1 = c.guard.ch1 ∧ d.guard.ch2 = c.guard.ch2 ∧ d.guard.state = c.guard.state
  | .storeBytes => ∀ a, d.store.byte a = c.store.byte a
  | .preload => d.preload = c.preload ∧ d.engine = c.engine
  | .lockout => d.lockout = c.lockout

/-- The parts of the setup that a command may write. -/
def writes : Instr → List SetupPart
  | .patternOpen _ _ _ | .patternRows _ _ _ _ | .patternDelete _ _ => [.patterns]
  | .tableWriteTiming _ _ _ | .tableWriteSlot _ _ _ _ | .tableWriteZone _ _ _ _ | .tableWriteLane _ _ _ _ _ _
  | .tableWritePump _ _ | .hello _ _ _ _ => [.tables]
  | .frameBegin _ _ _ | .frameEnd _ | .frameAbandon _ => [.frame, .mode]
  | .modeRun _ | .modeHold _ | .modeResume _ => [.mode]
  | .guardChannelChange _ _ => [.guard, .mode]
  | .discrepancyExpiry => [.guard]
  | .storeWriteEnd => [.storeBytes]
  | .unlock _ => [.lockout]
  | .reload _ => [.patterns, .preload, .lockout]
  | .preloadHeaderRead | .preloadRecord | .preloadEnd => [.patterns, .tables, .preload, .lockout]
  | .powerUp | .resetPinRelease | .cellSentEvent => [.patterns, .frame, .tables, .mode, .guard, .preload, .lockout]
  | _ => []

/-- The commands that post no notice, move no zone and change no slot record but for its state, work and timer: the order
messages, CANCEL, ACCEPT and ABORTED, an assigned rivet's end, the pattern, frame, mode and store messages, and every query
but NOTICE TAKE. -/
def quiet : Instr → Bool
  | .drill _ _ _ _ | .ream _ _ _ _ | .setRivet _ _ _ | .heat _ _ _ | .clamp _ _ _ | .unclamp _ _ _ | .park _ _ | .cancel _
  | .patternOpen _ _ _ | .patternRows _ _ _ _ | .patternDelete _ _ | .tableWriteTiming _ _ _ | .tableWriteSlot _ _ _ _
  | .tableWriteLane _ _ _ _ _ _ | .tableWritePump _ _ | .frameBegin _ _ _ | .frameEnd _ | .frameAbandon _ | .modeRun _
  | .modeHold _ | .modeResume _ | .holeRework _ _ | .queryStatus _ | .queryHole _ _ | .queryOrder _ _ _ | .querySlot _ _
  | .queryRail _ _ _ _ | .queryLane _ _ | .queryZone _ _ | .queryPump _ | .queryLink _ | .queryTable _ _ _
  | .queryPattern _ _ _ | .storeRead _ _ _ | .storeWrite _ _ _ | .storeWriteEnd | .unlock _ | .restart _ | .unknownKind _ _
  | .accept _ _ _ _ | .abortedNone _ _ _ | .abortedPartial _ _ _ | .rivetExpiryAssigned _ _ => true
  | _ => false

end Sys2Proof.Safety
end

