-- ==== Sys2Proof/Certificates/Slice0/Obligations.lean ====
section
/-!
DEFINITION. The statements for the provers. Each is about every state and every operand that meets its hypotheses. The
words they share (`Weighed`, `answered`, `settled`, ...) stand in Sys2Proof/Safety.lean. In a statement of a command that
ends with examinations, `u` is the taking before them: `settled s u` takes the examinations that `u` has started.
-/

open Sys2Proof Sys2Proof.Machine Sys2Proof.Safety

/-! ### The machine -/

/-- A step takes the command at the front of the queue and runs it on the queue's rest. With none waiting it takes the first
event that is due, and with none due it lets a millisecond pass: the model's choice (log entry 1). -/
def Obligations.StepTakesFront : Prop :=
  (∀ (i : Instr) (rest : List Instr) (s : State), step { s with pending := i :: rest } = exec i { s with pending := rest })
  ∧ ∀ s : State, s.pending = [] →
    (∀ i, s.dueEvent = some i → step s = exec i s) ∧ (s.dueEvent = none → step s = .next (s.elapse 1))

/-- No command stops the machine, no command changes the queue, and a step always answers a next state. -/
def Obligations.NothingStops : Prop :=
  (∀ (i : Instr) (s : State), ∃ t, exec i s = .next t ∧ t.pending = s.pending) ∧ ∀ s : State, ∃ t, step s = .next t

/-- No command writes a part of the setup outside its list in `writes`: tables, patterns, frame, mode, guard, the store's
bytes, preload and lockout. -/
def Obligations.SetupFrame : Prop :=
  ∀ (i : Instr) (s t : State) (part : SetupPart), exec i s = .next t → part ∉ writes i → part.same s.setup t.setup

/-- Outside a reset and the sent event no message placed for the cell is lost; but for the order messages no order enters
the pool, and the others keep their places; and a command of `quiet` posts no notice, moves no zone and changes no slot
record but for its state, work and timer. -/
def Obligations.LiveFrame : Prop :=
  ∀ (i : Instr) (s t : State), exec i s = .next t →
    (mayReset i = false → s.live.cell.bodies <+: t.live.cell.bodies)
    ∧ (isOrder i = false → (t.live.pool.map Order.tag).Sublist (s.live.pool.map Order.tag))
    ∧ (quiet i = true →
      t.live.notices = s.live.notices
      ∧ (∀ z : ZoneId, t.live.zones[z].state = s.live.zones[z].state)
      ∧ ∀ j : SlotId,
        let x := s.live.slots[j]
        let y := t.live.slots[j]
        y.head = x.head ∧ y.tool = x.tool ∧ y.lever = x.lever ∧ y.leverPending = x.leverPending ∧ y.lamp = x.lamp
          ∧ y.aspect = x.aspect ∧ y.fault = x.fault)

/-- What every cell message meets before its own rule (R168, R171, R183, R190, R194): nothing is taken under a held reset
pin; after a RESTART the frame is discarded; one that began under HOLDOFF is discarded with OVERRUN; during a preload all but
QUERY STATUS is refused LOCKED; and a selector or length that does not fit is refused BAD_VALUE. Under a held reset pin no
report or event is taken either, but for those of `underPin` (log entry 19). The model's choice: a row given a selector
that is a sibling's own is refused BAD_VALUE like any other that is not its own (log entry 22); in a preload a message of
selector 1 counts as QUERY STATUS in that row alone, whatever its length (log entry 32); and a message with no open frame is
held to have begun under HOLDOFF as HOLDOFF then stands (log entry 11). -/
def Obligations.Envelopes : Prop :=
  (∀ (i : Instr) (s : State), s.setup.resetHeld = true → underPin i = false → exec i s = .next s)
  ∧ ∀ (i : Instr) (h : Header) (s : State), headerOf i = some h →
    (s.setup.resetHeld = false → s.setup.restart ≠ .idle → exec i s = .next (closed s))
    ∧ (s.setup.resetHeld = false → s.setup.restart = .idle → s.live.cell.underHoldoff = true →
        exec i s = .next { s with live := (closed s).live.cellError .overrun })
    ∧ (s.setup.resetHeld = false → s.setup.restart = .idle → s.live.cell.underHoldoff = false →
        s.setup.preload = .running → ¬ (i = .queryStatus h ∧ h.selector = 1) →
        exec i s = .next (replied s (.refused h.tag .locked)))
    ∧ (Weighed s → (∀ k, i ≠ .unknownKind h k) → (h.selector ≠ ownSelector i ∨ h.length ≠ ownLength i) →
        exec i s = .next (replied s (refusedAs i h .badValue)))

/-- R184, R185: the contents of the store keep their canonical form, and a write in progress lies within the store. -/
def Obligations.StepKeepsStore : Prop := ∀ s t : State, StoreCanonical s → step s = .next t → StoreCanonical t

/-- R1: the free row count stays 2,048 less the hole counts of the patterns in use. -/
def Obligations.StepKeepsRows : Prop := ∀ s t : State, RowsBalanced s → step s = .next t → RowsBalanced t

/-- R141: the guard stays CLOSED whenever the mode is STANDBY, HOLD or RUN. -/
def Obligations.StepKeepsGuard : Prop := ∀ s t : State, GuardClosedUnlessStop s → step s = .next t → GuardClosedUnlessStop t

/-- R191: no frame is bound while the lockout is set. -/
def Obligations.StepKeepsLockout : Prop := ∀ s t : State, LockedUnbound s → step s = .next t → LockedUnbound t

/-- R28: the pool stays within 32 orders, each tag in it once, each hole the target of one order at most. -/
def Obligations.StepKeepsPool : Prop := ∀ s t : State, PoolLaw s → step s = .next t → PoolLaw t

/-- The five laws hold right after reset. -/
def Obligations.ResetKeepsLaws : Prop :=
  StoreCanonical State.reset ∧ RowsBalanced State.reset ∧ GuardClosedUnlessStop State.reset ∧ LockedUnbound State.reset
    ∧ PoolLaw State.reset

/-! ### Patterns and frames -/

/-- PATTERN OPEN (R2) and PATTERN DELETE (R6): the refusals in their order, the opening, and the deletion. -/
def Obligations.PatternOpenAndDelete : Prop :=
  (∀ (h : Header) (p n : Nat) (s : State), Weighed s → Plain h 7 →
    (patternOf p = none ∨ n = 0 ∨ 1024 < n → exec (.patternOpen h p n) s = .next (answered s h (.refused .badValue)))
    ∧ ∀ i, patternOf p = some i → 1 ≤ n → n ≤ 1024 →
      (s.setup.patterns[i] ≠ none → exec (.patternOpen h p n) s = .next (answered s h (.refused .exists_)))
      ∧ (s.setup.patterns[i] = none → s.setup.freeRows < n →
          exec (.patternOpen h p n) s = .next (answered s h (.refused .noRoom)))
      ∧ (s.setup.patterns[i] = none → n ≤ s.setup.freeRows →
          exec (.patternOpen h p n) s = .next (answered
            { s with setup := { s.setup with
                patterns := s.setup.patterns.set i (some { complete := false, count := n, rows := List.replicate n none })
                freeRows := s.setup.freeRows - n } } h (.patternOpened (s.setup.freeRows - n) n))))
  ∧ ∀ (h : Header) (p : Nat) (s : State), Weighed s → Plain h 5 →
    (patternOf p = none → exec (.patternDelete h p) s = .next (answered s h (.refused .badValue)))
    ∧ ∀ i, patternOf p = some i →
      (s.setup.patterns[i] = none → exec (.patternDelete h p) s = .next (answered s h (.refused .noPattern)))
      ∧ ∀ x, s.setup.patterns[i] = some x →
        (s.setup.frame.map Frame.pattern = some i →
          exec (.patternDelete h p) s = .next (answered s h (.refused .patternInUse)))
        ∧ (s.setup.frame.map Frame.pattern ≠ some i →
          exec (.patternDelete h p) s = .next (answered
            { s with setup := { s.setup with
                patterns := s.setup.patterns.set i none, freeRows := s.setup.freeRows + x.count } } h
            (.patternDeleted (s.setup.freeRows + x.count))))

/-- The row checks of R4: a row passes exactly when every field is in range and its predecessors are lower and distinct. The
field reported of a row that fails is its first failing one in the order HOLE, ZONE, CENTRE, OFFSET, PLIES, GRIP, DIAMETER,
FORCE, PREDECESSOR, a hole number that an earlier row has failing as HOLE; the position is that of the first failing row,
counted from 1. -/
def Obligations.RowChecks : Prop :=
  (∀ (n : Nat) (earlier : List Nat) (r : RawRow),
    (rowFault n earlier r = none ↔
      (1 ≤ r.hole ∧ r.hole ≤ n ∧ r.hole ∉ earlier) ∧ (1 ≤ r.zone ∧ r.zone ≤ 8) ∧ r.centre ≤ 15 ∧ r.offset ≤ 999
        ∧ (2 ≤ r.plies ∧ r.plies ≤ 4) ∧ (8 ≤ r.grip ∧ r.grip ≤ 120) ∧ (1 ≤ r.diameter ∧ r.diameter ≤ 6)
        ∧ (1 ≤ r.force ∧ r.force ≤ 3) ∧ r.predCount ≤ 2
        ∧ (1 ≤ r.predCount → 1 ≤ r.pred1 ∧ r.pred1 < r.hole)
        ∧ (r.predCount = 2 → 1 ≤ r.pred2 ∧ r.pred2 < r.hole ∧ r.pred1 ≠ r.pred2))
    ∧ (let listed := [r.pred1, r.pred2].take r.predCount
      let fails : List (RowField × Bool) :=
        [ (.hole, r.hole = 0 || decide (n < r.hole) || earlier.contains r.hole), (.zone, r.zone = 0 || decide (8 < r.zone)),
          (.centre, decide (15 < r.centre)), (.offset, decide (999 < r.offset)),
          (.plies, decide (r.plies < 2) || decide (4 < r.plies)), (.grip, decide (r.grip < 8) || decide (120 < r.grip)),
          (.diameter, r.diameter = 0 || decide (6 < r.diameter)), (.force, r.force = 0 || decide (3 < r.force)),
          (.predecessor, decide (2 < r.predCount) || listed.any (fun p => p = 0 || decide (r.hole ≤ p))
            || (r.predCount = 2 && r.pred1 = r.pred2)) ]
      rowFault n earlier r = (fails.find? Prod.snd).map Prod.fst))
  ∧ ∀ (n : Nat) (rows : List RawRow),
    (rowsFault n [] 1 rows = none ↔
      ∀ before r after, rows = before ++ r :: after → rowFault n (before.map RawRow.hole) r = none)
    ∧ ∀ position field, rowsFault n [] 1 rows = some (position, field) ↔
      ∃ before r after, rows = before ++ r :: after ∧ position = before.length + 1
        ∧ rowFault n (before.map RawRow.hole) r = some field
        ∧ ∀ older x younger, before = older ++ x :: younger → rowFault n (older.map RawRow.hole) x = none

/-- PATTERN ROWS (R3): the reasons in their order, from the numbers and the length to a failing row, which refuses the whole
message; and when it is taken, each row at its hole number, COMPLETE when every hole is written (R5). -/
def Obligations.PatternRows : Prop :=
  (∀ (h : Header) (p k : Nat) (rows : List RawRow) (s : State), Weighed s → h.selector = 0 →
    ((p = 0 ∨ 4 < p ∨ k = 0 ∨ 4 < k ∨ h.length ≠ 6 + 14 * k ∨ rows.length ≠ k) →
      exec (.patternRows h p k rows) s = .next (answered s h (.refused .badValue)))
    ∧ ∀ i, patternOf p = some i → 1 ≤ k → k ≤ 4 → h.length = 6 + 14 * k → rows.length = k → s.setup.patterns[i] = none →
        exec (.patternRows h p k rows) s = .next (answered s h (.refused .noPattern)))
  ∧ ∀ (h : Header) (p k : Nat) (rows : List RawRow) (i : PatternId) (x : Pattern) (s : State),
    Weighed s → Plain h (6 + 14 * k) → patternOf p = some i → 1 ≤ k → k ≤ 4 → rows.length = k →
    s.setup.patterns[i] = some x → x.rows.length = x.count →
    (x.complete = true → exec (.patternRows h p k rows) s = .next (answered s h (.refused .patternComplete)))
    ∧ (x.complete = false → ∀ position field, rowsFault x.count [] 1 rows = some (position, field) →
        exec (.patternRows h p k rows) s = .next (answered s h (.badRow position field)))
    ∧ (x.complete = false → rowsFault x.count [] 1 rows = none →
        ∃ y : Pattern,
          exec (.patternRows h p k rows) s = .next (answered
            { s with setup := { s.setup with patterns := s.setup.patterns.set i (some y) } } h
            (.patternRows y.complete y.written))
          ∧ y.count = x.count ∧ y.rows.length = x.count
          ∧ (∀ r ∈ rows, y.row? r.hole = some (rowOf r))
          ∧ (∀ hole, hole ∉ rows.map RawRow.hole → y.row? hole = x.row? hole)
          ∧ (y.complete = true ↔ ∀ hole, 1 ≤ hole → hole ≤ x.count → (y.row? hole).isSome = true))

/-- FRAME BEGIN: the refusals in their order; then the frame is bound, every hole PLANNED with its row's class, and the
mode HOLD. -/
def Obligations.FrameBegin : Prop :=
  ∀ (h : Header) (p serial : Nat) (s : State), Weighed s → Plain h 7 →
    (s.setup.lockout = true → exec (.frameBegin h p serial) s = .next (answered s h (.refused .locked)))
    ∧ (s.setup.lockout = false → s.setup.mode ≠ .standby →
        exec (.frameBegin h p serial) s = .next (answered s h (.refused .wrongMode)))
    ∧ (s.setup.lockout = false → s.setup.mode = .standby → patternOf p = none →
        exec (.frameBegin h p serial) s = .next (answered s h (.refused .badValue)))
    ∧ ∀ i, patternOf p = some i → s.setup.lockout = false → s.setup.mode = .standby →
      ((∀ x, s.setup.patterns[i] = some x → x.complete = false) →
          exec (.frameBegin h p serial) s = .next (answered s h (.refused .patternIncomplete)))
      ∧ ∀ x, s.setup.patterns[i] = some x → x.complete = true →
        ∃ (c : Setup) (holes : List Hole),
          c = { s.setup with frame := some { pattern := i, serial, count := x.count }, mode := .hold }
          ∧ exec (.frameBegin h p serial) s = .next (answered
              { s with setup := c, live := ({ s.live with holes } : Live).syncCadences c } h (.frameBegun x.count))
          ∧ holes.length = x.rows.length
          ∧ ∀ (n : Nat) (r : PatternRow), x.rows[n]? = some (some r) →
              holes[n]? = some
                { state := .planned, cls := r.diameter, reworks := 0, lastDrill := none, gauge := none, diameter := none
                  rivetSerial := none, force := none, peak := none }

/-- FRAME END and FRAME ABANDON: the refusals in their order. Else the pool empties with an ORDER DONE for each order, oldest
first, and each order's claim is gone (R53, R61), and after them the ANSWER with the counts of the ten states; TOOL SYNC is
queued to every slot in READY, LEAVING, RELEASED or FAULTED whose joined head is a DRILL (R138); the entries go, the frame is
unbound, and the mode is STANDBY (STOP stays STOP). -/
def Obligations.FrameEndAndAbandon : Prop :=
  ∀ (h : Header) (s : State), Weighed s → Plain h 4 →
    (∀ r, firstReason
        [ (s.setup.lockout, .locked), (s.setup.frame.isNone, .noFrame), (s.setup.mode == .stop, .stopped),
          (s.live.pool.any (fun o => o.state != .waiting), .inFlight),
          (s.live.zones.toList.any (fun z => z.state == .clamped), .zoneClamped) ] = some r →
      exec (.frameEnd h) s = .next (answered s h (.refused r)))
    ∧ (∀ r, firstReason
        [ (s.setup.lockout, .locked), (s.setup.frame.isNone, .noFrame),
          (s.live.pool.any (fun o => o.state != .waiting), .inFlight) ] = some r →
      exec (.frameAbandon h) s = .next (answered s h (.refused r)))
    ∧ ∀ f, s.setup.lockout = false → s.setup.frame = some f → (∀ o ∈ s.live.pool, o.state = .waiting) →
      ∀ i, i = Instr.frameAbandon h
          ∨ (i = Instr.frameEnd h ∧ s.setup.mode ≠ .stop ∧ ∀ z : ZoneId, s.live.zones[z].state ≠ .clamped) →
        let unbound := { s.setup with frame := none, mode := if s.setup.mode = .stop then .stop else .standby }
        ∃ (t : State) (u : Taking), exec i s = .next t ∧ t = settled { s with setup := unbound } u
          ∧ t.pending = s.pending ∧ t.live.pool = [] ∧ t.live.holes = [] ∧ t.live.notices = s.live.notices
          ∧ t.live.zones = s.live.zones ∧ t.live.unitsInUse = s.live.unitsInUse
          ∧ t.live.cell.bodies = s.live.cell.bodies
              ++ s.live.pool.map (fun o => orderDone s.live o .withdrawn (some .frameEnded))
              ++ [.answer h.tag (.frameReleased f.serial (HoleState.all.map fun st =>
                  (s.live.holes.filter fun x => x.state == st).length))]
          ∧ (∀ o ∈ s.live.pool, u.live.request? o.tag = none)
          ∧ u.live.slots = s.live.slots
          ∧ ∀ j : SlotId,
              let x := s.live.slots[j]
              let told := (x.state = .ready ∨ x.state = .leaving ∨ x.state = .released ∨ x.state = .faulted)
                ∧ x.head.map (fun g => g.declared.kind) = some .drill
              (told → ∀ g, x.tool = some g → u.live.heads[j] =
                (s.live.queueJoin s.setup j (.toolSync g.id g.limit g.count)).heads[j])
              ∧ (¬ told ∨ x.tool = none → u.live.heads[j] = s.live.heads[j])

/-- HOLE REWORK: the refusals in their order; SUSPECT with one more rework and class, or BARRED. -/
def Obligations.HoleRework : Prop :=
  ∀ (h : Header) (hole : Nat) (s : State), Weighed s → Plain h 6 →
    (∀ r, firstReason
        [ (s.setup.lockout, .locked), (s.setup.frame.isNone, .noFrame), ((s.live.hole? hole).isNone, .badHole),
          ((s.live.hole? hole).any (fun x => x.state != .defect), .holeState) ] = some r →
      exec (.holeRework h hole) s = .next (answered s h (.refused r)))
    ∧ ∀ x, s.setup.lockout = false → s.setup.frame.isSome = true → s.live.hole? hole = some x → x.state = .defect →
      ∃ (y : Hole) (u : Taking),
        exec (.holeRework h hole) s = .next (settled s u)
        ∧ u = (Taking.start (answered { s with live := { s.live with holes := s.live.holes.set (hole - 1) y } } h
                (.reworked y.state y.reworks y.cls)).live).wakeGate
        ∧ (x.reworks < 2 → x.cls < 6 →
            y = { x with state := .suspect, reworks := x.reworks + 1, cls := x.cls + 1, gauge := none, diameter := none
                         rivetSerial := none, force := none, peak := none })
        ∧ (2 ≤ x.reworks ∨ 6 ≤ x.cls → y = { x with state := .barred })

/-! ### The Hole Table -/

/-- The issue of a hole (R13, R14): which states admit which kind, and DRILLING or SETTING after it. -/
def Obligations.HoleTakesIssue : Prop :=
  ∀ (c : Setup) (l : Live) (hole : Nat) (x : Hole), l.hole? hole = some x →
    (l.takeIssue c .drill hole =
      if x.state = .planned then some (x.state, { l with holes := l.holes.set (hole - 1) { x with state := .drilling } })
      else none)
    ∧ (l.takeIssue c .ream hole =
        if x.state = .undersize ∨ x.state = .suspect then
          some (x.state, { l with holes := l.holes.set (hole - 1) { x with state := .drilling } })
        else none)
    ∧ (l.takeIssue c .set hole =
        if (x.state = .drilled ∨ x.state = .oversize) ∧ l.predecessorsSet c hole = true then
          some (x.state, { l with holes := l.holes.set (hole - 1) { x with state := .setting } })
        else none)

/-- What the end of an operation leaves of its hole: of a drilling (R15) and of a riveting (R16), the cases in their order;
and of one that ends without a clean report (R17, R18, R19). The PROTOCOL that a bad code records in the link status is in
`DoneReports`. -/
def Obligations.HoleAfterEnd : Prop :=
  (∀ (slot : SlotId) (code value : Nat) (x : Hole),
    let y := { x with lastDrill := some slot, diameter := some value }
    (∀ g, Hole.drilled slot true g value x = { y with gauge := Gauge.ofCode g, state := .suspect })
    ∧ (code ≠ 1 → code ≠ 2 → code ≠ 3 →
        Hole.drilled slot false code value x = { y with gauge := none, diameter := none, state := .suspect })
    ∧ Hole.drilled slot false 1 value x = { y with gauge := some .within, state := .drilled }
    ∧ Hole.drilled slot false 2 value x = { y with gauge := some .under, state := .undersize }
    ∧ (x.cls < 6 →
        Hole.drilled slot false 3 value x = { y with gauge := some .over, state := .oversize, cls := x.cls + 1 })
    ∧ (6 ≤ x.cls → Hole.drilled slot false 3 value x = { y with gauge := some .over, state := .defect }))
  ∧ (∀ (serial : Option Nat) (code value : Nat) (x : Hole),
    let y := { x with rivetSerial := serial, peak := some value }
    (∀ g, Hole.riveted serial true g value x = { y with force := Force.ofCode g, state := .defect })
    ∧ (code ≠ 1 → code ≠ 2 → code ≠ 3 →
        Hole.riveted serial false code value x = { y with force := none, peak := none, state := .defect })
    ∧ Hole.riveted serial false 1 value x = { y with force := some .ok, state := .set }
    ∧ Hole.riveted serial false 2 value x = { y with force := some .low, state := .defect }
    ∧ Hole.riveted serial false 3 value x = { y with force := some .high, state := .defect })
  ∧ ∀ (o : Order) (x : Hole) (b : HoleState) (clamped : Bool),
    (Hole.returned (some b) clamped x =
      { x with state := if (b = .drilled ∨ b = .oversize) ∧ clamped = false then .suspect else b })
    ∧ (o.kind ≠ .set →
        Hole.partial_ o x = { x with state := .suspect, lastDrill := some o.slot, gauge := none, diameter := none }
        ∧ Hole.uncertain o x = { x with state := .suspect })
    ∧ (o.kind = .set → ∀ r, o.rivet = some r →
        (r.whereabouts = .carried →
          Hole.partial_ o x = { x with state := .defect, rivetSerial := some r.serial, force := none, peak := none }
          ∧ Hole.uncertain o x = { x with state := .defect, rivetSerial := some r.serial })
        ∧ (r.whereabouts ≠ .carried →
          Hole.partial_ o x = { x with state := .defect, force := none, peak := none }
          ∧ Hole.uncertain o x = { x with state := .defect }))

/-- The zone sweep (R20): every DRILLED or OVERSIZE hole of the zone becomes SUSPECT, and nothing else changes. -/
def Obligations.ZoneSweep : Prop :=
  ∀ (c : Setup) (z : ZoneId) (l : Live),
    (∃ holes, l.sweep c z = { l with holes } ∧ holes.length = l.holes.length)
    ∧ ∀ (n : Nat) (x : Hole), l.hole? n = some x →
        (l.sweep c z).hole? n = some
          (if (c.row? n).map PatternRow.zone = some z ∧ (x.state = .drilled ∨ x.state = .oversize) then
            { x with state := .suspect } else x)

/-! ### Orders -/

/-- An order message of each of the seven kinds: one of the wrong length is refused BAD_VALUE, and one that fails a check of
the table of R27 is refused with the reason of the first that fails; nothing else changes. -/
def Obligations.AdmissionRefused : Prop :=
  ∀ (h : Header) (slot hole feed zone lane : Nat) (r : Reason) (s : State), Weighed s → h.selector = 0 →
    let m : OrderMsg := { kind := .park, tag := h.tag, slot := 0, hole := 0, zone := 0, lane := 0, feed := 0 }
    let refused := fun (i : Instr) (n : Nat) (m : OrderMsg) =>
      (h.length ≠ n → exec i s = .next (replied s (.refused h.tag .badValue)))
      ∧ (h.length = n → firstReason (refusals s.setup s.live m) = some r →
          exec i s = .next (replied s (.refused h.tag r)))
    refused (.drill h slot hole feed) 8 { m with kind := .drill, slot, hole, feed }
    ∧ refused (.ream h slot hole feed) 8 { m with kind := .ream, slot, hole, feed }
    ∧ refused (.setRivet h slot hole) 7 { m with kind := .set, slot, hole }
    ∧ refused (.heat h slot lane) 6 { m with kind := .heat, slot, lane }
    ∧ refused (.clamp h slot zone) 6 { m with kind := .clamp, slot, zone }
    ∧ refused (.unclamp h slot zone) 6 { m with kind := .unclamp, slot, zone }
    ∧ refused (.park h slot) 5 { m with kind := .park, slot }

/-- An order that passes every check of R27 enters the pool at its tail as the record R26 gives it (SLOW set at 24, and
cleared by a leaving that brings the pool below 20), is examined, and is answered TAKEN with the state the examination left
it, ahead of the ORDER DONE messages that the examination produced: it stands in the pool, or its ORDER DONE is among them. -/
def Obligations.OrderTaken : Prop :=
  (∀ (o : Order) (l : Live), l.enter o =
      { l with pool := l.pool ++ [o], slow := if 24 ≤ l.pool.length + 1 then true else l.slow })
  ∧ (∀ (c : Setup) (o : Order) (outcome : OrderOutcome) (cause : Option DoneCause) (heat : Option Nat) (t : Taking),
      let u := t.leave c o outcome cause heat
      let pool := t.live.pool.filter fun x => x.tag != o.tag
      u.live.pool = pool ∧ u.live.slow = (if pool.length < 20 then false else t.live.slow) ∧ u.gateDue = true
        ∧ u.live.requestsA = t.live.requestsA.filter (fun q => q.tag != o.tag)
        ∧ u.live.requestsB = t.live.requestsB.filter (fun q => q.tag != o.tag))
  ∧ ∀ (h : Header) (slot hole feed zone lane : Nat) (s : State), Weighed s → h.selector = 0 →
    let m : OrderMsg := { kind := .park, tag := h.tag, slot := 0, hole := 0, zone := 0, lane := 0, feed := 0 }
    let record := fun (k : OrderKind) (j : SlotId) (target : Target) (channel centre feed : Option Nat) =>
      ({ tag := h.tag, kind := k, slot := j, target, channel, centre, feed, state := .waiting, wait := none, before := none
         rivet := none, units := none, cause := none, step := none, cancel := false, travelMark := none
         issueMark := none } : Order)
    let taken := fun (i : Instr) (n : Nat) (m : OrderMsg) (spelled : SlotId → Order → Prop) =>
      h.length = n → firstReason (refusals s.setup s.live m) = none →
        ∃ (j : SlotId) (o : Order) (t : State) (dones : List OrderDone), slotNamed s.setup m = some j ∧ spelled j o
          ∧ exec i s = .next t
          ∧ t = { s with live := (closed s).live.admitted s.setup o }
          ∧ t.live.notices = s.live.notices
          ∧ (t.live.pool.map Order.tag).Sublist ((s.live.pool ++ [o]).map Order.tag)
          ∧ t.live.cell.bodies =
              s.live.cell.bodies ++ [.taken h.tag (t.live.takenState h.tag)] ++ dones.map CellBody.orderDone
          ∧ ((∃ x ∈ t.live.pool, x.tag = h.tag ∧ x.kind = m.kind ∧ x.slot = j ∧ x.target = o.target)
            ∨ ∃ d ∈ dones, d.tag = h.tag ∧ d.kind = m.kind ∧ d.slot = j ∧ d.target = o.target)
    taken (.drill h slot hole feed) 8 { m with kind := .drill, slot, hole, feed } (fun j o =>
        o = record .drill j (.hole hole) none ((s.setup.row? hole).map PatternRow.centre) (some feed))
    ∧ taken (.ream h slot hole feed) 8 { m with kind := .ream, slot, hole, feed } (fun j o =>
        o = record .ream j (.hole hole) none ((s.setup.row? hole).map PatternRow.centre) (some feed))
    ∧ taken (.setRivet h slot hole) 7 { m with kind := .set, slot, hole } (fun j o =>
        o = record .set j (.hole hole) none ((s.setup.row? hole).map PatternRow.centre) none)
    ∧ taken (.heat h slot lane) 6 { m with kind := .heat, slot, lane } (fun j o =>
        ∃ i, laneOf lane = some i ∧ o = record .heat j (.lane i) none none none)
    ∧ taken (.clamp h slot zone) 6 { m with kind := .clamp, slot, zone } (fun j o =>
        ∃ z, zoneOf zone = some z ∧ o = record .clamp j (.zone z) ((s.setup.tables.zones[z]).map ZoneMap.channel) none none)
    ∧ taken (.unclamp h slot zone) 6 { m with kind := .unclamp, slot, zone } (fun j o =>
        ∃ z, zoneOf zone = some z ∧ o = record .unclamp j (.zone z) ((s.setup.tables.zones[z]).map ZoneMap.channel) none none)
    ∧ taken (.park h slot) 5 { m with kind := .park, slot } (fun j o =>
        o = record .park j .home none (some s.setup.tables.slots[j].home) none)

/-- The wait conditions of each kind, weighed in the order of section 2.3: the first that fails is the reason; and what each
condition is (R29, R30, R34). The examination: one pass over the pool, oldest first (R36); an order whose hole no longer
admits it leaves HOLE_CHANGED; a reason withdraws or files the claim (R31); one stopped by PUMP alone fences the younger
(R32); and one with every condition met is issued, or a PARK completed. That the rails due are examined ahead of the gate's
pass is log entry 10 (DEDUCED), and that a missing hole entry counts as not admitting is log entry 24. A HEAT that meets R34
beside a heat which a RELOAD left in flight for its lane waits until the lane is idle (R82, R87); that its reason is LANE_FULL
is the model's choice (log entry 29). -/
def Obligations.WaitConditions : Prop :=
  (∀ (c : Setup) (l : Live) (fenced : Bool) (o : Order) (hole : Nat) (i : LaneId) (z : ZoneId),
    let mode := (!(c.mode == .run || c.mode == .standby), WaitReason.mode)
    let queued := (!l.queued o, WaitReason.queued)
    let position := (!(o.centre.any fun t => (l.holdings[o.slot]).any fun g => g.run == span t), WaitReason.position)
    let first := fun cs : List (Bool × WaitReason) => (cs.find? Prod.fst).map Prod.snd
    ((o.kind = .drill ∨ o.kind = .ream) → o.target = .hole hole →
      l.unmet c fenced o = first [mode, queued, (!l.zoneReady c hole, .zone), position])
    ∧ (o.kind = .set → o.target = .hole hole →
      l.unmet c fenced o = first
        [ mode, queued, (!l.predecessorsSet c hole, .predecessor), (!l.zoneReady c hole, .zone), position,
          (fenced || decide (c.tables.budget < l.unitsInUse + ((c.row? hole).map PatternRow.force).getD 0), .pump),
          (!(l.hole? hole).any (fun x => (l.bestRivet c x.cls).isSome), .rivet) ])
    ∧ (o.kind = .heat → o.target = .lane i → l.unmet c fenced o = first [mode, queued, (!l.laneHasRoom c i, .laneFull)])
    ∧ (o.kind = .clamp → o.target = .zone z → l.unmet c fenced o = first [mode, queued])
    ∧ (o.kind = .unclamp → o.target = .zone z → l.unmet c fenced o = first [mode, queued, (!l.zoneIdle c z, .inZone)])
    ∧ (o.kind = .park → l.unmet c fenced o = first [mode, queued, position])
    ∧ (l.queued o = true ↔
        (∃ older x younger, l.pool = older ++ x :: younger ∧ (∀ y ∈ older, y.slot ≠ o.slot) ∧ x.slot = o.slot ∧ x.tag = o.tag)
        ∧ ∀ j, l.slots[o.slot].work ≠ .heat j)
    ∧ (l.predecessorsSet c hole = true ↔
        ∃ r, c.row? hole = some r ∧ ∀ p ∈ r.preds, ∃ x, l.hole? p = some x ∧ x.state = .set)
    ∧ (l.zoneReady c hole = true ↔
        ∃ r, c.row? hole = some r ∧ l.zones[r.zone].state = .clamped ∧ l.zones[r.zone].expected = false)
    ∧ (l.laneHasRoom c i = true ↔ l.laneState c i ≠ .off
        ∧ l.lanes[i].stock.length + (if l.laneState c i = .heating then 1 else 0) < 4)
    ∧ (l.zoneIdle c z = true ↔ ∀ x ∈ l.pool, ∀ n r, x.hole? = some n → c.row? n = some r → r.zone = z →
        x.state ≠ .issued ∧ x.state ≠ .running ∧ ¬ (x.state = .aborting ∧ x.step = some .operation)))
  ∧ (∀ (c : Setup) (t : Taking),
      (t.gateDue = false → t.settle c = t.settleRails c)
      ∧ (t.gateDue = true → t.settle c =
          let u := t.settleRails c
          { ((u.live.pool.map Order.tag).foldl (weighOrder c) (u, false)).1 with gateDue := false }))
  ∧ ∀ (c : Setup) (t : Taking) (f : Bool) (tag : Nat),
    (t.live.order? tag = none → weighOrder c (t, f) tag = (t, f))
    ∧ ∀ o, t.live.order? tag = some o →
      let goes := fun u : Taking => weighOrder c (t, f) tag = (u.settleRails c, f)
      let admitted := ∀ n, o.hole? = some n → ∃ x, t.live.hole? n = some x ∧ o.kind.admittedBy x.state = true
      let noted := fun r : WaitReason =>
        { t with live := { t.live with pool := t.live.pool.map fun x => if x.tag = tag then { x with wait := some r } else x } }
      (o.state ≠ .waiting → weighOrder c (t, f) tag = (t, f))
      ∧ (o.state = .waiting → ¬ admitted → goes (t.leave c o .withdrawn (some .holeChanged) none))
      ∧ (o.state = .waiting → admitted →
        (t.live.unmet c f o = none →
          let beside := ∃ i : LaneId, o.kind = .heat ∧ o.target = .lane i ∧ t.live.lanes[i].heat ≠ none
          (o.kind = .park → goes (t.leave c o .completed none none))
          ∧ (o.kind ≠ .park → ¬ beside → goes (t.issue c o))
          ∧ (beside → goes (noted .laneFull)))
        ∧ ∀ r, t.live.unmet c f o = some r →
          (r = .queued ∨ r = .predecessor ∨ r = .zone → goes ((noted r).withdrawClaim tag))
          ∧ (r = .position → t.live.request? tag = none → ∀ g target, t.live.holdings[o.slot] = some g →
              o.centre = some target →
              let q : Request :=
                { slot := o.slot, tag, target, sweep := sweepOf g.run target, waited := 0
                  patience := c.acted Timing.claimPatience, urgent := false }
              goes (((noted r).on fun l => l.setRequests g.rail (l.requests g.rail ++ [q])).wakeRail g.rail))
          ∧ (r = .position → t.live.request? tag ≠ none → goes (noted r))
          ∧ (r = .pump → ∀ hole, o.hole? = some hole →
              weighOrder c (t, f) tag = ((noted r).settleRails c,
                f || (t.live.hole? hole).any fun x => (t.live.bestRivet c x.cls).isSome))
          ∧ (r = .mode ∨ r = .rivet ∨ r = .laneFull ∨ r = .inZone → goes (noted r)))

/-- The rivet of a SET (R33, R38): of the class required, unassigned, with the TRANSFER ALLOWANCE left, and none older. -/
def Obligations.OldestRivet : Prop :=
  ∀ (c : Setup) (l : Live) (cls : Nat),
    let fits := fun r : Rivet =>
      r.tag = none ∧ r.cls = cls ∧ c.acted Timing.transferAllowance ≤ r.window - (c.now - r.heatEnd)
    (l.bestRivet c cls = none ↔ ∀ i : LaneId, ∀ r ∈ l.lanes[i].stock, ¬ fits r)
    ∧ ∀ i place r, l.bestRivet c cls = some (i, place, r) →
        l.lanes[i].stock[place]? = some r ∧ fits r
        ∧ ∀ (j : LaneId) (n : Nat) (q : Rivet), l.lanes[j].stock[n]? = some q → fits q →
            (∀ k : LaneId, (l.lanes[k].stock.map Rivet.heatEnd).Pairwise (· ≤ ·)) →
            r.heatEnd ≤ q.heatEnd ∧ (q.heatEnd = r.heatEnd → i = 1 → j = 1)

/-- The issue of a DRILL or REAM (R37, R39): the hole DRILLING, the order ISSUED with the state its hole left, the slot BUSY
in a full ACCEPT stage, and the ISSUE queued. The issue of a SET (R38): the same, with the oldest fitting rivet assigned in
its stock and the force class of the hole taken as pump units. -/
def Obligations.HoleOrdersIssued : Prop :=
  (∀ (c : Setup) (t : Taking) (o : Order) (hole : Nat) (r : PatternRow) (x : Hole),
      (o.kind = .drill ∨ o.kind = .ream) → o.target = .hole hole →
      c.row? hole = some r → t.live.hole? hole = some x → o.kind.admittedBy x.state = true →
      t.issue c o = { t with live :=
        ({ t.live with
            holes := t.live.holes.set (hole - 1) { x with state := .drilling }
            pool := t.live.pool.map fun y => if y.tag = o.tag then
              { y with state := .issued, wait := none, before := some x.state, rivet := none, units := none
                       issueMark := some .unsent } else y
            slots := t.live.slots.set o.slot { t.live.slots[o.slot] with
              state := .busy, work := .order o.tag
              timer := some { stage := .accept, left := c.acted Timing.acceptLimit } } } : Live).queue c o.slot (.issue o.tag
          (.drill o.kind hole r.centre r.offset r.plies r.grip r.diameter x.cls (o.feed.getD 0))) })
  ∧ ∀ (c : Setup) (t : Taking) (o : Order) (hole place : Nat) (r : PatternRow) (x : Hole) (i : LaneId) (v : Rivet),
      o.kind = .set → o.target = .hole hole →
      c.row? hole = some r → t.live.hole? hole = some x → (x.state = .drilled ∨ x.state = .oversize) →
      t.live.predecessorsSet c hole = true → t.live.bestRivet c x.cls = some (i, place, v) →
      t.issue c o = { t with live :=
        ({ t.live with
            holes := t.live.holes.set (hole - 1) { x with state := .setting }
            lanes := t.live.lanes.set i { t.live.lanes[i] with
              stock := t.live.lanes[i].stock.set place { v with tag := some o.tag } }
            unitsInUse := t.live.unitsInUse + r.force
            pool := t.live.pool.map fun y => if y.tag = o.tag then
              { y with state := .issued, wait := none, before := some x.state
                       rivet := some { lane := i, serial := v.serial, whereabouts := .lane }, units := some r.force
                       issueMark := some .unsent } else y
            slots := t.live.slots.set o.slot { t.live.slots[o.slot] with
              state := .busy, work := .order o.tag
              timer := some { stage := .accept, left := c.acted Timing.acceptLimit } } } : Live).queue c o.slot (.issue o.tag
          (.set hole r.centre r.offset r.plies r.grip x.cls r.force i v.serial)) }

/-- The issue of a HEAT, CLAMP or UNCLAMP (R37, R39): the order ISSUED, the slot BUSY in a full ACCEPT stage, the ISSUE
queued; a HEAT opens its lane's heat record (R84), and an UNCLAMP sets its zone's unclamp-expected flag unless the zone is
OPEN (R106). -/
def Obligations.OtherOrdersIssued : Prop :=
  ∀ (c : Setup) (t : Taking) (o : Order) (i : LaneId) (z : ZoneId),
    let issued := fun (l : Live) (body : IssueBody) =>
      ({ l with
          pool := l.pool.map fun y => if y.tag = o.tag then
            { y with state := .issued, wait := none, before := none, rivet := none, units := none
                     issueMark := some .unsent } else y
          slots := l.slots.set o.slot { l.slots[o.slot] with
            state := .busy, work := .order o.tag
            timer := some { stage := .accept, left := c.acted Timing.acceptLimit } } } : Live).queue c o.slot (.issue o.tag body)
    (o.kind = .heat → o.target = .lane i →
      let g : Heat :=
        { tag := o.tag, origin := .order, slot := o.slot, cls := c.tables.lanes[i].cls, serial := none, step := none
          mark := none }
      let l := { t.live with lanes := t.live.lanes.set i { t.live.lanes[i] with heat := some g } }
      t.issue c o = { t with live := issued l (.heat i c.tables.lanes[i].cls) })
    ∧ (o.kind = .clamp → o.target = .zone z → ∀ n, o.channel = some n →
      t.issue c o = { t with live := issued t.live (.clamp .clamp z n) })
    ∧ (o.kind = .unclamp → o.target = .zone z → ∀ n, o.channel = some n →
      let x := t.live.zones[z]
      let flagged : Zone := { x with expected := if x.state = .opened then x.expected else true }
      t.issue c o = { t with live := issued { t.live with zones := t.live.zones.set z flagged } (.clamp .unclamp z n) })

/-- CANCEL (R45): refused LOCKED, then UNKNOWN_TAG; a WAITING order leaves CANCELLED with TAKEN LEFT ahead of its ORDER DONE;
one ABORTING gets the flag; one whose message is sent is aborted; and one whose message is unsent has it taken back and leaves
CANCELLED at once, TAKEN LEFT first. Whatever aborts it, an order whose message is unsent has it taken back and goes as its
flag and its slot say (R46, R47, R69). That an ISSUE which an early DONE left queued to the slot is taken off with it is the
model's choice (log entry 27). -/
def Obligations.Cancel : Prop :=
  (∀ (h : Header) (s : State), Weighed s → Plain h 4 →
    (s.setup.lockout = true → exec (.cancel h) s = .next (replied s (.refused h.tag .locked)))
    ∧ (s.setup.lockout = false → (h.tag = 0 ∨ s.live.order? h.tag = none) →
        exec (.cancel h) s = .next (replied s (.refused h.tag .unknownTag)))
    ∧ ∀ o, s.setup.lockout = false → h.tag ≠ 0 → s.live.order? h.tag = some o →
      (o.state = .waiting →
        ∃ t, exec (.cancel h) s = .next t ∧ t.setup = s.setup ∧ t.pending = s.pending
          ∧ t.live.order? h.tag = none ∧ t.live.request? h.tag = none ∧ t.live.notices = s.live.notices
          ∧ ∃ before after, t.live.cell.bodies =
              before ++ [.taken h.tag .left, orderDone s.live o .cancelled none] ++ after
              ∧ before = s.live.cell.bodies)
      ∧ (o.state = .aborting →
        exec (.cancel h) s = .next { s with live :=
          (((closed s).live.updOrder h.tag fun x => { x with cancel := true }).place s.setup
            (.taken h.tag .aborting)).syncCadences s.setup })
      ∧ (o.state = .issued ∨ o.state = .running ∨ o.state = .travelling → o.unsent = false →
        exec (.cancel h) s = .next { s with live :=
          ((((((closed s).live.updOrder h.tag fun x => { x with cancel := true }).updOrder h.tag fun x =>
              { x with state := .aborting, cause := some .cancel
                       step := some (if o.state = .travelling then .travel else .operation) }).queue s.setup o.slot
            (.abort h.tag)).startStage o.slot .abort (s.setup.acted Timing.acceptLimit)).place s.setup
            (.taken h.tag .aborting)).syncCadences s.setup })
      ∧ (o.state = .issued ∨ o.state = .running ∨ o.state = .travelling → o.unsent = true →
        ∃ u : Taking, exec (.cancel h) s = .next (settled s u)
          ∧ TakenBack s.setup s.live { o with cancel := true } u.live
          ∧ u.live.order? h.tag = none ∧ u.gateDue = true ∧ u.live.notices = s.live.notices
          ∧ u.live.cell.bodies = s.live.cell.bodies ++
              [.taken h.tag .left, orderDone u.live { o with cancel := true } .cancelled none]))
  ∧ ∀ (c : Setup) (t : Taking) (o : Order) (cause : AbortCause), o.unsent = true → t.holdDones = false →
    t.live.order? o.tag = some o →
    let u := t.abort c o cause
    TakenBack c t.live o u.live ∧ GoesBack t.live o u.live ∧ u.live.notices = t.live.notices
      ∧ (t.live.slots[o.slot].state = .busy → u.gateDue = true)

/-- A head report that matches no order is ignored with PROTOCOL (R42): DONE, ABORTED and ACCEPT of a tag that is no order of
the slot, and with tag 0 where the slot has no heat of a lane's own (R88). Any report from an EMPTY slot is set aside so
(R174). -/
def Obligations.StrayReports : Prop :=
  (∀ (slot : SlotId) (hs n centre : Nat) (serial : Option Nat) (b : DoneBody) (body : HelloBody) (s : State) (i : Instr),
    s.setup.resetHeld = false → s.live.slots[slot].state = .empty →
    i = .hello slot hs n body ∨ i = .accept slot hs n serial ∨ i = .done slot hs n b ∨ i = .abortedNone slot hs n
      ∨ i = .abortedPartial slot hs n ∨ i = .arrived slot hs n centre ∨ i = .fault slot hs n ∨ i = .leverOpen slot hs
      ∨ i = .leverClosed slot hs →
    exec i s = .next (setAside s slot hs))
  ∧ ∀ (slot : SlotId) (hs tag centre : Nat) (serial : Option Nat) (b : DoneBody) (s : State), Reports s slot →
    (tag = 0 → (framed s slot hs).ownHeat slot = none) → (tag ≠ 0 → (framed s slot hs).orderOf? slot tag = none) →
    exec (.accept slot hs tag serial) s = .next (setAside s slot hs)
    ∧ exec (.done slot hs tag b) s = .next (setAside s slot hs)
    ∧ exec (.abortedNone slot hs tag) s = .next (setAside s slot hs)
    ∧ exec (.abortedPartial slot hs tag) s = .next (setAside s slot hs)
    ∧ (s.live.travels[slot] = none → exec (.arrived slot hs tag centre) s = .next (setAside s slot hs))

/-- ACCEPT of an order (R40): of an ISSUED one, RUNNING, the RUN stage in full by the kind, and the rivet of a SET CARRIED
out of its stock; of a RUNNING or ABORTING one, no change; of a WAITING or TRAVELLING one, or with a serial for work that is
no heat, set aside. -/
def Obligations.Accepts : Prop :=
  ∀ (slot : SlotId) (hs tag : Nat) (serial : Option Nat) (o : Order) (s : State), Reports s slot → tag ≠ 0 →
    s.live.orderOf? slot tag = some o →
    ((serial.isSome = true ∧ o.kind ≠ .heat) ∨ o.state = .waiting ∨ o.state = .travelling →
      exec (.accept slot hs tag serial) s = .next (setAside s slot hs))
    ∧ ((serial.isSome = true → o.kind = .heat) → o.state = .running ∨ o.state = .aborting →
      exec (.accept slot hs tag serial) s = .next { s with live := framed s slot hs })
    ∧ (o.state = .issued → (serial.isSome = true → o.kind = .heat) → ∃ l : Live,
      exec (.accept slot hs tag serial) s = .next { s with live := l }
      ∧ l.pool = s.live.pool.map (fun x => if x.tag = tag then
          { x with state := .running, rivet := x.rivet.map fun r => { r with whereabouts := .carried } } else x)
      ∧ l.slots[slot] = { s.live.slots[slot] with
          timer := some { stage := .run, left := s.setup.acted (match o.kind with
            | .drill => Timing.drillLimit
            | .ream => Timing.reamLimit
            | .set => Timing.setLimit
            | .heat => Timing.heatLimit
            | _ => Timing.clampLimit) } }
      ∧ (∀ j, j ≠ slot → l.slots[j] = s.live.slots[j])
      ∧ (∀ i : LaneId, l.lanes[i].stock =
          if o.rivet.any fun r => r.lane == i && r.whereabouts == .lane then
            s.live.lanes[i].stock.filter (fun r => r.tag != some tag) else s.live.lanes[i].stock)
      ∧ (o.kind = .heat → ∀ i : LaneId, o.target = .lane i →
          l.lanes[i].heat = s.live.lanes[i].heat.map fun g => if g.slot = slot then { g with serial } else g)
      ∧ (o.kind ≠ .heat → ∀ i : LaneId, l.lanes[i].heat = s.live.lanes[i].heat)
      ∧ l.holes = s.live.holes ∧ l.holdings = s.live.holdings ∧ l.travels = s.live.travels ∧ l.zones = s.live.zones
      ∧ l.requestsA = s.live.requestsA ∧ l.requestsB = s.live.requestsB ∧ l.unitsInUse = s.live.unitsInUse
      ∧ l.cell = s.live.cell ∧ l.notices = s.live.notices ∧ l.heads = (framed s slot hs).heads)

/-- DONE of an order under its operation (R41, R44, R50): the order leaves COMPLETED, with the cause of an overtaken abort;
its ORDER DONE carries the hole as the completion left it; its pump units return, its rivet leaves the stock (R94), a HEAT's
rivet joins the lane (R83), an UNCLAMP's flag clears, a DRILL or REAM counts on the tool and may spend it, which withdraws the
slot's waiting DRILL and REAM orders, their claims with them (R137, R61); the slot's work and timer end, and an ABORT still
unsent to it is gone (R175). A gauge or force code that names no result records PROTOCOL in the slot's link status, in the
second case of R15 and R16 alone (log entry 14, DEDUCED); the other holes stand. That an ISSUE still unsent, where the DONE
completes an ISSUED order, stays queued is the model's choice (log entry 27). A DONE of an order that is not under its
operation, or of a length that does not fit its kind, is set aside. -/
def Obligations.DoneReports : Prop :=
  (∀ (slot : SlotId) (hs tag : Nat) (b : DoneBody) (o : Order) (s : State), Reports s slot → tag ≠ 0 →
    s.live.orderOf? slot tag = some o → o.operating = false ∨ doneResult o.kind b = none →
    exec (.done slot hs tag b) s = .next (setAside s slot hs))
  ∧ ∀ (slot : SlotId) (hs tag : Nat) (b : DoneBody) (o : Order) (code value : Nat) (heat : Option Nat) (s : State),
    Reports s slot → tag ≠ 0 → s.live.orderOf? slot tag = some o → o.operating = true →
    doneResult o.kind b = some (code, value, heat) →
    ∃ (u : Taking) (d : OrderDone),
      exec (.done slot hs tag b) s = .next (settled s u) ∧ u.gateDue = true
      ∧ Says u.live (.orderDone d) ∧ (∀ m ∈ s.live.cell.bodies, Says u.live m)
      ∧ (d.tag = tag ∧ d.kind = o.kind ∧ d.slot = slot ∧ d.target = o.target ∧ d.outcome = .completed
          ∧ d.cause = (if o.state = .aborting then o.cause.map AbortCause.asDone else none) ∧ d.cancel = o.cancel
          ∧ (o.kind = .heat → d.serial = heat))
      ∧ u.live.order? tag = none
      ∧ (∀ hole x, o.hole? = some hole → s.live.hole? hole = some x →
          let clamped := s.live.holeClamped s.setup hole
          let spoiled := (o.state == .aborting && o.cause == some .clampLost)
            || (o.kind == .set && o.state == .aborting && o.cause == some .rivetCold) || !clamped
            || (o.kind == .set && o.rivet.any fun r => r.whereabouts == .cold)
          let y := if o.kind = .set then Hole.riveted (o.rivet.map AssignedRivet.serial) spoiled code value x
            else Hole.drilled slot spoiled code value x
          u.live.hole? hole = some y ∧ d.holeInfo = some (y.state, y.cls)
          ∧ (o.kind = .drill ∨ o.kind = .ream → d.gauge = y.gauge ∧ d.measure = y.diameter)
          ∧ (o.kind = .set → d.force = y.force ∧ d.measure = y.peak ∧ d.serial = y.rivetSerial)
          ∧ u.live.heads[slot].status =
              (let status := (framed s slot hs).heads[slot].status
              if spoiled = false ∧ code ≠ 1 ∧ code ≠ 2 ∧ code ≠ 3 then status.record .protocol else status))
      ∧ (∀ hole, o.hole? ≠ some hole → u.live.hole? hole = s.live.hole? hole)
      ∧ (o.hole? = none → u.live.heads[slot].status = (framed s slot hs).heads[slot].status)
      ∧ (∀ j, j ≠ slot → u.live.heads[j].status = s.live.heads[j].status)
      ∧ u.live.unitsInUse = s.live.unitsInUse - o.units.getD 0
      ∧ u.live.slots[slot].work = .idle ∧ u.live.slots[slot].timer = none
      ∧ u.live.slots[slot].state = (if s.live.slots[slot].state = .busy then .ready else s.live.slots[slot].state)
      ∧ (∀ m ∈ u.live.heads[slot].list, m.isAbort = false)
      ∧ ((∀ i g, o.target = .lane i → s.live.lanes[i].heatOn slot = some g → g.origin = .order) →
          u.live.heads[slot].list = s.live.heads[slot].list.filter (fun m => !m.isAbort)
          ∧ u.live.heads[slot].sending = s.live.heads[slot].sending)
      ∧ (∀ z : ZoneId, u.live.zones[z] =
          if o.kind = .unclamp ∧ o.target = .zone z then { s.live.zones[z] with expected := false } else s.live.zones[z])
      ∧ (∀ i : LaneId,
          let kept := if rivetIn o i = true then stockWithout tag s.live.lanes[i].stock else s.live.lanes[i].stock
          (¬ (o.kind = .heat ∧ o.target = .lane i) → u.live.lanes[i] = { s.live.lanes[i] with stock := kept })
          ∧ ∀ g n, o.kind = .heat → o.target = .lane i → heat = some n → s.live.lanes[i].heatOn slot = some g →
              g.origin = .order ∨ s.setup.tables.lanes[i].slot = some slot →
              u.live.lanes[i] = { s.live.lanes[i] with
                heat := s.live.lanes[i].heatOff slot, late := false
                stock := kept ++ [{ serial := n, cls := g.cls, heatEnd := s.setup.now
                                    window := s.setup.acted Timing.heatWindow, tag := none }] })
      ∧ (let drills := o.kind = .drill ∨ o.kind = .ream
        let tool := s.live.slots[slot].tool
        let spends := drills ∧ ∃ x, tool = some x ∧ x.spent = false ∧ x.limit ≤ min (x.count + 1) 65535
        (¬ drills → u.live.slots[slot].tool = tool)
        ∧ (drills → u.live.slots[slot].tool = tool.map fun x =>
            let n := min (x.count + 1) 65535
            { x with count := n, spent := x.spent || decide (x.limit ≤ n) })
        ∧ (¬ spends → o.kind ≠ .heat → u.live.notices = s.live.notices)
        ∧ (spends → u.live.notices = (s.live.postSlot slot .toolSpent (.tag tag)).notices
            ∧ ∀ x ∈ s.live.pool, x.slot = slot → x.state = .waiting → x.kind = .drill ∨ x.kind = .ream → x.tag ≠ tag →
                u.live.order? x.tag = none ∧ u.live.request? x.tag = none
                ∧ ∃ e, Says u.live (.orderDone e) ∧ e.tag = x.tag ∧ e.outcome = .withdrawn ∧ e.cause = some .toolSpent))

/-- ABORTED NONE (R48): the hole returns, the rivet is freed in its stock, or leaves it where the lane's heater is lost (R94), the
units return, and the order goes by its cancel flag and its slot. ABORTED PARTIAL (R49): the order leaves ABORTED, CANCEL
reported as CANCEL_LATE, its hole takes R18, and its rivet leaves the stock with no DISCARD. After either the slot's work and
timer have ended and a BUSY slot is READY. Either of an order that is not ABORTING its operation is set aside. That an ABORT
still unsent is gone after an ABORTED is the model's reading of R175, which speaks of an end by any other report (DEDUCED, log
entry 20). -/
def Obligations.AbortedReports : Prop :=
  (∀ (slot : SlotId) (hs tag : Nat) (o : Order) (s : State), Reports s slot → tag ≠ 0 →
    s.live.orderOf? slot tag = some o → ¬ (o.state = .aborting ∧ o.step = some .operation) →
    exec (.abortedNone slot hs tag) s = .next (setAside s slot hs)
    ∧ exec (.abortedPartial slot hs tag) s = .next (setAside s slot hs))
  ∧ (∀ (slot : SlotId) (hs tag : Nat) (o : Order) (s : State), Reports s slot → tag ≠ 0 →
    s.live.orderOf? slot tag = some o → (s.live.pool.map Order.tag).Nodup → o.state = .aborting → o.step = some .operation →
    ∃ u : Taking,
      exec (.abortedNone slot hs tag) s = .next (settled s u)
      ∧ (∀ hole x b, o.hole? = some hole → s.live.hole? hole = some x → o.before = some b →
          u.live.hole? hole = some (Hole.returned (some b) (s.live.holeClamped s.setup hole) x))
      ∧ u.live.unitsInUse = s.live.unitsInUse - o.units.getD 0
      ∧ (∀ i : LaneId, o.kind = .heat → o.target = .lane i →
          u.live.lanes[i].heat = s.live.lanes[i].heatOff slot)
      ∧ (∀ z : ZoneId, o.kind = .unclamp → o.target = .zone z → u.live.zones[z].expected = false)
      ∧ (∀ i : LaneId, u.live.lanes[i].stock =
          if rivetIn o i = true then
            if s.setup.tables.lanes[i].slot.any (fun j => !s.live.slots[j].state.joined) = true then
              stockWithout tag s.live.lanes[i].stock
            else stockFreed tag s.live.lanes[i].stock
          else s.live.lanes[i].stock)
      ∧ WorkOver s.live slot u.live
      ∧ (o.cancel = true → u.live.order? tag = none ∧ ∃ d, Says u.live (.orderDone d)
          ∧ d.tag = tag ∧ d.outcome = .cancelled ∧ d.cause = none)
      ∧ (o.cancel = false → s.live.slots[slot].state = .leaving → u.live.order? tag = none ∧
          ∃ d, Says u.live (.orderDone d) ∧ d.tag = tag ∧ d.outcome = .withdrawn ∧ d.cause = some .slotLeaving)
      ∧ (o.cancel = false → s.live.slots[slot].state ≠ .leaving →
          u.live.order? tag = some { o with
            state := .waiting, wait := none, before := none, rivet := none, units := none, cause := none, step := none
            travelMark := none, issueMark := none }))
  ∧ ∀ (slot : SlotId) (hs tag : Nat) (o : Order) (s : State), Reports s slot → tag ≠ 0 →
    s.live.orderOf? slot tag = some o → o.state = .aborting → o.step = some .operation →
    ∃ (u : Taking) (d : OrderDone),
      exec (.abortedPartial slot hs tag) s = .next (settled s u)
      ∧ Says u.live (.orderDone d) ∧ d.tag = tag ∧ d.kind = o.kind ∧ d.slot = slot ∧ d.outcome = .aborted
      ∧ d.cause = o.cause.map (fun k => if k = .cancel then DoneCause.cancelLate else k.asDone) ∧ d.cancel = o.cancel
      ∧ (∀ hole x, o.hole? = some hole → s.live.hole? hole = some x →
          u.live.hole? hole = some (Hole.partial_ o x)
          ∧ d.holeInfo = some ((Hole.partial_ o x).state, (Hole.partial_ o x).cls))
      ∧ u.live.unitsInUse = s.live.unitsInUse - o.units.getD 0
      ∧ (∀ i : LaneId, o.kind = .heat → o.target = .lane i →
          u.live.lanes[i].heat = s.live.lanes[i].heatOff slot)
      ∧ (∀ z : ZoneId, o.kind = .unclamp → o.target = .zone z → u.live.zones[z].expected = false)
      ∧ (∀ i : LaneId, u.live.lanes[i].stock =
          if rivetIn o i = true then stockWithout tag s.live.lanes[i].stock else s.live.lanes[i].stock)
      ∧ u.live.order? tag = none ∧ WorkOver s.live slot u.live

/-! ### Rails, pump share and tables -/

/-- Spans and sweeps (R57, R60): the span of a centre, and the sweep as the hull of the holding and the target's span. One
request weighed (R64) and its grant (R65): granted when no other slot holds a segment of its sweep and no older URGENT
request fences it. A rail examination weighs each request once, oldest first, and is taken in RUN and STANDBY alone (R63). A
withdrawn claim leaves its list, and an URGENT one makes its rail due (R61). -/
def Obligations.RailGrant : Prop :=
  (∀ c seg, c ≤ 15 → ((span c).contains seg = true ↔ seg ≤ 15 ∧ (seg + 1 = c ∨ seg = c ∨ seg = c + 1)))
    ∧ (∀ (g : Run) (t : Nat), g.first ≤ g.last → g.last ≤ 15 → t ≤ 15 →
      (sweepOf g t).first = min g.first (span t).first ∧ (sweepOf g t).last = max g.last (span t).last
        ∧ g.inside (sweepOf g t) = true ∧ (span t).inside (sweepOf g t) = true)
    ∧ (∀ (c : Setup) (r : Rail) (l : Live) (fences : List Run) (q : Request) (g : Holding), l.holdings[q.slot] = some g →
      let meets := fun a b : Run => a.first ≤ b.last ∧ b.first ≤ a.last
      let free := (∀ x : SlotId, x ≠ q.slot → ∀ k, l.holdings[x] = some k → k.rail = r → ¬ meets k.run q.sweep)
        ∧ ∀ f ∈ fences, ¬ meets q.sweep f
      (free → weighRequest c r (l, fences) q =
        (({ l with
            requestsA := if r = .a then l.requestsA.filter (fun x => x.tag != q.tag) else l.requestsA
            requestsB := if r = .b then l.requestsB.filter (fun x => x.tag != q.tag) else l.requestsB
            holdings := l.holdings.set q.slot (some { rail := r, run := q.sweep })
            travels := l.travels.set q.slot (some { tag := q.tag, target := q.target, sweep := q.sweep, former := g.run })
            pool := l.pool.map fun o => if o.tag = q.tag then
              { o with state := .travelling, wait := none, travelMark := some .unsent } else o
            slots := l.slots.set q.slot { l.slots[q.slot] with
              state := .busy, work := .order q.tag
              timer := some { stage := .travel, left := c.acted Timing.travelLimit } } } : Live).queue c q.slot
          (.travel q.tag q.target), fences))
      ∧ (¬ free → weighRequest c r (l, fences) q = (l, if q.urgent = true then fences ++ [q.sweep] else fences)))
    ∧ (∀ (c : Setup) (l : Live),
      l.examineRail c .a = (l.requestsA.foldl (weighRequest c .a) (l, [])).1
      ∧ l.examineRail c .b = (l.requestsB.foldl (weighRequest c .b) (l, [])).1)
    ∧ (∀ (c : Setup) (t : Taking),
      let examined := fun (due : Bool) (r : Rail) (l : Live) =>
        if due = true ∧ (c.mode = .run ∨ c.mode = .standby) then l.examineRail c r else l
      t.settleRails c = { t with
        live := examined t.railBDue .b (examined t.railADue .a t.live), railADue := false, railBDue := false })
    ∧ ∀ (t : Taking) (tag : Nat), t.withdrawClaim tag = { t with
        live := { t.live with
          requestsA := t.live.requestsA.filter fun q => q.tag != tag
          requestsB := t.live.requestsB.filter fun q => q.tag != tag }
        railADue := t.railADue || t.live.requestsA.any fun q => q.tag == tag && q.urgent
        railBDue := t.railBDue || t.live.requestsB.any fun q => q.tag == tag && q.urgent }

/-- An ARRIVED that is not expected is set aside (R66). A good ARRIVED (R67, R68): the holding narrows to the span of the
centre, the travel closes, the slot's work has ended with an ABORT still unsent gone (R134, R175), and the order is requeued,
or leaves by its cancel flag or its LEAVING slot. -/
def Obligations.Arrivals : Prop :=
  (∀ (slot : SlotId) (hs tag centre : Nat) (s : State), Reports s slot →
    (∀ v o, s.live.travels[slot] = some v → v.tag = tag → s.live.orderOf? slot tag = some o →
      o.travelMark = some .sent → ¬ (o.state = .travelling ∨ (o.state = .aborting ∧ o.step = some .travel))) →
    exec (.arrived slot hs tag centre) s = .next (setAside s slot hs))
  ∧ ∀ (slot : SlotId) (hs tag centre : Nat) (v : Travel) (o : Order) (g : Holding) (s : State), Reports s slot →
    s.live.travels[slot] = some v → v.tag = tag → s.live.orderOf? slot tag = some o → o.travelMark = some .sent →
    s.live.holdings[slot] = some g → (s.live.pool.map Order.tag).Nodup →
    ((o.state = .travelling ∧ centre = v.target)
      ∨ (o.state = .aborting ∧ o.step = some .travel ∧ centre ≤ 15 ∧ (span centre).inside v.sweep = true)) →
    ∃ u : Taking,
      exec (.arrived slot hs tag centre) s = .next (settled s u) ∧ u.gateDue = true
      ∧ u.live.holdings[slot] = some { rail := g.rail, run := span centre } ∧ u.live.travels[slot] = none
      ∧ WorkOver s.live slot u.live
      ∧ u.live.holes = s.live.holes ∧ u.live.unitsInUse = s.live.unitsInUse ∧ u.live.notices = s.live.notices
      ∧ (let leaves := fun (outcome : OrderOutcome) (cause : Option DoneCause) =>
          u.live.order? tag = none ∧ Says u.live (orderDone s.live o outcome cause)
        (o.state = .aborting → o.cancel = true → leaves .cancelled none)
        ∧ ((o.state = .travelling ∨ o.cancel = false) → s.live.slots[slot].state = .leaving →
            (o.kind = .park ∧ centre = v.target → u.live.order? tag = none ∧
              ∃ d, Says u.live (.orderDone d) ∧ d.tag = tag ∧ d.outcome = .completed ∧ d.cause = none)
            ∧ (¬ (o.kind = .park ∧ centre = v.target) → leaves .withdrawn (some .slotLeaving)))
        ∧ ((o.state = .travelling ∨ o.cancel = false) → s.live.slots[slot].state ≠ .leaving →
            u.live.order? tag = some { o with
              state := .waiting, wait := none, before := none, rivet := none, units := none, cause := none, step := none
              travelMark := none, issueMark := none }))

/-- TABLE WRITE TIMING and PUMP (R178, R75). -/
def Obligations.TimingAndPumpWrites : Prop :=
  ∀ (h : Header) (entry value v : Nat) (s : State), Weighed s →
    (Selects h 1 9 → ∀ e, timingOf entry = some e →
      let t := s.setup.tables.timing.set e value
      let bad := timingMaxima[e] < value
        ∨ max t[Timing.heatWindow] 4000 ≤ max t[Timing.transferAllowance] 500
      (bad → exec (.tableWriteTiming h entry value) s = .next (answered s h (.refused .badValue)))
      ∧ (¬ bad → exec (.tableWriteTiming h entry value) s = .next (answered
          { s with setup := { s.setup with tables := { s.setup.tables with timing := t } } } h
          (.timingWritten entry value (max value timingMinima[e])))))
    ∧ (Selects h 1 9 → timingOf entry = none →
        exec (.tableWriteTiming h entry value) s = .next (answered s h (.refused .badValue)))
    ∧ (Selects h 5 5 → (v = 0 ∨ 15 < v) → exec (.tableWritePump h v) s = .next (answered s h (.refused .badValue)))
    ∧ (Selects h 5 5 → 1 ≤ v → v ≤ 15 →
        let s' := { s with setup := { s.setup with tables := { s.setup.tables with budget := v } } }
        exec (.tableWritePump h v) s = .next (settled s'
          (Taking.start (answered s' h (.pumpWritten v s.live.unitsInUse)).live).wakeGate))

/-- TABLE WRITE SLOT and LANE (R114, R80): the entries within their ranges, spelled by the codes of R178 (R114 check 1, R80
check 1), the refusals in their order, and the entry replaced. -/
def Obligations.SlotAndLaneWrites : Prop :=
  (∀ (a b c : Nat) (i : SlotId) (e : SlotEntry), slotEntryOf a b c = some (i, e) ↔
    a = i.val + 1 ∧ c ≤ 15 ∧ e.home = c
      ∧ ((b = 0 ∧ e.expected = none) ∨ (b = 1 ∧ e.expected = some .drill) ∨ (b = 2 ∧ e.expected = some .set)
        ∨ (b = 3 ∧ e.expected = some .heat) ∨ (b = 4 ∧ e.expected = some .clamp)))
  ∧ (∀ (a b c d f : Nat) (i : LaneId) (e : LaneEntry), laneEntryOf a b c d f = some (i, e) ↔
    a = i.val + 1 ∧ ((b = 0 ∧ e.slot = none) ∨ ∃ j : SlotId, b = j.val + 1 ∧ e.slot = some j)
      ∧ 1 ≤ c ∧ c ≤ 6 ∧ e.cls = c ∧ ((d = 1 ∧ e.mode = .manual) ∨ (d = 2 ∧ e.mode = .auto)) ∧ f ≤ 4 ∧ e.target = f)
  ∧ ∀ (h : Header) (a b c d f : Nat) (s : State), Weighed s →
    (Selects h 2 7 → slotEntryOf a b c = none →
      exec (.tableWriteSlot h a b c) s = .next (answered s h (.refused .badValue)))
    ∧ (Selects h 2 7 → ∀ i e, slotEntryOf a b c = some (i, e) →
        let wrong := e.expected ≠ none ∧ s.live.slots[i].state.joined = true ∧ s.live.slots[i].kind? ≠ e.expected
        (wrong → exec (.tableWriteSlot h a b c) s = .next (answered s h (.refused .wrongKind)))
        ∧ (¬ wrong → exec (.tableWriteSlot h a b c) s = .next (answered
            { s with setup := { s.setup with tables := { s.setup.tables with slots := s.setup.tables.slots.set i e } } } h
            (.slotWritten s.live.slots[i].state))))
    ∧ (Selects h 4 9 → laneEntryOf a b c d f = none →
        exec (.tableWriteLane h a b c d f) s = .next (answered s h (.refused .badValue)))
    ∧ (Selects h 4 9 → ∀ i e, laneEntryOf a b c d f = some (i, e) →
        let old := s.setup.tables.lanes[i]
        let idle := fun x : Option SlotId => ∀ j, x = some j →
          s.live.slots[j].state = .empty ∨ s.live.slots[j].state = .joining
        let taken := e.slot ≠ none ∧ ∃ j : LaneId, j ≠ i ∧ s.setup.tables.lanes[j].slot = e.slot
        let inUse := ((e.cls ≠ old.cls ∨ e.slot ≠ old.slot)
            ∧ (s.live.lanes[i].stock ≠ [] ∨ s.live.lanes[i].heat ≠ none))
          ∨ (e.slot ≠ old.slot ∧ ¬ (idle old.slot ∧ idle e.slot))
        (taken → exec (.tableWriteLane h a b c d f) s = .next (answered s h (.refused .badValue)))
        ∧ (¬ taken → inUse → exec (.tableWriteLane h a b c d f) s = .next (answered s h (.refused .inUse)))
        ∧ (¬ taken → ¬ inUse →
            let setup := { s.setup with tables := { s.setup.tables with lanes := s.setup.tables.lanes.set i e } }
            let l := (closed s).live.syncCadences setup
            exec (.tableWriteLane h a b c d f) s = .next
              (({ s with setup, live := l } : State).place (.answer h.tag (.laneWritten (l.laneState setup i))))))

/-- TABLE WRITE ZONE (R101): the entries within their ranges, spelled by the codes of R178 (check 1), the refusals in their
order; a changed entry makes its zone UNKNOWN. -/
def Obligations.ZoneWrite : Prop :=
  (∀ (zone slot channel : Nat) (z : ZoneId) (e : Option ZoneMap), zoneEntryOf zone slot channel = some (z, e) ↔
    zone = z.val + 1 ∧ ((slot = 0 ∧ e = none)
      ∨ ∃ j : SlotId, slot = j.val + 1 ∧ 1 ≤ channel ∧ channel ≤ 4 ∧ e = some { slot := j, channel }))
  ∧ ∀ (h : Header) (zone slot channel : Nat) (s : State), Weighed s → Selects h 3 7 →
    (zoneEntryOf zone slot channel = none →
      exec (.tableWriteZone h zone slot channel) s = .next (answered s h (.refused .badValue)))
    ∧ ∀ z e, zoneEntryOf zone slot channel = some (z, e) →
      let moduleOf := fun p : SlotId → Nat → Bool => e.any fun m => s.live.slots[m.slot].state.joined && p m.slot m.channel
      let cases :=
        [ (s.setup.frame.isSome, Reason.frameBound),
          (decide (s.setup.tables.zones[z] ≠ e)
            && s.live.pool.any (fun o => (o.kind == .clamp || o.kind == .unclamp) && o.target == .zone z), .inUse),
          (e.isSome && allZones.any (fun x => x != z && s.setup.tables.zones[x] == e), .badValue),
          (moduleOf fun i _ => s.live.slots[i].channels?.isNone, .wrongKind),
          (moduleOf fun i n => s.live.slots[i].channels?.any fun k => decide (k < n), .channels) ]
      (∀ r, firstReason cases = some r →
        exec (.tableWriteZone h zone slot channel) s = .next (answered s h (.refused r)))
      ∧ (firstReason cases = none → s.setup.tables.zones[z] = e →
          exec (.tableWriteZone h zone slot channel) s =
            .next (answered s h (.zoneWritten s.live.zones[z].state)))
      ∧ (firstReason cases = none → s.setup.tables.zones[z] ≠ e →
          let s' := { s with
            setup := { s.setup with tables := { s.setup.tables with zones := s.setup.tables.zones.set z e } }
            live := { s.live with zones := s.live.zones.set z { state := .unknown, expected := false } } }
          let a := answered s' h (.zoneWritten .unknown)
          exec (.tableWriteZone h zone slot channel) s = .next
            (if s.live.zones[z].state = .unknown then a else settled s' (Taking.start a.live).wakeGate))

/-! ### Lanes -/

/-- A rivet whose window ends (R91, R92). Unassigned, it leaves with DISCARD and notice; in a lane whose entry names no slot it
leaves without either, the model's choice (log entry 28). Assigned, it leaves without: no notice is posted, and every head link
stands but for the ABORT to its order's slot. Its order's rivet is COLD, and an ISSUED order is aborted (R51): with its ISSUE
sent it is ABORTING, with its ISSUE unsent the message is taken back (R93, R47), and an ISSUE which an early DONE left queued
goes with it, the model's choice (log entry 27). -/
def Obligations.RivetExpires : Prop :=
  (∀ (i : LaneId) (place : Nat) (s : State), s.setup.resetHeld = false →
    ((s.live.lanes[i].stock[place]? = none ∨ ∃ r tag, s.live.lanes[i].stock[place]? = some r ∧ r.tag = some tag) →
      exec (.rivetExpiryUnassigned i place) s = .next s)
    ∧ ((s.live.lanes[i].stock[place]? = none ∨ ∃ r, s.live.lanes[i].stock[place]? = some r ∧ r.tag = none) →
      exec (.rivetExpiryAssigned i place) s = .next s))
  ∧ ∀ (i : LaneId) (place : Nat) (r : Rivet) (s : State), s.setup.resetHeld = false →
    s.live.lanes[i].stock[place]? = some r →
    let e := s.elapse (r.window - (s.setup.now - r.heatEnd))
    let l := e.live.updLane i fun x => { x with stock := x.stock.eraseIdx place }
    (r.tag = none → s.setup.tables.lanes[i].slot = none → exec (.rivetExpiryUnassigned i place) s = .next { e with live := l })
    ∧ (r.tag = none → ∀ h, s.setup.tables.lanes[i].slot = some h →
      exec (.rivetExpiryUnassigned i place) s = .next { e with live :=
        ((if s.live.slots[h].state.joined = true then l.queueDiscard e.setup h r.serial else l).postSlot h .rivetScrapped
          (.lane i)) })
    ∧ (∀ tag, r.tag = some tag → s.live.order? tag = none →
        exec (.rivetExpiryAssigned i place) s = .next (settled e (Taking.start l)))
    ∧ ∀ tag o, r.tag = some tag → s.live.order? tag = some o →
      let cold := { o with rivet := o.rivet.map fun v => { v with whereabouts := .cold } }
      ∃ u : Taking, exec (.rivetExpiryAssigned i place) s = .next (settled e u)
        ∧ u.live.lanes[i].stock = s.live.lanes[i].stock.eraseIdx place
        ∧ u.live.notices = s.live.notices
        ∧ (o.state = .issued → o.unsent = false → u.live.order? tag = some { cold with
              state := .aborting, cause := some .rivetCold, step := some .operation }
          ∧ u.live.slots[o.slot].timer = some { stage := .abort, left := s.setup.acted Timing.acceptLimit }
          ∧ HeadMsg.abort tag ∈ u.live.heads[o.slot].sending.toList ++ u.live.heads[o.slot].list
          ∧ u.live.heads = (e.live.queue e.setup o.slot (.abort tag)).heads
          ∧ ∀ j, j ≠ o.slot → u.live.heads[j] = e.live.heads[j])
        ∧ (o.state = .issued → o.unsent = true → TakenBack e.setup l cold u.live ∧ GoesBack l cold u.live)
        ∧ (o.state ≠ .issued → u.live.order? tag = some cold ∧ u.live.heads = e.live.heads ∧ u.live.slots = e.live.slots)

/-- A cadence expiry (R86, R87): the timer starts again, and the lane acts by its state. The state of a lane (R79), and the
start and stop of its cadence timer at the end of every taking (R86). That a READY lane whose serving slot has work in flight
issues no heat is the model's choice (log entry 33). -/
def Obligations.CadenceExpires : Prop :=
  (∀ (i : LaneId) (s : State), s.live.lanes[i].cadence = none → exec (.cadenceExpiry i) s = .next s)
  ∧ (∀ (c : Setup) (l : Live) (i : LaneId),
    let serving := ∃ h, c.tables.lanes[i].slot = some h ∧ (l.slots[h].state = .ready ∨ l.slots[h].state = .busy)
      ∧ l.slots[h].head.map Joined.declared = some (.heat i)
    (¬ serving → l.laneState c i = .off)
    ∧ (serving → l.laneState c i = if l.lanes[i].heat = none then .ready else .heating)
    ∧ (l.syncCadences c).lanes[i] = { l.lanes[i] with
        cadence := if c.tables.lanes[i].mode = .auto ∧ (c.mode = .run ∨ c.mode = .hold) ∧ l.laneState c i ≠ .off then
            some (l.lanes[i].cadence.getD (c.acted Timing.cadence))
          else none }
    ∧ { l.syncCadences c with lanes := l.lanes } = l
    ∧ ∀ t : Taking, t.finish c = ((t.settle c).flush c).live.syncCadences c)
  ∧ ∀ (i : LaneId) (n : Nat) (s : State), s.setup.resetHeld = false → s.live.lanes[i].cadence = some n →
    let e := s.elapse n
    let l := e.live.updLane i fun x => { x with cadence := some (s.setup.acted Timing.cadence) }
    (s.live.laneState s.setup i = .off → exec (.cadenceExpiry i) s = .next (settled e (Taking.start l)))
    ∧ ∀ h, s.live.servingSlot s.setup i = some h →
      (s.live.laneState s.setup i = .heating →
        let late := l.updLane i fun x => { x with late := true }
        exec (.cadenceExpiry i) s = .next (settled e (Taking.start
          (if s.live.lanes[i].late = true then late else late.postSlot h .heatLate (.lane i)))))
      ∧ (s.live.laneState s.setup i = .ready →
          s.setup.tables.lanes[i].target ≤ s.live.lanes[i].stock.length ∨ s.live.slots[h].work ≠ .idle →
          exec (.cadenceExpiry i) s = .next (settled e (Taking.start l)))
      ∧ (s.live.laneState s.setup i = .ready → s.live.lanes[i].stock.length < s.setup.tables.lanes[i].target →
          s.live.slots[h].work = .idle →
          let cls := s.setup.tables.lanes[i].cls
          let g : Heat :=
            { tag := 0, origin := .lane, slot := h, cls, serial := none, step := some .issued, mark := some .unsent }
          let stage : StageTimer := { stage := .accept, left := s.setup.acted Timing.acceptLimit }
          let opened := (l.updLane i fun x => { x with heat := some g }).updSlot h fun x =>
            { x with state := .busy, work := .heat i, timer := some stage }
          exec (.cadenceExpiry i) s = .next (settled e (Taking.start (opened.queue e.setup h (.issue 0 (.heat i cls))))))

/-- Reports with tag 0 for a lane's own heat (R88, R89, R83). The end of the heat closes its record and the slot's work, with
an ABORT still unsent gone (R175; after an ABORTED the model's reading, log entry 20). A DONE from a slot that is no longer the
heater slot joins no rivet: DISCARD and RIVET_SCRAPPED go to that slot. That LATE clears there as well is the model's (log
entry 24, DEDUCED), and that an ISSUE still unsent, where the DONE ends an ISSUED heat, stays queued is its choice (log entry
27). -/
def Obligations.LaneHeatReports : Prop :=
  ∀ (slot : SlotId) (hs n : Nat) (serial : Option Nat) (i : LaneId) (g : Heat) (s : State), Reports s slot →
    s.live.ownHeat slot = some (i, g) →
    (g.step = some .issued →
      let stage : StageTimer := { stage := .run, left := s.setup.acted Timing.heatLimit }
      let running := fun x : Heat => if x.slot = slot then { x with step := some .running, serial } else x
      exec (.accept slot hs 0 serial) s = .next { s with live :=
        ((framed s slot hs).updLane i fun x => { x with heat := x.heat.map running }).updSlot slot fun x =>
          { x with timer := some stage } })
    ∧ (g.step ≠ some .issued → exec (.accept slot hs 0 serial) s = .next { s with live := framed s slot hs })
    ∧ (s.setup.tables.lanes[i].slot = some slot →
        ∃ u : Taking, exec (.done slot hs 0 (.serial n)) s = .next (settled s u) ∧ u.gateDue = true
          ∧ u.live.lanes[i].heat = s.live.lanes[i].heatOff slot ∧ u.live.lanes[i].late = false
          ∧ u.live.lanes[i].stock = s.live.lanes[i].stock ++
              [{ serial := n, cls := g.cls, heatEnd := s.setup.now, window := s.setup.acted Timing.heatWindow, tag := none }]
          ∧ WorkOver s.live slot u.live ∧ u.live.notices = s.live.notices)
    ∧ (s.setup.tables.lanes[i].slot ≠ some slot →
        ∃ u : Taking, exec (.done slot hs 0 (.serial n)) s = .next (settled s u)
          ∧ u.live.lanes[i].heat = s.live.lanes[i].heatOff slot ∧ u.live.lanes[i].late = false
          ∧ u.live.lanes[i].stock = s.live.lanes[i].stock
          ∧ u.live.slots[slot].work = .idle ∧ u.live.slots[slot].timer = none
          ∧ u.live.slots[slot].state = (if s.live.slots[slot].state = .busy then .ready else s.live.slots[slot].state)
          ∧ (∀ m ∈ u.live.heads[slot].list, m.isAbort = false)
          ∧ u.live.notices = (s.live.postSlot slot .rivetScrapped (.lane i)).notices
          ∧ ((s.live.heads[slot].list.filter HeadMsg.isDiscard).length < 4 →
              HeadMsg.discard n ∈ u.live.heads[slot].sending.toList ++ u.live.heads[slot].list))
    ∧ (∀ b : DoneBody, (∀ k, b ≠ .serial k) → exec (.done slot hs 0 b) s = .next (setAside s slot hs))
    ∧ (g.step = some .aborting → ∀ i', i' = Instr.abortedNone slot hs 0 ∨ i' = Instr.abortedPartial slot hs 0 →
        ∃ u : Taking, exec i' s = .next (settled s u) ∧ u.live.lanes[i].heat = s.live.lanes[i].heatOff slot
          ∧ u.live.lanes[i].stock = s.live.lanes[i].stock ∧ u.live.lanes[i].fault = s.live.lanes[i].fault
          ∧ WorkOver s.live slot u.live)
    ∧ (g.step ≠ some .aborting → exec (.abortedNone slot hs 0) s = .next (setAside s slot hs)
        ∧ exec (.abortedPartial slot hs 0) s = .next (setAside s slot hs))

/-! ### Zones -/

/-- CLAMP STATE (R102, R103, R106, R107): the cases in their order; the zone takes the state, its flag follows, and a zone that
leaves CLAMPED is swept. With no unclamp expected it is a loss of clamp (R108): the flag stays clear, no hole of the zone is
left DRILLED or OVERSIZE, its ISSUED and RUNNING orders are aborted with CLAMP_LOST (ABORTING, ABORT queued, the ABORT stage in
full; with the message unsent they go back, R47), the other orders stand, and CLAMP_LOST is posted. That one which step 1 of
R102 ignores records PROTOCOL for a head state byte above 3 (R174) is the model's choice (log entry 13), and that an ISSUE
which an early DONE left queued goes with a message taken back (log entry 27). -/
def Obligations.ClampReports : Prop :=
  ∀ (slot : SlotId) (hs channel code : Nat) (s : State), s.setup.resetHeld = false →
    let ignored : State := { s with live := framed s slot hs }
    (s.live.slots[slot].state.joined = false → exec (.clampState slot hs channel code) s = .next ignored)
    ∧ (s.live.slots[slot].state.joined = true → s.live.slots[slot].channels? = none →
        exec (.clampState slot hs channel code) s = .next (setAside s slot hs))
    ∧ ∀ n, s.live.slots[slot].state.joined = true → s.live.slots[slot].channels? = some n →
      ((channel = 0 ∨ n < channel ∨ ZoneState.ofCode code = none) →
        exec (.clampState slot hs channel code) s = .next (setAside s slot hs))
      ∧ (∀ x, 1 ≤ channel → channel ≤ n → ZoneState.ofCode code = some x →
          (s.setup.zoneAt slot channel = none → exec (.clampState slot hs channel code) s = .next ignored)
          ∧ ∀ z : ZoneId, s.setup.zoneAt slot channel = some z →
              s.setup.tables.zones[z] = some { slot, channel } ∧
              let old := s.live.zones[z]
              let unclamping := s.live.pool.any fun o => o.kind == .unclamp && o.target == .zone z && o.state != .waiting
              let now : Zone :=
                { state := x
                  expected := if x = .opened then false else if old.state = .opened ∧ unclamping = true then true
                    else old.expected }
              (old.state = x →
                exec (.clampState slot hs channel code) s = .next (settled s (Taking.start (framed s slot hs))))
              ∧ (old.state ≠ x → old.state ≠ .clamped →
                  exec (.clampState slot hs channel code) s = .next (settled s
                    (Taking.start ((framed s slot hs).updZone z fun _ => now)).wakeGate))
              ∧ (old.state = .clamped → x ≠ .clamped → old.expected = true →
                  exec (.clampState slot hs channel code) s = .next (settled s
                    (Taking.start
                      (if s.setup.frame = none then (framed s slot hs).updZone z fun _ => now
                      else ((framed s slot hs).updZone z fun _ => now).sweep s.setup z)).wakeGate))
              ∧ (old.state = .clamped → x ≠ .clamped → old.expected = false → (s.live.pool.map Order.tag).Nodup →
                  ∃ u : Taking, exec (.clampState slot hs channel code) s = .next (settled s u) ∧ u.gateDue = true
                    ∧ u.live.zones[z] = { state := x, expected := false }
                    ∧ (∀ y : ZoneId, y ≠ z → u.live.zones[y] = s.live.zones[y])
                    ∧ u.live.notices[noticeIndex (slotSource slot) .alarm] = some
                        (postedEntry .clampLost (.zone z) s.live.notices[noticeIndex (slotSource slot) .alarm])
                    ∧ (∀ k y, u.live.hole? k = some y → (s.setup.row? k).map PatternRow.zone = some z →
                        y.state ≠ .drilled ∧ y.state ≠ .oversize)
                    ∧ (∀ k, (∀ o ∈ s.live.pool, o.target ≠ .hole k) →
                        u.live.hole? k = (s.live.hole? k).map fun y =>
                          if (s.setup.row? k).map PatternRow.zone = some z ∧ (y.state = .drilled ∨ y.state = .oversize) then
                            { y with state := .suspect } else y)
                    ∧ ClampAborts s.setup s.live (worksIn s.setup (· == z)) u.live
                    ∧ (∀ o ∈ s.live.pool, worksIn s.setup (· == z) o = false → u.live.order? o.tag = some o)
                    ∧ ∀ o ∈ u.live.pool, o.state = .issued ∨ o.state = .running →
                        ((o.hole?.bind s.setup.row?).map PatternRow.zone ≠ some z)))

/-! ### Slots -/

/-- LINK_UP and LINE_ACTIVITY (R173, R115): a byte restarts the silence timer of a link that is UP, and brings a link that is
DOWN up with its slot JOINING and LAMP queued. That each of the two commands is one byte with this one effect is the model's
choice (log entry 12). -/
def Obligations.LinkComesUp : Prop :=
  ∀ (slot : SlotId) (i : Instr) (s : State), s.setup.resetHeld = false → (i = .linkUp slot ∨ i = .lineActivity slot) →
    (s.live.heads[slot].up = true →
      exec i s = .next { s with live := s.live.updHead slot fun k => { k with silence := some 250 } })
    ∧ (s.live.heads[slot].up = false →
      exec i s = .next { s with live :=
        ((s.live.updHead slot fun k => { k with up := true, silence := some 250 }).updSlot slot fun x =>
          { x with
            state := .joining, head := none, tool := none, work := .idle, lever := .closed, leverPending := false
            timer := none, aspect := if x.lamp = .forceOn then .steady else .off }).queueLamp s.setup slot })

/-- LINK_DOWN (R127, R124): the slot EMPTY, its record discarded but for lamp setting and fault record, its holding freed, its
orders ended and the claims of the waiting ones gone (R53, R61), its link DOWN with the silence timer stopped, the open frame
and the unsent messages discarded and the link-down counted, up to 255 (R173), its zones lost as `ModuleGone` says (R109, R107,
R108), and LINK_LOST but for a RELEASED slot; `LossEnds` says what becomes of the holes, the pump units, the rivet, the heat
and the stock. That the lever reads CLOSED (log entry 30), and that a slot which its lane names but which did not serve it
takes the free rivets with it (log entry 28), is the model's choice. -/
def Obligations.LinkGoesDown : Prop :=
  ∀ (slot : SlotId) (s : State), s.setup.resetHeld = false →
    (s.live.heads[slot].silence = none → exec (.linkDown slot) s = .next s)
    ∧ (∀ n, s.live.heads[slot].silence = some n → s.live.slots[slot].state = .empty →
        let e := s.elapse n
        let k := e.live.heads[slot]
        exec (.linkDown slot) s = .next (settled e (Taking.start { e.live with heads := e.live.heads.set slot { k with
          up := false, silence := none, list := [], rx := { state := .outside, content := [], discarding := false }
          status := { k.status with downs := min (k.status.downs + 1) 255 } } })))
    ∧ ∀ n, s.live.heads[slot].silence = some n → s.live.slots[slot].state ≠ .empty → (s.live.pool.map Order.tag).Nodup →
      ∃ u : Taking, exec (.linkDown slot) s = .next (settled (s.elapse n) u)
        ∧ (let x := s.live.slots[slot]
          let y := u.live.slots[slot]
          y.state = .empty ∧ y.head = none ∧ y.tool = none ∧ y.lever = .closed ∧ y.leverPending = false
            ∧ y.lamp = x.lamp ∧ y.fault = x.fault
            ∧ u.live.notices[noticeIndex (slotSource slot) .fault] =
                (if x.state = .released then faultEntry s.live slot
                else
                  let tag := (x.work.tag?).elim Detail.none .tag
                  some (postedEntry .linkLost tag (faultEntry s.live slot))))
        ∧ (let k := s.live.heads[slot]
          u.live.heads[slot] = { k with
            up := false, silence := none, list := [], sending := u.live.heads[slot].sending
            rx := { state := .outside, content := [], discarding := false }
            status := { k.status with downs := min (k.status.downs + 1) 255 } })
        ∧ u.live.holdings[slot] = none ∧ u.live.travels[slot] = none
        ∧ (∀ o ∈ s.live.pool, o.slot = slot → o.state = .waiting → s.live.slots[slot].work ≠ .order o.tag →
            u.live.order? o.tag = none ∧ u.live.request? o.tag = none
            ∧ ∃ d, Says u.live (.orderDone d) ∧ d.tag = o.tag ∧ d.outcome = .withdrawn ∧ d.cause = some .slotLost)
        ∧ (∀ tag o, s.live.slots[slot].work = .order tag → s.live.orderOf? slot tag = some o →
            u.live.order? tag = none ∧ ∃ d, Says u.live (.orderDone d) ∧ d.tag = tag
              ∧ (if o.unsent = true then d.outcome = .withdrawn ∧ d.cause = some .slotLost
                else d.outcome = .failed ∧ d.cause = some .linkLost))
        ∧ ModuleGone s.setup s.live slot u.live
        ∧ (SlotApart s.setup s.live slot →
            u.live.slots[slot].work = .idle ∧ u.live.slots[slot].timer = none
            ∧ u.live.heads[slot].sending = s.live.heads[slot].sending)
        ∧ (SlotApart s.setup s.live slot → NoneTakenBack s.setup s.live slot →
            LossEnds s.setup s.live slot .linkLost none u.live)

/-- HELLO (R116, R117, R118): refused for the first check that fails, else accepted into READY, or into LEAVING when the lever
is recorded OPEN and the lamp AUTO. An accepted one posts LEVER_OPEN when it goes into LEAVING (R121), then TOOL_SPENT when the
tool it declares is spent (R136), and nothing else. WELCOME carries the fields of R118 by head kind; the order in which it lists
a CLAMP head's channels is the model's choice (log entry 34). -/
def Obligations.Hello : Prop :=
  ∀ (slot : SlotId) (hs revision : Nat) (b : HelloBody) (s : State), Reports s slot →
    let x := s.live.slots[slot]
    let l := framed s slot hs
    (x.state ≠ .joining → exec (.hello slot hs revision b) s = .next (setAside s slot hs))
    ∧ (x.state = .joining → s.setup.preload = .running →
        exec (.hello slot hs revision b) s = .next { s with live := l.queueJoin s.setup slot (.rejoin .preload) })
    ∧ (x.state = .joining → s.setup.preload ≠ .running → ∀ r, helloReason s.setup s.live slot b = some r →
        exec (.hello slot hs revision b) s = .next { s with live :=
          (l.queueJoin s.setup slot (.rejoin (.refused r))).postSlot slot .joinRefused (.reason r) })
    ∧ (x.state = .joining → s.setup.preload ≠ .running → ∀ d, helloReason s.setup s.live slot b = none →
        helloDeclared b = some d →
        ∃ u : Taking,
          exec (.hello slot hs revision b) s = .next (settled { s with setup := { s.setup with tables :=
            match d with
            | .heat i =>
              if s.setup.tables.lanes[i].slot = none then
                { s.setup.tables with lanes := s.setup.tables.lanes.set i { s.setup.tables.lanes[i] with slot := some slot } }
              else s.setup.tables
            | _ => s.setup.tables } } u)
          ∧ u.gateDue = true
          ∧ (let y := u.live.slots[slot]
            y.head = some { revision, declared := d } ∧ y.tool = helloTool b ∧ y.work = .idle ∧ y.timer = none
              ∧ y.lever = x.lever ∧ y.lamp = x.lamp ∧ y.fault = x.fault
              ∧ y.state = (if x.lever = .opened ∧ x.lamp = .auto then .leaving else .ready))
          ∧ (let opened := if x.lever = .opened ∧ x.lamp = .auto then s.live.postSlot slot .leverOpen .none else s.live
            let spent := ∃ rail centre id limit count, b = .drill rail centre id limit count ∧ limit ≤ count
            (spent → u.live.notices = (opened.postSlot slot .toolSpent .none).notices)
            ∧ (¬ spent → u.live.notices = opened.notices))
          ∧ u.live.holdings[slot] = (match d with
            | .drill r c => some { rail := r, run := span c }
            | .set r c => some { rail := r, run := span c }
            | _ => s.live.holdings[slot])
          ∧ (let welcomed := fun w : WelcomeBody =>
              HeadMsg.welcome d.kind w ∈ u.live.heads[slot].sending.toList ++ u.live.heads[slot].list
            let home := s.setup.tables.slots[slot].home
            (∀ r k g, d = .drill r k → helloTool b = some g →
              welcomed (.drill r (span k) home g.id g.limit g.count))
            ∧ (∀ r k, d = .set r k → welcomed (.set r (span k) home))
            ∧ (∀ i, d = .heat i →
                welcomed (.heat i s.setup.tables.lanes[i].cls s.setup.tables.lanes[i].mode))
            ∧ (∀ n, d = .clamp n → ∃ channels, welcomed (.clamp channels)
                ∧ channels.Pairwise (fun p q => p.2 < q.2)
                ∧ ∀ p, p ∈ channels ↔ s.setup.tables.zones[p.2] = some { slot, channel := p.1 })))

/-- The checks of a HELLO in their order (R117), with the position check of R58, the lane check of R81 and the channel check
of R104. -/
def Obligations.HelloChecks : Prop :=
  ∀ (c : Setup) (l : Live) (slot : SlotId),
    let kinds := fun k : HeadKind => ∃ e, c.tables.slots[slot].expected = some e ∧ e ≠ k
    let meets := fun a b : Run => a.first ≤ b.last ∧ b.first ≤ a.last
    let placed := fun (rail : Option Rail) (centre : Nat) => ∃ r, rail = some r ∧ centre ≤ 15
      ∧ (∀ g, l.holdings[slot] = some g → g.rail = r)
      ∧ ∀ x : SlotId, x ≠ slot → ∀ g, l.holdings[x] = some g → g.rail = r → ¬ meets g.run (span centre)
    let first := fun (b : HelloBody) (bad kind position lane channels : Prop) =>
      (bad → helloReason c l slot b = some .badHello)
      ∧ (¬ bad → kind → helloReason c l slot b = some .kindMismatch)
      ∧ (¬ bad → ¬ kind → position → helloReason c l slot b = some .positionConflict)
      ∧ (¬ bad → ¬ kind → ¬ position → lane → helloReason c l slot b = some .laneTaken)
      ∧ (¬ bad → ¬ kind → ¬ position → ¬ lane → channels → helloReason c l slot b = some .channels)
      ∧ (¬ bad → ¬ kind → ¬ position → ¬ lane → ¬ channels → helloReason c l slot b = none)
    (helloReason c l slot .malformed = some .badHello)
    ∧ (∀ rail centre id limit count,
        first (.drill rail centre id limit count) (limit = 0 ∨ 60000 < limit) (kinds .drill) (¬ placed rail centre) False False)
    ∧ (∀ rail centre, first (.set rail centre) False (kinds .set) (¬ placed rail centre) False False)
    ∧ (∀ n, laneOf n = none → helloReason c l slot (.heat n) = some .badHello)
    ∧ (∀ n i, laneOf n = some i →
        first (.heat n) False (kinds .heat) (l.holdings[slot] ≠ none)
          (¬ (c.tables.lanes[i].slot = some slot
            ∨ (c.tables.lanes[i].slot = none ∧ ∀ j : LaneId, j ≠ i → c.tables.lanes[j].slot ≠ some slot))) False)
    ∧ (∀ n, first (.clamp n) False (kinds .clamp) (l.holdings[slot] ≠ none) False
        (n = 0 ∨ 4 < n ∨ ∃ z : ZoneId, ∃ m, c.tables.zones[z] = some m ∧ m.slot = slot ∧ n < m.channel))

/-- LEVER (R120, R121, R122). A slot that becomes LEAVING has its WAITING orders withdrawn with SLOT_LEAVING and their claims
with them (R53, R61), its LAMP queued by R125, and LEVER_OPEN posted. -/
def Obligations.Levers : Prop :=
  ∀ (slot : SlotId) (hs : Nat) (s : State), Reports s slot →
    let x := s.live.slots[slot]
    let l := framed s slot hs
    let opened := l.updSlot slot fun y => { y with lever := .opened }
    let shut := l.updSlot slot fun y => { y with lever := .closed }
    let working := x.state = .ready ∨ x.state = .busy
    (working → x.lamp = .auto →
      ∃ u : Taking, exec (.leverOpen slot hs) s = .next (settled s u)
        ∧ u.live.slots[slot] = { x with lever := .opened, state := .leaving, leverPending := false, aspect := .blink }
        ∧ (∀ o ∈ s.live.pool, o.slot = slot → o.state = .waiting → u.live.order? o.tag = none ∧ u.live.request? o.tag = none
            ∧ Says u.live (orderDone s.live o .withdrawn (some .slotLeaving)))
        ∧ (∀ o ∈ s.live.pool, (∀ q ∈ s.live.pool, q.tag = o.tag → q.slot ≠ slot ∨ q.state ≠ .waiting) → o ∈ u.live.pool)
        ∧ u.live.heads = ((opened.updSlot slot fun y => { y with state := .leaving, leverPending := false }).syncLamp
            s.setup slot).heads
        ∧ (let k := noticeIndex (slotSource slot) .warn
          u.live.notices = s.live.notices.set k (some (postedEntry .leverOpen .none s.live.notices[k]))))
    ∧ (working → x.lamp ≠ .auto →
        exec (.leverOpen slot hs) s = .next (settled s (Taking.start
          (opened.updSlot slot fun y => { y with leverPending := true }))))
    ∧ (¬ working → exec (.leverOpen slot hs) s = .next (settled s (Taking.start opened)))
    ∧ (working → exec (.leverClosed slot hs) s = .next (settled s (Taking.start
          (shut.updSlot slot fun y => { y with leverPending := false }))))
    ∧ ((x.state = .leaving ∨ x.state = .released) →
        let back := fun st : SlotState => (shut.updSlot slot fun y => { y with state := st }).syncLamp s.setup slot
        exec (.leverClosed slot hs) s = .next (settled s
          (if x.work = .idle then (Taking.start (back .ready)).wakeGate else Taking.start (back .busy))))
    ∧ (¬ working → x.state ≠ .leaving → x.state ≠ .released →
        exec (.leverClosed slot hs) s = .next (settled s (Taking.start shut)))

/-- SLOT CLEAR, SLOT RELEASE and LAMP SET (R131, R123, R126): the refusals in their order, and the effects. A LAMP SET queues
LAMP where the aspect changes (R125), and one of AUTO that finds the pending mark set makes the slot LEAVING: its WAITING
orders are withdrawn with SLOT_LEAVING and their claims with them (R121, R53, R61), and LEVER_OPEN is posted; any other posts
no notice and withdraws no order. Every other order stands. That the ANSWER of LAMP SET goes ahead of the examination (log
entry 18), and that the aspect is recorded in EMPTY with no LAMP queued (log entry 15), is the model's reading (DEDUCED). -/
def Obligations.SlotMessages : Prop :=
  ∀ (h : Header) (slot setting : Nat) (s : State), Weighed s →
    let is := fun p : SlotId → Bool => (slotOf slot).any p
    (Plain h 5 →
      (∀ r, firstReason
          [ (s.setup.lockout, .locked), ((slotOf slot).isNone, .badSlot),
            (is fun i => s.live.slots[i].state != .faulted, .slotState) ] = some r →
        exec (.slotClear h slot) s = .next (answered s h (.refused r)))
      ∧ (∀ i, s.setup.lockout = false → slotOf slot = some i → s.live.slots[i].state = .faulted →
          let l := (closed s).live.updSlot i fun x => { x with state := .joining }
          let l := ((l.queueJoin s.setup i (.rejoin .cleared)).syncLamp s.setup i).syncCadences s.setup
          exec (.slotClear h slot) s = .next (({ s with live := l } : State).place (.answer h.tag .ok)))
      ∧ (∀ r, firstReason
          [ (s.setup.lockout, .locked), ((slotOf slot).isNone, .badSlot),
            (is fun i => s.live.slots[i].state != .leaving, .slotState),
            (is fun i => s.live.slots[i].work != .idle, .slotBusy) ] = some r →
        exec (.slotRelease h slot) s = .next (answered s h (.refused r)))
      ∧ (∀ i, s.setup.lockout = false → slotOf slot = some i → s.live.slots[i].state = .leaving →
          s.live.slots[i].work = .idle →
          let l := ((closed s).live.queueToolSync s.setup i).updSlot i fun x => { x with state := .released }
          let l := (l.syncLamp s.setup i).syncCadences s.setup
          exec (.slotRelease h slot) s = .next (({ s with live := l } : State).place (.answer h.tag .ok))))
    ∧ (Plain h 6 →
      (∀ r, firstReason
          [ (s.setup.lockout, .locked), ((slotOf slot).isNone, .badSlot), (setting == 0 || decide (3 < setting), .badValue) ]
            = some r →
        exec (.lampSet h slot setting) s = .next (answered s h (.refused r)))
      ∧ ∀ i v, s.setup.lockout = false → slotOf slot = some i →
          ((setting = 1 ∧ v = .forceOn) ∨ (setting = 2 ∧ v = .forceOff) ∨ (setting = 3 ∧ v = .auto)) →
          let x := s.live.slots[i]
          let leaves := v = .auto ∧ (x.state = .ready ∨ x.state = .busy) ∧ x.leverPending = true
          let lit := ((closed s).live.updSlot i fun z => { z with lamp := v }).syncLamp s.setup i
          ∃ u : Taking, exec (.lampSet h slot setting) s = .next (settled s u)
            ∧ (¬ leaves → u = Taking.start (lit.place s.setup (.answer h.tag (.lamp v lit.slots[i].aspect x.leverPending))))
            ∧ (leaves →
              u.live.heads = ((lit.updSlot i fun z => { z with state := .leaving, leverPending := false }).syncLamp
                s.setup i).heads
              ∧ (∀ o ∈ s.live.pool, o.slot = i → o.state = .waiting →
                u.live.order? o.tag = none ∧ u.live.request? o.tag = none
                  ∧ Says u.live (orderDone s.live o .withdrawn (some .slotLeaving)))
              ∧ (∀ o ∈ s.live.pool, (∀ q ∈ s.live.pool, q.tag = o.tag → q.slot ≠ i ∨ q.state ≠ .waiting) → o ∈ u.live.pool)
              ∧ (let k := noticeIndex (slotSource i) .warn
                u.live.notices = s.live.notices.set k (some (postedEntry .leverOpen .none s.live.notices[k]))))
            ∧ (let y := u.live.slots[i]
              y.lamp = v ∧ y.state = (if leaves then .leaving else x.state)
                ∧ y.leverPending = (if leaves then false else x.leverPending)
                ∧ y.aspect = (match v with
                  | .forceOn => .steady
                  | .forceOff => .off
                  | .auto => if y.state = .leaving then .blink else if y.state = .released then .steady else .off)
                ∧ Says u.live (.answer h.tag (.lamp v y.aspect y.leverPending))))

/-- The faults of a joined slot (R128, R129, R67, R68): a FAULT report, the expiry of an ACCEPT, GRACE or ABORT stage, and a
bad ARRIVED. `FaultLeaves` says what a fault leaves: among it the loss of its zones' clamps (R109, R107, R108), the claims of
its waiting orders gone (R53, R61), no message but LAMP and REJOIN unsent to it (R129 step 5), and the aspect of FAULTED with
its LAMP (R125). A FAULT from a slot that is not joined posts SLOT_FAULT, and in JOINING leaves a fault record. That the
SLOT_FAULT of a FAULT taken in FAULTED has this report's cause and code for its detail, not those of the fault record that
stands (log entry 41), and that a slot which its lane names but which did not serve it takes the free rivets with it (log entry
28), is the model's choice. -/
def Obligations.SlotFaults : Prop :=
  (∀ (slot : SlotId) (hs code : Nat) (s : State), Reports s slot → s.live.slots[slot].state.joined = false →
    let l := if code = 0 then (framed s slot hs).headError slot .protocol else framed s slot hs
    let recorded := l.updSlot slot fun x => { x with fault := some { cause := .headFault, code := some code, tag := none } }
    let kept := if s.live.slots[slot].state = .joining then recorded else l
    exec (.fault slot hs code) s = .next { s with live := kept.postSlot slot .slotFault (.cause .headFault (some code)) })
  ∧ ∀ (slot : SlotId) (hs code tag centre : Nat) (s : State), s.setup.resetHeld = false →
    s.live.slots[slot].state.joined = true → (s.live.pool.map Order.tag).Nodup →
    (∃ u : Taking, exec (.fault slot hs code) s = .next (settled s u)
      ∧ FaultLeaves s.setup s.live slot .headFault (some code) u.live)
    ∧ (∀ g, s.live.slots[slot].timer = some g →
        (g.stage = .accept → ∃ u : Taking, exec (.acceptStageExpiry slot) s = .next (settled (s.elapse g.left) u)
          ∧ FaultLeaves s.setup s.live slot .noAccept none u.live)
        ∧ (g.stage = .graceRun → ∃ u : Taking, exec (.graceStageExpiry slot) s = .next (settled (s.elapse g.left) u)
          ∧ FaultLeaves s.setup s.live slot .opTimeout none u.live)
        ∧ (g.stage = .graceTravel → ∃ u : Taking, exec (.graceStageExpiry slot) s = .next (settled (s.elapse g.left) u)
          ∧ FaultLeaves s.setup s.live slot .positionLost none u.live)
        ∧ (g.stage = .abort → ∃ u : Taking, exec (.abortStageExpiry slot) s = .next (settled (s.elapse g.left) u)
          ∧ FaultLeaves s.setup s.live slot .abortLost none u.live))
    ∧ (∀ v o, s.live.travels[slot] = some v → v.tag = tag → s.live.orderOf? slot tag = some o →
        o.travelMark = some .sent → o.state = .travelling → centre ≠ v.target →
        ∃ u : Taking, exec (.arrived slot hs tag centre) s = .next (settled s u)
          ∧ FaultLeaves s.setup s.live slot .positionLost none u.live)
    ∧ (∀ v o, s.live.travels[slot] = some v → v.tag = tag → s.live.orderOf? slot tag = some o →
        o.travelMark = some .sent → o.state = .aborting → o.step = some .travel →
        (15 < centre ∨ (span centre).inside v.sweep = false) →
        ∃ u : Taking, exec (.arrived slot hs tag centre) s = .next (settled s u)
          ∧ FaultLeaves s.setup s.live slot .positionLost none u.live)

/-- What overruns without a fault: RUN and TRAVEL stages (R133), and a claim (R62). An expiry without its timer or request,
and of a claim that is URGENT or stands still, changes nothing. What the passing of n ms does: every timer runs down (R86,
R132, R150, R173, R185, R194), the rivets age (R82), the claim clocks count in RUN and STANDBY alone (R62), and nothing else
changes. What is due of itself when no command waits, and that nothing is due exactly when no transmission, no step of a
preload and no clock has come to its end; that such events are taken only when no command waits is the model's choice (log
entry 1). -/
def Obligations.Overruns : Prop :=
  (∀ (n : Nat) (s : State),
    let t := s.elapse n
    let down := fun x : Option Nat => x.map fun k => k - n
    t.setup = { s.setup with
        now := s.setup.now + n, guard := { s.setup.guard with timer := down s.setup.guard.timer }
        store := { s.setup.store with writing := s.setup.store.writing.map fun w => { w with left := w.left - n } }
        headHold := down s.setup.headHold }
    ∧ t.pending = s.pending
    ∧ (∀ j : SlotId,
        t.live.slots[j] = { s.live.slots[j] with
          timer := s.live.slots[j].timer.map fun g => { g with left := g.left - n } }
        ∧ t.live.heads[j] = { s.live.heads[j] with silence := down s.live.heads[j].silence })
    ∧ (∀ i : LaneId, t.live.lanes[i] = { s.live.lanes[i] with cadence := down s.live.lanes[i].cadence }
        ∧ ∀ r ∈ s.live.lanes[i].stock, r.heatEnd ≤ s.setup.now → r.left t.setup.now = r.left s.setup.now - n)
    ∧ (∀ r : Rail, t.live.requests r =
        if s.setup.mode = .run ∨ s.setup.mode = .standby then
          (s.live.requests r).map fun q => { q with waited := q.waited + n }
        else s.live.requests r)
    ∧ { t.live with
        slots := s.live.slots, heads := s.live.heads, lanes := s.live.lanes
        requestsA := s.live.requestsA, requestsB := s.live.requestsB } = s.live)
  ∧ (∀ s : State,
    let c := s.setup
    let l := s.live
    let written := ∃ w, c.store.writing = some w ∧ w.left = 0
    (c.resetHeld = true → s.dueEvent = if c.store.writing.any (fun w => w.left == 0) = true then some .storeWriteEnd else none)
    ∧ (c.resetHeld = false →
      (∀ i, s.dueEvent = some i →
        (i = .cellSentEvent ∧ l.cell.sending ≠ none)
        ∨ (∃ j : SlotId, i = .headSentEvent j ∧ l.heads[j].sending ≠ none)
        ∨ (∃ e, c.engine = some e ∧ ((i = .preloadHeaderRead ∧ e.phase = .header ∧ c.store.writing = none)
            ∨ ∃ at_ left position crc want, e.phase = .records at_ left position crc want
                ∧ i = if left = 0 then .preloadEnd else .preloadRecord))
        ∨ (i = .storeWriteEnd ∧ written)
        ∨ (i = .headLinkHoldEnd ∧ c.headHold = some 0)
        ∨ (i = .discrepancyExpiry ∧ c.guard.timer = some 0)
        ∨ (∃ (j : SlotId) (g : StageTimer), l.slots[j].timer = some g ∧ g.left = 0 ∧ i = g.stage.expiry j)
        ∨ (∃ j : SlotId, i = .linkDown j ∧ l.heads[j].silence = some 0)
        ∨ (∃ k : LaneId, i = .cadenceExpiry k ∧ l.lanes[k].cadence = some 0)
        ∨ (∃ (k : LaneId) (place : Nat) (r : Rivet), l.lanes[k].stock[place]? = some r ∧ r.left c.now = 0
            ∧ i = if r.tag = none then .rivetExpiryUnassigned k place else .rivetExpiryAssigned k place)
        ∨ (∃ q ∈ l.requestsA ++ l.requestsB, i = .claimStarved q.slot ∧ q.urgent = false ∧ q.patience ≤ q.waited
            ∧ (c.mode = .run ∨ c.mode = .standby)))
      ∧ (s.dueEvent = none ↔ l.cell.sending = none ∧ (∀ j : SlotId, l.heads[j].sending = none)
          ∧ (∀ e, c.engine = some e → e.phase = .header ∧ c.store.writing ≠ none)
          ∧ ¬ written ∧ c.headHold ≠ some 0 ∧ c.guard.timer ≠ some 0
          ∧ (∀ (j : SlotId) g, l.slots[j].timer = some g → g.left ≠ 0)
          ∧ (∀ j : SlotId, l.heads[j].silence ≠ some 0)
          ∧ (∀ k : LaneId, l.lanes[k].cadence ≠ some 0 ∧ ∀ r ∈ l.lanes[k].stock, r.left c.now ≠ 0)
          ∧ ((c.mode = .run ∨ c.mode = .standby) →
              ∀ q ∈ l.requestsA ++ l.requestsB, q.urgent = false → q.waited < q.patience))))
  ∧ ∀ (slot : SlotId) (s : State), s.setup.resetHeld = false →
    (s.live.slots[slot].timer = none → ∀ i,
      i = .acceptStageExpiry slot ∨ i = .runStageExpiry slot ∨ i = .travelStageExpiry slot ∨ i = .graceStageExpiry slot
        ∨ i = .abortStageExpiry slot → exec i s = .next s)
    ∧ (s.live.requestOf slot = none → exec (.claimStarved slot) s = .next s)
    ∧ (∀ r q, s.live.requestOf slot = some (r, q) → q.urgent = true ∨ s.setup.mode = .hold ∨ s.setup.mode = .stop →
        exec (.claimStarved slot) s = .next s)
    ∧ (∀ g, s.live.slots[slot].timer = some g →
      let slow := fun stage : TimedStage =>
        let grace : StageTimer := { stage := stage, left := s.setup.acted Timing.grace }
        settled (s.elapse g.left) (Taking.start
          (((s.elapse g.left).live.postSlot slot .opSlow
            (.tag (match s.live.slots[slot].work with
              | .order tag => tag
              | _ => 0))).updSlot slot fun x => { x with timer := some grace }))
      (g.stage = .run → exec (.runStageExpiry slot) s = .next (slow .graceRun))
      ∧ (g.stage = .travel → exec (.travelStageExpiry slot) s = .next (slow .graceTravel)))
    ∧ ∀ r q, s.live.requestOf slot = some (r, q) → q.urgent = false → (s.setup.mode = .run ∨ s.setup.mode = .standby) →
        let e := s.elapse (q.patience - q.waited)
        let urgent := (e.live.requests r).map fun x => if x.slot = slot then { x with urgent := true } else x
        exec (.claimStarved slot) s = .next (settled e
          ((Taking.start ((e.live.setRequests r urgent).postSlot slot .claimStarved (.tag q.tag))).wakeRail r))

/-! ### Modes and the guard -/

/-- MODE RUN, HOLD and RESUME (R142 to R145): the refusals in their order; the mode; and, when it becomes RUN or STANDBY, the
examinations, taken in some order after the ANSWER. -/
def Obligations.ModeMessages : Prop :=
  ∀ (h : Header) (s : State), Weighed s →
    let locked := (s.setup.lockout, Reason.locked)
    let stopped := (s.setup.mode == .stop, Reason.stopped)
    let noFrame := (s.setup.frame.isNone, Reason.noFrame)
    let guardOpen := (s.setup.guard.state != .closed, Reason.guardOpen)
    let starts := fun (i : Instr) (m : Mode) => ∃ first : Rail → Bool,
      let c := { s.setup with mode := m, freeIndex := s.setup.freeIndex + 1 }
      exec i s = .next { s with
        setup := c, live := ((closed s).live.place c (.answer h.tag (.mode m))).examineAll c first }
    let holds := fun i : Instr =>
      let c := { s.setup with mode := .hold }
      exec i s = .next { s with
        setup := c, live := ((closed s).live.place c (.answer h.tag (.mode .hold))).syncCadences c }
    (Selects h 1 4 →
      (∀ r, firstReason [locked, stopped, noFrame, guardOpen] = some r →
        exec (.modeRun h) s = .next (answered s h (.refused r)))
      ∧ (firstReason [locked, stopped, noFrame, guardOpen] = none →
        (s.setup.mode = .hold → starts (.modeRun h) .run)
        ∧ (s.setup.mode ≠ .hold → exec (.modeRun h) s = .next (answered s h (.mode s.setup.mode)))))
    ∧ (Selects h 2 4 →
      (∀ r, firstReason [locked, stopped, noFrame] = some r → exec (.modeHold h) s = .next (answered s h (.refused r)))
      ∧ (firstReason [locked, stopped, noFrame] = none →
        (s.setup.mode = .run → holds (.modeHold h))
        ∧ (s.setup.mode ≠ .run → exec (.modeHold h) s = .next (answered s h (.mode s.setup.mode)))))
    ∧ (Selects h 3 4 →
      let aborting := s.live.pool.any (fun o => o.state == .aborting)
        || s.live.lanes.toList.any fun x => x.heat.any fun g => g.origin == .lane && g.step == some .aborting
      let refusals := [locked, (s.setup.mode != .stop, Reason.wrongMode), guardOpen, (aborting, .inFlight)]
      (∀ r, firstReason refusals = some r → exec (.modeResume h) s = .next (answered s h (.refused r)))
      ∧ (firstReason refusals = none →
        (s.setup.frame ≠ none → holds (.modeResume h))
        ∧ (s.setup.frame = none → starts (.modeResume h) .standby)))

/-- The guard chain (R149 to R151, R146, R147): the table of the guard state, the discrepancy timer, what the mode takes from
each change (an order whose message is unsent has it taken back and goes by its flag and its slot, R47, and an ISSUE which an
early DONE left queued goes with it, the model's choice of log entry 27), and the latch. Under a held reset pin a channel
changes its level without an event (R183; log entry 19). -/
def Obligations.GuardChain : Prop :=
  (∀ (ch : Channel) (v : Level) (s : State),
    let pins : GuardPins := { ch1 := if ch = .one then v else s.setup.pins.ch1, ch2 := if ch = .two then v else s.setup.pins.ch2 }
    let g := s.setup.guard
    let ch1 := if ch = .one then v else g.ch1
    let ch2 := if ch = .two then v else g.ch2
    let state : GuardState :=
      if g.state = .latched then (if ch1 = .opened ∧ ch2 = .opened then .opened else .latched)
      else if ch1 = .closed ∧ ch2 = .closed then .closed else .opened
    let guard : Guard := { ch1, ch2, state, timer := if ch1 ≠ ch2 ∧ state ≠ .latched then some 50 else none }
    let s' : State := { s with setup := { s.setup with pins, guard } }
    ((s.setup.resetHeld = true ∨ (ch = .one ∧ v = g.ch1) ∨ (ch = .two ∧ v = g.ch2)) →
      exec (.guardChannelChange ch v) s = .next { s with setup := { s.setup with pins } })
    ∧ (s.setup.resetHeld = false → ¬ ((ch = .one ∧ v = g.ch1) ∨ (ch = .two ∧ v = g.ch2)) →
        (g.state = .closed → state = .opened → s.setup.mode = .stop →
          exec (.guardChannelChange ch v) s = .next { s' with live := s.live.post 0 .guardOpen .none })
        ∧ (g.state = .closed → state = .opened → s.setup.mode ≠ .stop → (s.live.pool.map Order.tag).Nodup →
          ∃ u : Taking,
            exec (.guardChannelChange ch v) s = .next
              (settled { s with setup := { s.setup with pins, guard, mode := .stop } } u)
            ∧ (∀ o ∈ u.live.pool, o.state = .waiting ∨ o.state = .aborting)
            ∧ (∀ o ∈ s.live.pool, o.state ≠ .waiting → o.unsent = false → ∃ o', u.live.order? o.tag = some o'
                ∧ o'.state = .aborting ∧ (o.state ≠ .aborting → o'.cause = some .guard))
            ∧ (∀ o ∈ s.live.pool, o.state ≠ .waiting → o.state ≠ .aborting → o.unsent = true →
                GoesBack s.live o u.live ∧ ∀ m ∈ u.live.heads[o.slot].list, m.cls ≠ 3)
            ∧ (∀ i : LaneId, ∀ x ∈ u.live.lanes[i].heat, x.origin = .lane → x.step = some .aborting)
            ∧ u.live.notices = (s.live.post 0 .guardOpen .none).notices)
        ∧ (g.state = .opened → state = .closed →
          exec (.guardChannelChange ch v) s = .next { s' with live := s.live.post 0 .guardClosed .none })
        ∧ (¬ (g.state = .closed ∧ state = .opened) → ¬ (g.state = .opened ∧ state = .closed) →
          exec (.guardChannelChange ch v) s = .next s')))
    ∧ (∀ s : State, s.setup.guard.timer = none → exec .discrepancyExpiry s = .next s)
    ∧ ∀ (n : Nat) (s : State), s.setup.resetHeld = false → s.setup.guard.timer = some n → s.setup.guard.state = .opened →
        s.setup.guard.ch1 ≠ s.setup.guard.ch2 →
        let e := s.elapse n
        exec .discrepancyExpiry s = .next { e with
          setup := { e.setup with guard := { s.setup.guard with state := .latched, timer := none } }
          live := e.live.post 0 .guardDiscrepancy (.channel (if s.setup.guard.ch1 = .opened then .one else .two)) }

/-! ### Notices and queries -/

/-- Posting (R154): only the entry of the source and the code's level changes; an empty one is filled with OVERRUN clear, a
filled one keeps its code and detail and reads OVERRUN. -/
def Obligations.PostNotice : Prop :=
  ∀ (l : Live) (source : Fin 13) (code : NoticeCode) (d : Detail),
    let i := noticeIndex source code.level
    (l.notices[i] = none →
      l.post source code d = { l with notices := l.notices.set i (some { code, detail := d, overrun := false }) })
    ∧ (∀ n, l.notices[i] = some n → n.overrun = false →
      l.post source code d = { l with notices := l.notices.set i (some { n with overrun := true }) })
    ∧ (∀ n, l.notices[i] = some n → n.overrun = true → l.post source code d = l)

/-- NOTICE TAKE (R157): the filled entry of the highest level, source 0 first and then 12 down to 1, is answered and emptied;
none filled answers NONE. -/
def Obligations.NoticeTake : Prop :=
  ∀ (h : Header) (s : State), Weighed s → Plain h 4 →
    let entry := fun (src : Fin 13) (v : NoticeLevel) => s.live.notices[noticeIndex src v]
    ((∀ src v, entry src v = none) → exec (.noticeTake h) s = .next (answered s h .noNotice))
    ∧ ∀ src v n, entry src v = some n →
        (∀ src' v', entry src' v' ≠ none → (src', v') ≠ (src, v) →
          v.rank < v'.rank ∨ (v' = v ∧ (src = 0 ∨ (src' ≠ 0 ∧ src' < src)))) →
        let l := { s.live with notices := s.live.notices.set (noticeIndex src v) none }
        exec (.noticeTake h) s = .next (answered { s with live := l } h
          (.notice src v n (l.notices.toList.filter Option.isSome).length))

/-- QUERY in its eleven forms (R179): each answers the data its rule gives and changes nothing, but that SLOT and LINK clear
the link status record they return (R166, R167). QUERY STATUS is answered during a preload as well (R180, R190). The order of
the slots in HOLDINGS (log entry 25) and the order of the tags of ZONE, which is that of arrival (log entry 38), are the model's
choice; that the channel count of ZONE is absent in EMPTY and JOINING and shown of a FAULTED module is log entry 26
(DEDUCED). -/
def Obligations.Queries : Prop :=
  (∀ (h : Header) (s : State), s.setup.resetHeld = false → s.setup.restart = .idle → s.live.cell.underHoldoff = false →
    Selects h 1 4 →
    let c := s.setup
    let l := s.live
    let levels := [NoticeLevel.alarm, .fault, .warn, .info]
    let sources : List (Fin 13) := [0, 12, 11, 10, 9, 8, 7, 6, 5, 4, 3, 2, 1]
    exec (.queryStatus h) s = .next (answered s h (.status
      { mode := c.mode, guard := c.guard.state, ch1 := c.guard.ch1, ch2 := c.guard.ch2
        discrepancy := c.guard.timer.isSome, frame := c.frame, poolCount := l.pool.length, slow := l.slow
        lockout := c.lockout, preload := c.preload, resetCause := c.resetCause
        filled := levels.map fun v => (sources.filter fun src => (l.notices[noticeIndex src v]).isSome).length
        attention := l.notices.toList.any Option.isSome
        source0 := levels.map fun v => (l.notices[noticeIndex 0 v]).map Notice.code
        slots := (List.finRange 12).map fun j => l.slots[j].state
        listCount := l.cell.list.length, holdoff := l.cell.holdoff })))
  ∧ ∀ (h : Header) (a b n : Nat) (s : State), Weighed s →
    let c := s.setup
    let l := s.live
    (Selects h 2 6 →
        (c.frame = none → exec (.queryHole h n) s = .next (answered s h (.refused .noFrame)))
        ∧ (∀ f, c.frame = some f → l.hole? n = none → exec (.queryHole h n) s = .next (answered s h (.refused .badHole)))
        ∧ (∀ f x, c.frame = some f → l.hole? n = some x → exec (.queryHole h n) s = .next (answered s h
            (.hole f.serial x (c.row? n) ((l.pool.find? fun o => o.target == .hole n).map Order.tag)))))
    ∧ (Selects h 3 6 →
        (l.order? a = none → exec (.queryOrder h 1 a) s = .next (answered s h (.refused .unknownTag)))
        ∧ (∀ o, l.order? a = some o → exec (.queryOrder h 1 a) s = .next (answered s h
            (.order o ((l.pool.findIdx fun x => x.tag == a) + 1))))
        ∧ (1 ≤ a → a ≤ 32 → exec (.queryOrder h 2 a) s = .next (answered s h
            (.orders l.pool.length (((l.pool.drop (a - 1)).take 12).map fun o =>
              { tag := o.tag, kind := o.kind, slot := o.slot, state := o.state, wait := o.wait }))))
        ∧ ((a = 0 ∨ 32 < a) → exec (.queryOrder h 2 a) s = .next (answered s h (.refused .badValue)))
        ∧ (b ≠ 1 → b ≠ 2 → exec (.queryOrder h b a) s = .next (answered s h (.refused .badValue))))
    ∧ (Selects h 4 5 →
        (slotOf a = none → exec (.querySlot h a) s = .next (answered s h (.refused .badSlot)))
        ∧ (∀ i, slotOf a = some i →
            let k := l.heads[i]
            let cleared : HeadStatus :=
              { errorSeen := false, crc := 0, length := 0, framing := 0, protocol := 0, last := none, downs := 0
                headState := k.status.headState }
            let work := match l.slots[i].work with
              | .idle => WorkView.idle
              | .order tag => .order tag ((l.order? tag).map Order.kind) ((l.order? tag).map Order.state)
              | .heat j => .laneHeat .heat ((l.lanes[j].heat.filter fun g => g.slot == i).bind Heat.step)
            exec (.querySlot h a) s = .next (answered
              { s with live := l.updHead i fun k => { k with status := cleared } } h (.slot
              { slot := l.slots[i], entry := c.tables.slots[i], work, holding := l.holdings[i]
                orders := (l.pool.filter fun o => o.slot == i).length, up := k.up, status := k.status
                outbound := k.list.length }))))
    ∧ (∀ r, railOf a = some r →
        let holds := fun (seg : Nat) (j : SlotId) => (l.holdings[j]).any fun g => g.rail == r && g.run.contains seg
        let line := fun j : SlotId => ((l.holdings[j]).filter fun g => g.rail == r).map fun g =>
          ({ slot := j, state := l.slots[j].state, run := g.run
             centre := (List.range 16).find? fun t => span t == g.run
             travel := (l.travels[j]).map fun v =>
              { tag := v.tag, target := v.target, sweep := v.sweep
                sent := (l.order? v.tag).any fun o => o.travelMark == some .sent } } : HoldingLine)
        (Selects h 5 6 → exec (.queryRail h a 1 b) s = .next (answered s h
            (.railHoldings ((List.range 16).map fun seg => (List.finRange 12).find? (holds seg))
              ((List.finRange 12).filterMap line))))
        ∧ (Selects h 5 7 → 1 ≤ b → b ≤ 12 → exec (.queryRail h a 2 b) s = .next (answered s h
            (.railRequests (l.requests r).length ((((l.requests r).drop (b - 1)).take 6).map fun q =>
              { slot := q.slot, tag := q.tag, target := q.target, sweep := q.sweep, waited := q.waited
                urgent := q.urgent }))))
        ∧ (Selects h 5 7 → (b = 0 ∨ 12 < b) →
            exec (.queryRail h a 2 b) s = .next (answered s h (.refused .badValue))))
    ∧ (∀ part, ((part = 2 ∧ Selects h 5 7) ∨ (part ≠ 2 ∧ Selects h 5 6)) → railOf a = none ∨ (part ≠ 1 ∧ part ≠ 2) →
        exec (.queryRail h a part b) s = .next (answered s h (.refused .badValue)))
    ∧ (Selects h 6 5 →
        (laneOf a = none → exec (.queryLane h a) s = .next (answered s h (.refused .badValue)))
        ∧ (∀ i, laneOf a = some i →
            let x := l.lanes[i]
            let serving := (c.tables.lanes[i].slot).filter fun j =>
              l.slots[j].state.joined && l.slots[j].head.map Joined.declared == some (.heat i)
            let step := fun g : Heat => match g.origin with
              | .lane => HeatStepView.lane g.step
              | .order => .order ((l.order? g.tag).map Order.state)
            exec (.queryLane h a) s = .next (answered s h (.lane
              { entry := c.tables.lanes[i], state := l.laneState c i, serving, late := x.late, cadence := x.cadence
                heat := x.heat.map fun g => (g, step g), stockCount := x.stock.length
                stock := x.stock.map fun r =>
                  { serial := r.serial, cls := r.cls, age := c.now - r.heatEnd, left := r.window - (c.now - r.heatEnd)
                    tag := r.tag }
                fault := x.fault }))))
    ∧ (Selects h 7 5 →
        exec (.queryZone h 0) s = .next (answered s h
          (.zones ((List.finRange 8).map fun z => (c.tables.zones[z], l.zones[z]))))
        ∧ (8 < a → exec (.queryZone h a) s = .next (answered s h (.refused .badValue)))
        ∧ (∀ z, zoneOf a = some z →
            let e := c.tables.zones[z]
            let ofZone := fun n : Nat => (c.row? n).any fun r => r.zone == z
            exec (.queryZone h a) s = .next (answered s h (.zone
              { entry := e, state := l.zones[z].state, expected := l.zones[z].expected
                slotState := e.map fun m => l.slots[m.slot].state
                channels := e.bind fun m =>
                  if l.slots[m.slot].state = .empty ∨ l.slots[m.slot].state = .joining then none
                  else match l.slots[m.slot].head.map Joined.declared with
                    | some (.clamp k) => some k
                    | _ => none
                order := (l.pool.find? fun o => (o.kind == .clamp || o.kind == .unclamp) && o.target == .zone z).map
                  fun o => (o.tag, o.state)
                holes := c.frame.map fun _ =>
                  [HoleState.planned, .drilling, .drilled, .oversize, .undersize, .suspect, .setting, .set, .defect,
                    .barred].map fun st => ((l.holes.zipIdx 1).filter fun p => ofZone p.2 && p.1.state == st).length
                inFlight := c.frame.map fun _ =>
                  (l.pool.filter fun o => o.state != .waiting && o.hole?.any ofZone).map Order.tag }))))
    ∧ (Selects h 8 4 →
        let starved := l.pool.filter fun o => o.kind == .set && o.state == .waiting && o.wait == some .pump
        exec (.queryPump h) s = .next (answered s h (.pump
          { budget := c.tables.budget, inUse := l.unitsInUse, waiting := starved.length
            oldest := starved.head?.map Order.tag
            holders := l.pool.filterMap fun o => o.units.map fun k =>
              { tag := o.tag, slot := o.slot, target := o.target, units := k, state := o.state } })))
    ∧ (Selects h 9 4 →
        let emptied : CellStatus :=
          { errorSeen := false, crc := 0, length := 0, framing := 0, overrun := 0, protocol := 0, last := none
            highMark := l.cell.list.length }
        exec (.queryLink h) s = .next (answered
        { s with live := { l with cell := { l.cell with status := emptied } } } h
        (.link l.cell.status l.cell.list.length l.cell.holdoff)))
    ∧ (Selects h 10 6 →
        let t := c.tables
        let view : Option TableView :=
          if a = 1 then
            if b = 0 then some (.timingWritten t.timing.toList)
            else (timingOf b).map fun e => .timing [(t.timing[e], max t.timing[e] timingMinima[e])]
          else if a = 2 then
            if b = 0 then some (.slots t.slots.toList) else (t.slots.toList[b - 1]?).map fun e => .slots [e]
          else if a = 3 then
            if b = 0 then some (.zones t.zones.toList) else (t.zones.toList[b - 1]?).map fun e => .zones [e]
          else if a = 4 then
            if b = 0 then some (.lanes t.lanes.toList) else (t.lanes.toList[b - 1]?).map fun e => .lanes [e]
          else if a = 5 ∧ b = 0 then some (.pump t.budget)
          else none
        (view = none → exec (.queryTable h a b) s = .next (answered s h (.refused .badValue)))
        ∧ (∀ v, view = some v → exec (.queryTable h a b) s = .next (answered s h (.table v))))
    ∧ (∀ hole, patternOf a = none → Selects h 11 (if hole = none then 5 else 7) →
        exec (.queryPattern h a hole) s = .next (answered s h (.refused .badValue)))
    ∧ ∀ i, patternOf a = some i →
        let bound := c.frame.any fun f => f.pattern == i
        (Selects h 11 5 → c.patterns[i] = none → exec (.queryPattern h a none) s = .next (answered s h (.pattern
          { complete := none, count := none, written := 0, lowestUnwritten := none, bound, freeRows := c.freeRows })))
        ∧ (Selects h 11 5 → ∀ x, c.patterns[i] = some x → exec (.queryPattern h a none) s = .next (answered s h (.pattern
          { complete := some x.complete, count := some x.count, written := (x.rows.filter Option.isSome).length
            lowestUnwritten := if x.complete = true then none else (x.rows.findIdx? Option.isNone).map (· + 1)
            bound, freeRows := c.freeRows })))
        ∧ (Selects h 11 7 → c.patterns[i] = none →
            exec (.queryPattern h a (some n)) s = .next (answered s h (.refused .noPattern)))
        ∧ ∀ x, Selects h 11 7 → c.patterns[i] = some x →
            ((n = 0 ∨ x.count < n) → exec (.queryPattern h a (some n)) s = .next (answered s h (.refused .badHole)))
            ∧ (1 ≤ n → n ≤ x.count → x.row? n = none →
                exec (.queryPattern h a (some n)) s = .next (answered s h (.refused .noRow)))
            ∧ (∀ r, 1 ≤ n → n ≤ x.count → x.row? n = some r →
                exec (.queryPattern h a (some n)) s = .next (answered s h (.row n r)))

/-! ### The links -/

/-- The cell link (R168, R170, R171, R194): a message placed carries the flags of its moment (R141, R156, SLOW of R54) and
joins the list, or begins on an idle transmitter; the sent event lets the next begin, and when it empties the list places the
deferred ANSWER to RESTART; an unknown kind, the frames that are not taken, and the start delimiter. What the links send
(R163, R182, R183): the frame of the message in transmission, else the idle byte; nothing under a held reset pin, and nothing
to the heads while a RESTART holds their links; each byte as one start bit, eight data bits least significant first, and one
stop bit, the levels of the bits left open (log entry 40). The bytes of TAKEN, REFUSED, a refused ANSWER and ORDER DONE, and of the flags
(section 9.6, R177). That a message placed on an idle transmitter counts in the high mark is log entry 17 (DEDUCED). -/
def Obligations.CellLinkEvents : Prop :=
  (∀ (c : Setup) (l : Live) (b : CellBody),
    let flags : CellFlags :=
      { attention := l.notices.toList.any Option.isSome, slow := l.slow, locked := c.lockout, holdoff := false
        mode := c.mode }
    l.place c b = { l with cell := l.cell.place { body := b, flags } })
  ∧ (∀ (tag : Nat) (f : CellFlags) (st : TakenState) (r : Reason) (d : OrderDone) (hole : HoleState) (cls : Nat),
    let b := BitVec.ofNat 8
    let w := fun n : Nat => [b (n / 256), b n]
    let waits := [WaitReason.mode, .queued, .predecessor, .zone, .position, .pump, .rivet, .laneFull, .inZone]
    let reasons := [Reason.locked, .stopped, .noFrame, .tagInUse, .poolFull, .badSlot, .badZone, .slotAbsent, .slotFaulted,
      .slotLeaving, .wrongKind, .badValue, .badHole, .badLane, .wrongRail, .holeState, .holeClaimed, .laneAuto, .toolSpent,
      .unknownTag, .unknownKind, .exists_, .noRoom, .noPattern, .patternComplete, .badRow, .patternInUse,
      .patternIncomplete, .noRow, .wrongMode, .inFlight, .zoneClamped, .guardOpen, .frameBound, .inUse, .channels,
      .slotState, .slotBusy, .busy, .badAddress, .protected_, .badImage]
    let causes := [DoneCause.cancel, .guard, .clampLost, .rivetCold, .cancelLate, .headFault, .opTimeout, .noAccept,
      .linkLost, .abortLost, .positionLost, .slotFaulted, .slotLeaving, .slotLost, .toolSpent, .frameEnded, .holeChanged]
    let flag := fun (v : Bool) (n : Nat) => if v = true then n else 0
    let fixed := [b (0x10 + [OrderKind.drill, .ream, .set, .heat, .clamp, .unclamp, .park].idxOf d.kind), b (d.slot.val + 1)]
      ++ w (match d.target with
        | .hole n => n
        | .zone z => z.val + 1
        | .lane i => i.val + 1
        | .home => 0)
      ++ [ b ([OrderOutcome.completed, .cancelled, .aborted, .failed, .withdrawn].idxOf d.outcome + 1),
           b (match d.cause with
            | none => 0
            | some x => causes.idxOf x + 1),
           b (flag d.cancel 1) ]
    let entry := [ b ([HoleState.planned, .drilling, .drilled, .oversize, .undersize, .suspect, .setting, .set, .defect,
      .barred].idxOf hole + 1), b cls ]
    let done := fun (n : Nat) (rest : List Byte) =>
      CellMsg.bytes { body := .orderDone d, flags := f } = [b n, 0x82, b d.tag, f.byte] ++ fixed ++ rest
    f.byte = b (flag f.attention 128 + flag f.slow 64 + flag f.locked 32 + flag f.holdoff 16
      + [Mode.standby, .hold, .run, .stop].idxOf f.mode)
    ∧ CellMsg.bytes { body := .taken tag st, flags := f } = [6, 0x80, b tag, f.byte] ++ (match st with
      | .waiting none => [1, 0]
      | .waiting (some x) => [1, b (waits.idxOf x + 1)]
      | .travelling => [2, 0]
      | .issued => [3, 0]
      | .aborting => [4, 0]
      | .left => [5, 0])
    ∧ CellMsg.bytes { body := .refused tag r, flags := f } = [5, 0x81, b tag, f.byte, b (reasons.idxOf r + 1)]
    ∧ CellMsg.bytes { body := .answer tag (.refused r), flags := f } = [5, 0x83, b tag, f.byte, b (reasons.idxOf r + 1)]
    ∧ (d.holeInfo = none → (d.kind = .clamp ∨ d.kind = .unclamp ∨ d.kind = .park ∨ (d.kind = .heat ∧ d.outcome ≠ .completed)) →
        done 11 [])
    ∧ (∀ n, d.holeInfo = none → d.kind = .heat → d.outcome = .completed → d.serial = some n → done 13 (w n))
    ∧ (d.holeInfo = some (hole, cls) → d.outcome ≠ .completed → done 13 entry)
    ∧ (d.holeInfo = some (hole, cls) → d.outcome = .completed → (d.kind = .drill ∨ d.kind = .ream) →
        done 16 (entry ++ [b (match d.gauge with
          | none => 0
          | some x => [Gauge.within, .under, .over].idxOf x + 1)] ++ w (d.measure.getD 0)))
    ∧ (d.holeInfo = some (hole, cls) → d.outcome = .completed → d.kind = .set →
        done 18 (entry ++ [b (match d.force with
          | none => 0
          | some x => [Force.ok, .low, .high].idxOf x + 1)] ++ w (d.measure.getD 0) ++ w (d.serial.getD 0))))
  ∧ (∀ (slot : SlotId) (s : State),
    let escaped : Byte → List Byte := fun b => if b = 0xD1 ∨ b = 0xD2 ∨ b = 0xD3 then [0xD3, b ^^^ 0x20] else [b]
    let framed : List Byte → List Byte := fun body =>
      [0xD1#8] ++ (body ++ [((crcOf body) >>> 8).truncate 8, (crcOf body).truncate 8]).flatMap escaped ++ [0xD2#8]
    s.cellLine = (if s.setup.resetHeld = true then []
        else match s.live.cell.sending with
          | some m => framed m.bytes
          | none => [0xD0])
    ∧ s.headLine slot = (if s.setup.resetHeld = true ∨ s.setup.headHold ≠ none then []
        else match s.live.heads[slot].sending with
          | some m => framed (m.bytes slot)
          | none => [0xD0])
    ∧ (let bits : Byte → List LineBit := fun b =>
        [ .start, .data (b.getLsbD 0), .data (b.getLsbD 1), .data (b.getLsbD 2), .data (b.getLsbD 3), .data (b.getLsbD 4),
          .data (b.getLsbD 5), .data (b.getLsbD 6), .data (b.getLsbD 7), .stop ]
      s.cellLineBits = s.cellLine.flatMap bits ∧ s.headLineBits slot = (s.headLine slot).flatMap bits))
  ∧ ∀ (h : Header) (kind : Nat) (s : State),
    let k := s.live.cell
    let held := fun n : Nat => if 48 ≤ n then true else if n < 32 then false else k.holdoff
    let begun := fun (m : CellMsg) (rest : List CellMsg) =>
      { k with list := rest, holdoff := held rest.length
               sending := some { m with flags := { m.flags with holdoff := held rest.length } } }
    (∀ m : CellMsg, k.sending ≠ none → k.place m = { k with
        list := k.list ++ [m], holdoff := held (k.list.length + 1)
        status := { k.status with highMark := max k.status.highMark (k.list.length + 1) } })
    ∧ (∀ m : CellMsg, k.sending = none → k.list = [] → k.place m = { k with
        sending := some { m with flags := { m.flags with holdoff := false } }, holdoff := false
        status := { k.status with highMark := max k.status.highMark 1 } })
    ∧ (Weighed s → exec (.unknownKind h kind) s = .next (answered
        { s with live := s.live.cellError .protocol } h (.refused .unknownKind)))
    ∧ (s.setup.resetHeld = false → k.sending = none → exec .cellSentEvent s = .next s)
    ∧ (s.setup.resetHeld = false → ∀ m, k.sending = some m → m.endsRestart = false →
        ((∀ seq, s.setup.restart ≠ .taken seq) → k.list = [] →
          exec .cellSentEvent s = .next { s with live := { s.live with cell := { k with sending := none } } })
        ∧ ((∀ seq, s.setup.restart ≠ .taken seq) → ∀ x rest, k.list = x :: rest →
            exec .cellSentEvent s = .next { s with live := { s.live with cell := begun x rest } })
        ∧ ∀ seq, s.setup.restart = .taken seq →
          let replies := fun k' : CellLink =>
            ({ s with setup := { s.setup with restart := .answered }, live := { s.live with cell := k' } } : State).place
              (.answer seq .restarting)
          (k.list = [] → exec .cellSentEvent s = .next (replies { k with sending := none }))
          ∧ (∀ x, k.list = [x] → exec .cellSentEvent s = .next (replies (begun x [])))
          ∧ ∀ x y rest, k.list = x :: y :: rest →
              exec .cellSentEvent s = .next { s with live := { s.live with cell := begun x (y :: rest) } })
    ∧ (s.setup.resetHeld = false → s.setup.restart = .idle →
        (k.underHoldoff = true → exec .holdoffDiscard s = .next { s with live := s.live.closeFrame.cellError .overrun })
        ∧ (k.underHoldoff = false → exec .holdoffDiscard s = .next s)
        ∧ (k.rx.state = .outside → exec .startDelimiter s = .next { s with live := { s.live with cell := { k with
            rx := { state := .inside, content := [], discarding := k.holdoff } } } })
        ∧ exec .restartDiscardedFrame s = .next s)
    ∧ (s.setup.resetHeld = false → s.setup.restart ≠ .idle →
        exec .restartDiscardedFrame s = .next { s with live := s.live.closeFrame })
    ∧ (s.setup.resetHeld = false → ∀ m, k.sending = some m → m.endsRestart = true →
        exec .cellSentEvent s = .next (s.takeReset .restart))

/-- The receiver (R165) and the CRC (R164): every row of the table, and a damaged frame, from which nothing is taken. What an
error leaves in the link status records (R166, R167): its count, up to 255, the flag, and the last error; a damaged frame
records each error its bytes bring, one after another. -/
def Obligations.Receivers : Prop :=
  (crcOf [0x31, 0x32, 0x33, 0x34, 0x35, 0x36, 0x37, 0x38, 0x39] = 0x29B1#16)
    ∧ (∀ (held : Bool) (rx : Receiver) (b : Byte),
      let opened : Receiver := { state := .inside, content := [], discarding := held }
      let outside : Receiver := { state := .outside, content := [], discarding := false }
      let collected := fun v : Byte => if 66 ≤ rx.content.length then (outside, some LinkError.length)
        else ({ rx with state := .inside, content := rx.content ++ [v] }, none)
      (rx.state = .outside → rx.byte held b =
        if b = 0xD1 then (opened, none) else if b = 0xD2 then (rx, some .framing) else (rx, none))
      ∧ (rx.state = .inside → rx.discarding = false → rx.byte held b =
        if b = 0xD1 then (opened, some .framing)
        else if b = 0xD2 then (outside,
          if rx.content.length < 6 ∨ 66 < rx.content.length ∨ (rx.content.headD 0).toNat ≠ rx.content.length - 2 then
            some .length
          else if crcOf rx.content ≠ 0 then some .crc else none)
        else if b = 0xD3 then ({ rx with state := .escaped }, none) else collected b)
      ∧ (rx.state = .inside → rx.discarding = true → b = 0xD2 → rx.byte held b = (outside, some .overrun))
      ∧ (rx.state = .escaped → rx.byte held b =
        if b = 0xF1 then collected 0xD1 else if b = 0xF2 then collected 0xD2 else if b = 0xF3 then collected 0xD3
        else if b = 0xD1 then (opened, some .framing) else (outside, some .framing)))
    ∧ (∀ (a : CellStatus) (b : HeadStatus) (e : LinkError),
      let counts := fun (own : LinkError) (n : Nat) => if e = own then min (n + 1) 255 else n
      a.record e = { a with
        errorSeen := true, last := some e, crc := counts .crc a.crc, length := counts .length a.length
        framing := counts .framing a.framing, overrun := counts .overrun a.overrun, protocol := counts .protocol a.protocol }
      ∧ (e ≠ .overrun → b.record e = { b with
        errorSeen := true, last := some e, crc := counts .crc b.crc, length := counts .length b.length
        framing := counts .framing b.framing, protocol := counts .protocol b.protocol }))
    ∧ ∀ (slot : SlotId) (b : Byte) (bytes : List Byte) (s : State), s.setup.resetHeld = false → s.setup.restart = .idle →
      (∃ k : CellLink, exec (.damagedFrame .cell (b :: bytes)) s = .next { s with live := { s.live with cell := k } }
        ∧ k.list = s.live.cell.list ∧ k.sending = s.live.cell.sending ∧ k.holdoff = s.live.cell.holdoff
        ∧ (k.rx, k.status) = (b :: bytes).foldl (fun p x =>
            let q := p.1.byte s.live.cell.holdoff x
            (q.1, q.2.elim p.2 p.2.record)) (s.live.cell.rx, s.live.cell.status))
      ∧ (s.live.heads[slot].up = true →
        ∃ k : HeadLink, exec (.damagedFrame (.head slot) (b :: bytes)) s =
            .next { s with live := { s.live with heads := s.live.heads.set slot k } }
          ∧ k.up = true ∧ k.silence = some 250 ∧ k.list = s.live.heads[slot].list ∧ k.sending = s.live.heads[slot].sending
          ∧ (k.rx, k.status) = (b :: bytes).foldl (fun p x =>
              let q := p.1.byte false x
              (q.1, q.2.elim p.2 p.2.record)) (s.live.heads[slot].rx, s.live.heads[slot].status))

/-- The head links (R174, R175, R176): a message set aside records PROTOCOL alone; the next message is the oldest of the
highest class; the sent event begins it; and a message queued on an idle link begins at once. What the list holds at most: 4
DISCARD (R175), one of WELCOME, REJOIN and TOOL SYNC, where a TOOL SYNC gives way to the other two (R119), and one LAMP, queued
when the aspect changes (R125); in EMPTY none is (log entry 15, DEDUCED). What every frame of a head leaves (R173, R174): its
receiver outside a frame, the silence timer of a link that is UP in full, the head state kept, and PROTOCOL for one above 3.
The bytes of the messages whose layout section 9.6 gives. The model's choice: a transmission turns to sent the mark of the
order that bears its tag, whatever order that is now, as for an ISSUE left queued after a DONE (log entry 27), a frame on a DOWN
link leaves the link DOWN (log entry 12), and a frame taken while the receiver holds an open one is that one's close, with no
FRAMING recorded (log entry 39). -/
def Obligations.HeadLinkEvents : Prop :=
  (∀ (slot : SlotId) (hs : Nat) (cause : SetAsideCause) (s : State), s.setup.resetHeld = false →
      exec (.headMessageSetAside slot hs cause) s = .next (setAside s slot hs))
    ∧ (∀ (slot : SlotId) (hs : Nat) (s : State),
      let k := s.live.heads[slot]
      let heard := { k.status with headState := some hs }
      let weighed := if 3 < hs then heard.record .protocol else heard
      let left := fun status : HeadStatus =>
        { s.live with heads := s.live.heads.set slot { k with
            silence := if k.up = true then some 250 else k.silence
            rx := { state := .outside, content := [], discarding := false }
            status } }
      framed s slot hs = left weighed ∧ setAside s slot hs = { s with live := left (weighed.record .protocol) })
    ∧ (∀ (slot : SlotId) (tag hole centre offset plies grip diameter cls feed force serial channel id limit count : Nat)
        (kind : OrderKind) (lane : LaneId) (zone : ZoneId) (a : Aspect) (r : RejoinReason),
      let b := BitVec.ofNat 8
      let w := fun n : Nat => [b (n / 256), b n]
      let at_ := b (slot.val + 1)
      let code := b (0x10 + [OrderKind.drill, .ream, .set, .heat, .clamp, .unclamp, .park].idxOf kind)
      (HeadMsg.issue tag (.drill kind hole centre offset plies grip diameter cls feed)).bytes slot =
        [15, 0xA0, b tag, at_, code] ++ w hole ++ [b centre] ++ w offset ++ [b plies, b grip, b diameter, b cls, b feed]
      ∧ (HeadMsg.issue tag (.set hole centre offset plies grip cls force lane serial)).bytes slot =
        [17, 0xA0, b tag, at_, 0x12] ++ w hole ++ [b centre] ++ w offset
          ++ [b plies, b grip, b cls, b force, b (lane.val + 1)] ++ w serial
      ∧ (HeadMsg.issue tag (.heat lane cls)).bytes slot = [7, 0xA0, b tag, at_, 0x13, b (lane.val + 1), b cls]
      ∧ (HeadMsg.issue tag (.clamp kind zone channel)).bytes slot =
        [7, 0xA0, b tag, at_, code, b (zone.val + 1), b channel]
      ∧ (HeadMsg.travel tag centre).bytes slot = [5, 0xA1, b tag, at_, b centre]
      ∧ (HeadMsg.abort tag).bytes slot = [4, 0xA2, b tag, at_]
      ∧ (HeadMsg.discard serial).bytes slot = [6, 0xA3, 0, at_] ++ w serial
      ∧ (HeadMsg.lamp a).bytes slot = [5, 0xA4, 0, at_, b ([Aspect.off, .steady, .blink].idxOf a)]
      ∧ (HeadMsg.rejoin r).bytes slot = [5, 0xA9, 0, at_, match r with
        | .refused x => b ([JoinReason.badHello, .kindMismatch, .positionConflict, .laneTaken, .channels].idxOf x + 1)
        | .preload => 6
        | .cleared => 7]
      ∧ (HeadMsg.toolSync id limit count).bytes slot =
        [12, 0xAA, 0, at_] ++ w (id / 65536) ++ w (id % 65536) ++ w limit ++ w count)
    ∧ (∀ (c : Setup) (slot : SlotId) (l : Live),
      let x := l.slots[slot]
      let k := l.heads[slot]
      let a := match x.lamp with
        | .forceOn => Aspect.steady
        | .forceOff => .off
        | .auto => if x.state = .leaving then .blink else if x.state = .released then .steady else .off
      let shown := { l with slots := l.slots.set slot { x with aspect := a } }
      l.queueLamp c slot = ({ l with heads := l.heads.set slot { k with
          list := k.list.filter fun m => !m.isLamp } } : Live).queue c slot (.lamp x.aspect)
      ∧ (a = x.aspect → l.syncLamp c slot = l)
      ∧ (a ≠ x.aspect → x.state = .empty → l.syncLamp c slot = shown)
      ∧ (a ≠ x.aspect → x.state ≠ .empty → l.syncLamp c slot = shown.queueLamp c slot))
    ∧ (∀ list : List HeadMsg, (chooseHead list = none ↔ list = [])
      ∧ ∀ m rest, chooseHead list = some (m, rest) →
        ∃ older younger, list = older ++ m :: younger ∧ rest = older ++ younger
          ∧ (∀ x ∈ older, m.cls < x.cls) ∧ ∀ x ∈ younger, m.cls ≤ x.cls)
    ∧ (∀ (slot : SlotId) (s : State), s.setup.resetHeld = false →
      (s.live.heads[slot].sending = none → exec (.headSentEvent slot) s = .next s)
      ∧ ∀ m, s.live.heads[slot].sending = some m →
        let idle := s.live.updHead slot fun k => { k with sending := none }
        ((s.setup.headHold ≠ none ∨ s.live.heads[slot].list = []) →
          exec (.headSentEvent slot) s = .next { s with live := idle })
        ∧ (s.setup.headHold = none → ∀ x rest, chooseHead s.live.heads[slot].list = some (x, rest) →
          exec (.headSentEvent slot) s = .next { s with live :=
            (idle.updHead slot fun k => { k with list := rest, sending := some x }).markSent slot x }))
    ∧ ∀ (c : Setup) (slot : SlotId) (m : HeadMsg) (l : Live),
      let k := l.heads[slot]
      let joins := fun x : HeadMsg => x.cls = 2
      (c.headHold ≠ none ∨ k.sending ≠ none →
        l.queue c slot m = { l with heads := l.heads.set slot { k with list := k.list ++ [m] } })
      ∧ (c.headHold = none → k.sending = none → k.list = [] →
        l.queue c slot m = ({ l with heads := l.heads.set slot { k with sending := some m } } : Live).markSent slot m)
      ∧ (∀ tag body, m = .issue tag body → tag ≠ 0 → l.markSent slot m = { l with pool := l.pool.map fun o =>
          if o.tag = tag then { o with issueMark := some .sent } else o })
      ∧ (∀ tag centre, m = .travel tag centre → l.markSent slot m = { l with pool := l.pool.map fun o =>
          if o.tag = tag then { o with travelMark := some .sent } else o })
      ∧ (∀ body, m = .issue 0 body → ∀ i : LaneId, (l.markSent slot m).lanes[i] = { l.lanes[i] with
          heat := l.lanes[i].heat.map fun g =>
            if g.slot = slot ∧ g.origin = .lane then { g with mark := some .sent } else g })
      ∧ (m.cls ≠ 3 → l.markSent slot m = l)
      ∧ (∀ serial, l.queueDiscard c slot serial =
          if 4 ≤ (k.list.filter HeadMsg.isDiscard).length then l else l.queue c slot (.discard serial))
      ∧ (∀ id limit count, m = .toolSync id limit count →
          (∃ x ∈ k.list, (∃ kind body, x = .welcome kind body) ∨ ∃ reason, x = .rejoin reason) →
          l.queueJoin c slot m = l)
      ∧ ((∃ kind body, m = .welcome kind body) ∨ (∃ reason, m = .rejoin reason)
            ∨ ((∃ id limit count, m = .toolSync id limit count)
              ∧ ∀ x ∈ k.list, joins x → ∃ id limit count, x = .toolSync id limit count) →
          l.queueJoin c slot m =
            ({ l with heads := l.heads.set slot { k with list := k.list.filter fun x => x.cls != 2 } } : Live).queue c slot m)

/-! ### Store, preload, lockout and resets -/

/-- STORE READ and STORE WRITE (R184, R185): the refusals in their order, the read, the write begun, and its end. An
end whose ANSWER a reset has lost, or under a held reset pin, places no ANSWER, and the bytes stand all the same (R183, R193;
log entry 19). -/
def Obligations.StoreAccess : Prop :=
  ∀ (h : Header) (addr count : Nat) (data : List Byte) (s : State),
    let m := s.setup.store
    (Weighed s → Plain h 7 →
      (∀ r, firstReason
          [ (m.writing.isSome, .busy), (count == 0 || decide (48 < count), .badValue),
            (decide (8192 < addr + count), .badAddress) ] = some r →
        exec (.storeRead h addr count) s = .next (answered s h (.refused r)))
      ∧ (m.writing = none → 1 ≤ count → count ≤ 48 → addr + count ≤ 8192 →
        ∃ bytes : List Byte, exec (.storeRead h addr count) s = .next (answered s h (.storeBytes addr count bytes))
          ∧ bytes.length = count
          ∧ ∀ i, i < count → bytes[i]? = some (if m.present = true then Memory.read m.cells (addr + i) else 0xFF)))
    ∧ (Weighed s → h.selector = 0 → 7 ≤ h.length → h.length ≤ 22 → data.length = h.length - 6 →
      let refused := [ (m.writing.isSome, Reason.busy),
        (decide (8191 < addr) || decide (addr / 16 ≠ (addr + data.length - 1) / 16), .badAddress),
        (decide (addr < 256), .protected_) ]
      (∀ r, firstReason refused = some r → exec (.storeWrite h addr data) s = .next (answered s h (.refused r)))
      ∧ (firstReason refused = none → exec (.storeWrite h addr data) s = .next { closed s with
          setup := { s.setup with store := { m with writing := some { addr, data, left := 5, answer := some h.tag } } } }))
    ∧ (m.writing = none → exec .storeWriteEnd s = .next s)
    ∧ ∀ w, m.writing = some w → ∃ store : Store,
      let ended : State := { s.elapse w.left with setup := { (s.elapse w.left).setup with store } }
      (∀ seq, w.answer = some seq → s.setup.resetHeld = false →
          exec .storeWriteEnd s = .next (ended.place (.answer seq (.storeWritten w.addr w.data.length))))
        ∧ (w.answer = none ∨ s.setup.resetHeld = true → exec .storeWriteEnd s = .next ended)
        ∧ store.writing = none ∧ store.present = m.present
        ∧ (m.present = false → store.cells = m.cells)
        ∧ (m.present = true → Memory.wf m.cells = true → w.addr + w.data.length ≤ 8192 →
            Memory.wf store.cells = true ∧ ∀ a, a < 8192 → Memory.read store.cells a =
              if w.addr ≤ a ∧ a < w.addr + w.data.length then w.data.getD (a - w.addr) 0
              else Memory.read m.cells a)

/-- The preload (R187 to R189): the header, each record, and the ends. A step out of its turn changes nothing. What a record of
each kind does and how it is refused (R188): UNKNOWN_KIND, BAD_VALUE, the checks of PATTERN OPEN and PATTERN ROWS, the value
checks of the five TABLE WRITEs on the load set without those of the device's state (the ranges and codes of the entries stand
in `SlotAndLaneWrites` and `ZoneWrite`), and the UNLOCK mark. At the end a zone whose entry changed is UNKNOWN (R112), and a
lane keeps no free rivet where the new table names a slot in EMPTY, FAULTED or JOINING (R95); that it keeps those of any other
lane is the model's choice (log entry 28), as it is that a record which fails ends the preload within PRELOAD_RECORD itself
(log entry 8). -/
def Obligations.Preload : Prop :=
  (∀ s : State, s.setup.engine = none → ∀ i,
    i = Instr.preloadHeaderRead ∨ i = .preloadRecord ∨ i = .preloadEnd → exec i s = .next s)
  ∧ (∀ (c : Setup) (e : Engine) (b : List Byte),
    let kind := byteAt b 1
    let selector := byteAt b 3
    let is := fun k n : Nat => kind = k ∧ selector = n
    let refused := fun r : Reason => loadRecord c e b = .error r
    let loads := fun t : Tables => loadRecord c e b = .ok (c, { e with loadSet := t })
    let t := e.loadSet
    let fits := (is 0x20 0 ∧ b.length = 7) ∨ (is 0x21 0 ∧ b.length = 6 + 14 * byteAt b 5) ∨ (is 0x28 1 ∧ b.length = 9)
      ∨ (is 0x28 2 ∧ b.length = 7) ∨ (is 0x28 3 ∧ b.length = 7) ∨ (is 0x28 4 ∧ b.length = 9) ∨ (is 0x28 5 ∧ b.length = 5)
      ∨ (is 0x6A 0 ∧ b.length = 4)
    (kind ≠ 0x20 → kind ≠ 0x21 → kind ≠ 0x28 → kind ≠ 0x6A → refused .unknownKind)
    ∧ (kind = 0x20 ∨ kind = 0x21 ∨ kind = 0x28 ∨ kind = 0x6A → ¬ fits → refused .badValue)
    ∧ (fits → kind = 0x20 →
      let n := halfAt b 5
      (patternOf (byteAt b 4) = none ∨ n = 0 ∨ 1024 < n → refused .badValue)
      ∧ ∀ i, patternOf (byteAt b 4) = some i → 1 ≤ n → n ≤ 1024 →
        (c.patterns[i] ≠ none → refused .exists_)
        ∧ (c.patterns[i] = none → c.freeRows < n → refused .noRoom)
        ∧ (c.patterns[i] = none → n ≤ c.freeRows → loadRecord c e b = .ok ({ c with
            patterns := c.patterns.set i (some { complete := false, count := n, rows := List.replicate n none })
            freeRows := c.freeRows - n }, e)))
    ∧ (fits → kind = 0x21 →
      let k := byteAt b 5
      let rows := rawRowsOf (b.drop 6) k
      (patternOf (byteAt b 4) = none ∨ k = 0 ∨ 4 < k → refused .badValue)
      ∧ ∀ i, patternOf (byteAt b 4) = some i → 1 ≤ k → k ≤ 4 →
        (c.patterns[i] = none → refused .noPattern)
        ∧ ∀ x, c.patterns[i] = some x →
          (x.complete = true → refused .patternComplete)
          ∧ (x.complete = false → rowsFault x.count [] 1 rows ≠ none → refused .badRow)
          ∧ (x.complete = false → rowsFault x.count [] 1 rows = none →
              let stored := storeRows x.rows rows
              let y : Pattern := { x with rows := stored, complete := stored.all Option.isSome }
              loadRecord c e b = .ok ({ c with patterns := c.patterns.set i (some y) }, e)))
    ∧ (fits → is 0x28 1 →
      let value := halfAt b 5 * 65536 + halfAt b 7
      (timingOf (byteAt b 4) = none → refused .badValue)
      ∧ ∀ i, timingOf (byteAt b 4) = some i →
        let v := t.timing.set i value
        let bad := timingMaxima[i] < value ∨ max v[Timing.heatWindow] 4000 ≤ max v[Timing.transferAllowance] 500
        (bad → refused .badValue) ∧ (¬ bad → loads { t with timing := v }))
    ∧ (fits → is 0x28 2 →
      (slotEntryOf (byteAt b 4) (byteAt b 5) (byteAt b 6) = none → refused .badValue)
      ∧ ∀ i v, slotEntryOf (byteAt b 4) (byteAt b 5) (byteAt b 6) = some (i, v) →
        loads { t with slots := t.slots.set i v })
    ∧ (fits → is 0x28 3 →
      (zoneEntryOf (byteAt b 4) (byteAt b 5) (byteAt b 6) = none → refused .badValue)
      ∧ ∀ z v, zoneEntryOf (byteAt b 4) (byteAt b 5) (byteAt b 6) = some (z, v) →
        let twice := v ≠ none ∧ ∃ x : ZoneId, x ≠ z ∧ t.zones[x] = v
        (twice → refused .badValue) ∧ (¬ twice → loads { t with zones := t.zones.set z v }))
    ∧ (fits → is 0x28 4 →
      let entry := laneEntryOf (byteAt b 4) (byteAt b 5) (byteAt b 6) (byteAt b 7) (byteAt b 8)
      (entry = none → refused .badValue)
      ∧ ∀ i v, entry = some (i, v) →
        let twice := v.slot ≠ none ∧ ∃ j : LaneId, j ≠ i ∧ t.lanes[j].slot = v.slot
        (twice → refused .badValue) ∧ (¬ twice → loads { t with lanes := t.lanes.set i v }))
    ∧ (fits → is 0x28 5 →
      (byteAt b 4 = 0 ∨ 15 < byteAt b 4 → refused .badValue)
      ∧ (1 ≤ byteAt b 4 → byteAt b 4 ≤ 15 → loads { t with budget := byteAt b 4 }))
    ∧ (fits → kind = 0x6A → loadRecord c e b = .ok (c, { e with unlock := true })))
  ∧ ∀ (e : Engine) (s : State), s.setup.resetHeld = false → s.setup.engine = some e →
    let m := s.setup.store
    let number := fun a : Nat => (m.byte a).toNat * 256 + (m.byte (a + 1)).toNat
    let signed := m.byte 256 = 0x5A ∧ m.byte 257 = 0xC3
    (e.phase = .header → exec .preloadRecord s = .next s ∧ exec .preloadEnd s = .next s
      ∧ (m.writing.isSome = true → exec .preloadHeaderRead s = .next s))
    ∧ (e.phase = .header → m.writing = none →
      (¬ signed → exec .preloadHeaderRead s = .next (s.endPreload .noImage e.loadSet s.setup.strap))
      ∧ (signed → 7930 < number 258 → exec .preloadHeaderRead s = .next (s.failPreload 0 .badImage))
      ∧ (signed → number 258 ≤ 7930 →
        let phase := PreloadPhase.records 262 (number 258) 1 0xFFFF#16 (BitVec.ofNat 16 (number 260))
        exec .preloadHeaderRead s = .next { s with setup := { s.setup with engine := some { e with phase } } }))
    ∧ (∀ addr left position crc want, e.phase = .records addr left position crc want →
      let n := (m.byte addr).toNat
      exec .preloadHeaderRead s = .next s
      ∧ (left = 0 → exec .preloadRecord s = .next s) ∧ (0 < left → exec .preloadEnd s = .next s)
      ∧ (0 < left → (n < 4 ∨ 64 < n ∨ left < n) → exec .preloadRecord s = .next (s.failPreload 0 .badImage))
      ∧ (0 < left → 4 ≤ n → n ≤ 64 → n ≤ left →
        (∀ r, loadRecord s.setup e (m.bytes addr n) = .error r → exec .preloadRecord s = .next (s.failPreload position r))
        ∧ ∀ c' e', loadRecord s.setup e (m.bytes addr n) = .ok (c', e') →
          let phase := PreloadPhase.records (addr + n) (left - n) (position + 1) (crcFrom crc (m.bytes addr n)) want
          exec .preloadRecord s = .next { s with setup := { c' with engine := some { e' with phase } } })
      ∧ (left = 0 → crc ≠ want → exec .preloadEnd s = .next (s.failPreload 0 .badImage))
      ∧ (left = 0 → crc = want → exec .preloadEnd s = .next (s.endPreload .done e.loadSet (!e.unlock))))
    ∧ (∀ st t lock, ∃ u : Taking,
        s.endPreload st t lock = settled { s with setup := { s.setup with
          preload := st, engine := none, tables := t, lockout := lock } } u
        ∧ (∀ z : ZoneId, u.live.zones[z] =
            if s.setup.tables.zones[z] = t.zones[z] then s.live.zones[z] else { state := .unknown, expected := false })
        ∧ ∀ i : LaneId,
          let gone := ∃ j, t.lanes[i].slot = some j ∧ s.live.slots[j].state.joined = false
          let stock := s.live.lanes[i].stock
          (gone → u.live.lanes[i] = { s.live.lanes[i] with stock := stock.filter fun r => r.tag.isSome })
          ∧ (¬ gone → u.live.lanes[i] = s.live.lanes[i]))
    ∧ ∀ position r,
      (s.failPreload position r).setup =
        { s.setup with
          patterns := Vector.replicate 4 none, freeRows := 2048, preload := .failed, engine := none
          tables := Tables.defaults, lockout := true }
      ∧ (s.failPreload position r).live.notices[noticeIndex 0 .fault] = some
          (postedEntry .preloadFailed (.record position r) s.live.notices[noticeIndex 0 .fault])

/-- UNLOCK, RELOAD and RESTART (R191, R192, R194). The LOCKED flag that the ANSWER carries: clear after UNLOCK, set after
RELOAD. A RELOAD empties the stocks (R98): each rivet is scrapped as by R91, with DISCARD to a heater slot in READY, BUSY,
LEAVING or RELEASED and RIVET_SCRAPPED. That the rivets go oldest first (log entry 36), and that in a lane whose entry names no
slot they go without DISCARD and notice (log entry 28), is the model's choice. -/
def Obligations.LockMessages : Prop :=
  ∀ (h : Header) (s : State), Weighed s → Plain h 4 →
    let told := fun (t : State) (a : Answer) (locked : Bool) => ∃ flags : CellFlags, flags.locked = locked
      ∧ ({ body := .answer h.tag a, flags } : CellMsg) ∈ t.live.cell.sending.toList ++ t.live.cell.list
    (∃ t : State, exec (.unlock h) s = .next t
      ∧ t = answered { s with setup := { s.setup with lockout := false } } h (.unlocked false) ∧ told t (.unlocked false) false)
    ∧ (let refused := [ (s.setup.mode != .standby, Reason.wrongMode), (!s.live.pool.isEmpty, .inUse),
          (s.setup.store.writing.isSome, .busy) ]
      (∀ r, firstReason refused = some r → exec (.reload h) s = .next (answered s h (.refused r)))
      ∧ (firstReason refused = none →
        let setup := { s.setup with
          patterns := Vector.replicate 4 none, freeRows := 2048, lockout := true, preload := .running
          engine := some { phase := .header, loadSet := Tables.defaults, unlock := false } }
        let scrapped := fun (i : LaneId) (l : Live) (r : Rivet) =>
          match s.setup.tables.lanes[i].slot with
          | none => l
          | some j =>
            (if l.slots[j].state.joined = true then l.queueDiscard s.setup j r.serial else l).postSlot j .rivetScrapped (.lane i)
        let emptied := fun (i : LaneId) (l : Live) =>
          l.lanes[i].stock.foldl (scrapped i) (l.updLane i fun x => { x with stock := [], late := false })
        ∃ t : State, exec (.reload h) s = .next t
          ∧ t = ({ closed s with setup, live := emptied 1 (emptied 0 (closed s).live) } : State).place (.answer h.tag .ok)
          ∧ t.pending = s.pending ∧ t.live.pool = [] ∧ t.live.slots = s.live.slots ∧ t.live.holdings = s.live.holdings
          ∧ t.live.zones = s.live.zones
          ∧ (∀ i : LaneId, t.live.lanes[i].stock = [] ∧ t.live.lanes[i].late = false
              ∧ t.live.lanes[i].fault = s.live.lanes[i].fault)
          ∧ told t .ok true))
    ∧ (s.setup.store.writing.isSome = true → exec (.restart h) s = .next (answered s h (.refused .busy)))
    ∧ (s.setup.store.writing = none →
        (s.live.cell.list = [] → exec (.restart h) s = .next (answered
          { s with setup := { s.setup with restart := .answered } } h .restarting))
        ∧ (s.live.cell.list ≠ [] → exec (.restart h) s = .next { closed s with
          setup := { s.setup with restart := .taken h.tag } }))

/-- The resets (R193, R183, R152, R194): every block at its reset value (R24, R56, R72, R78, R99, R112, R140, R182), the
guard and mode read from the inputs, RESTARTED posted and the preload begun; the pin; and the end of the head links'
silence. A store write in progress goes on in the device and its ANSWER is lost (R185). That POWER_UP is a reset whatever the
pin is log entry 19; that a POWER or PIN reset within the silence after a RESTART ends it is the model's choice (log entry 35);
that the time left of the silence passes first, and that an end without one changes nothing, is the model's choice (log entry
2). -/
def Obligations.Resets : Prop :=
  (∀ cause : ResetCause,
    let rx : Receiver := { state := .outside, content := [], discarding := false }
    let cellStatus : CellStatus :=
      { errorSeen := false, crc := 0, length := 0, framing := 0, overrun := 0, protocol := 0, last := none, highMark := 0 }
    let headStatus : HeadStatus :=
      { errorSeen := false, crc := 0, length := 0, framing := 0, protocol := 0, last := none, downs := 0
        headState := none }
    let slot : Slot :=
      { state := .empty, head := none, tool := none, work := .idle, lever := .closed, leverPending := false
        lamp := .auto, aspect := .off, timer := none, fault := none }
    Live.reset cause =
      { pool := [], slow := false, holes := [], holdings := Vector.replicate 12 none, travels := Vector.replicate 12 none
        requestsA := [], requestsB := [], unitsInUse := 0
        lanes := Vector.replicate 2 { stock := [], heat := none, late := false, cadence := none, fault := none }
        zones := Vector.replicate 8 { state := .unknown, expected := false }
        slots := Vector.replicate 12 slot
        notices := (Vector.replicate 52 none).set (noticeIndex 0 .info)
          (some { code := .restarted, detail := .reset cause, overrun := false })
        cell := { list := [], sending := none, holdoff := false, rx, status := cellStatus }
        heads := Vector.replicate 12 { up := false, silence := none, list := [], sending := none, rx, status := headStatus } })
  ∧ ∀ s : State,
    (
      let reset := fun (cause : ResetCause) (t : State) =>
        (t.live = Live.reset cause ∧ t.pending = s.pending
          ∧ t.setup.patterns = Vector.replicate 4 none ∧ t.setup.freeRows = 2048 ∧ t.setup.frame = none
          ∧ t.setup.tables = Tables.defaults ∧ t.setup.lockout = true ∧ t.setup.preload = .running
          ∧ t.setup.engine = some { phase := .header, loadSet := Tables.defaults, unlock := false }
          ∧ t.setup.resetCause = cause ∧ t.setup.resetHeld = false ∧ t.setup.restart = .idle
          ∧ t.setup.pins = s.setup.pins ∧ t.setup.strap = s.setup.strap
          ∧ t.setup.store.writing = s.setup.store.writing.map (fun w => { w with answer := none })
          ∧ t.setup.store.cells = s.setup.store.cells ∧ t.setup.store.present = s.setup.store.present
          ∧ t.setup.headHold = (if cause = .restart then some 300 else none)
          ∧ t.setup.guard.ch1 = s.setup.pins.ch1 ∧ t.setup.guard.ch2 = s.setup.pins.ch2
          ∧ t.setup.guard.state =
              (if s.setup.pins.ch1 = .closed ∧ s.setup.pins.ch2 = .closed then .closed else .opened)
          ∧ t.setup.guard.timer = (if s.setup.pins.ch1 = s.setup.pins.ch2 then none else some 50)
          ∧ t.setup.mode = (if t.setup.guard.state = .closed then .standby else .stop)
          ∧ t.live.notices[noticeIndex 0 .info] = some { code := .restarted, detail := .reset cause, overrun := false }
          ∧ ∀ i, i ≠ noticeIndex 0 .info → t.live.notices[i] = none)
      (∀ cause, reset cause (s.takeReset cause))
      ∧ exec .powerUp s = .next (s.takeReset .power)
      ∧ exec .resetPinHeld s = .next { s with setup := { s.setup with resetHeld := true } }
      ∧ (s.setup.resetHeld = true → exec .resetPinRelease s = .next (s.takeReset .pin))
      ∧ (s.setup.resetHeld = false → exec .resetPinRelease s = .next s))
    ∧ (s.setup.resetHeld = false → s.setup.headHold = none → exec .headLinkHoldEnd s = .next s)
    ∧ ∀ n, s.setup.resetHeld = false → s.setup.headHold = some n →
      ∃ t : State, exec .headLinkHoldEnd s = .next t
        ∧ t.setup = { (s.elapse n).setup with headHold := none } ∧ t.live.cell = s.live.cell
        ∧ t.live.notices = s.live.notices ∧ t.live.holes = s.live.holes
        ∧ ∀ i : SlotId, s.live.heads[i].sending = none →
            (∀ x rest, chooseHead s.live.heads[i].list = some (x, rest) →
              t.live.heads[i].sending = some x ∧ t.live.heads[i].list = rest)
            ∧ (s.live.heads[i].list = [] → t.live.heads[i].sending = none ∧ t.live.heads[i].list = [])
end

