-- ==== Sys2Proof/Laws/Vectors.lean ====
section
/-! SUPPORT. Reading vectors after `vmod` and `vmap`, and what the numbers of slots, zones, lanes and patterns give. -/

namespace Sys2Proof.Machine

/-- Reading an entry after one entry has been passed through a function. -/
@[simp] theorem vmod_getElem {α : Type} {n : Nat} (v : Vector α n) (i : Fin n) (j : Nat) (hj : j < n) (f : α → α) :
    (vmod v i f)[j] = if j = i.val then f v[i.val] else v[j] := by
  by_cases h : j = i.val
  · subst h; simp [vmod]
  · have : i.val ≠ j := fun e => h e.symm
    simp [vmod, h, this]

/-- The same with an index of the vector's own type. -/
theorem vmod_get {α : Type} {n : Nat} (v : Vector α n) (i j : Fin n) (f : α → α) :
    (vmod v i f)[j] = if j = i then f v[i] else v[j] := by
  simp only [Fin.getElem_fin, vmod_getElem, Fin.ext_iff]

theorem vmod_get_self {α : Type} {n : Nat} (v : Vector α n) (i : Fin n) (f : α → α) : (vmod v i f)[i] = f v[i] := by
  rw [vmod_get, if_pos rfl]

theorem vmod_get_ne {α : Type} {n : Nat} (v : Vector α n) {i j : Fin n} (f : α → α) (h : j ≠ i) :
    (vmod v i f)[j] = v[j] := by rw [vmod_get, if_neg h]

/-- Reading an entry after every entry has been passed through a function. -/
@[simp] theorem vmap_getElem {α β : Type} {n : Nat} (f : α → β) (v : Vector α n) (i : Nat) (h : i < n) :
    (vmap f v)[i] = f v[i] := by
  simp [vmap]

/-- The same with an index of the vector's own type. -/
theorem vmap_get {α β : Type} {n : Nat} (f : α → β) (v : Vector α n) (i : Fin n) : (vmap f v)[i] = f v[i] := by
  simp only [Fin.getElem_fin, vmap_getElem]

/-- Reading an entry after one has been replaced. -/
theorem vset_get {α : Type} {n : Nat} (v : Vector α n) (i j : Fin n) (x : α) :
    (v.set i x)[j] = if j = i then x else v[j] := vmod_get v i j fun _ => x

/-- Two vectors whose entries agree are equal. -/
theorem vector_ext {α : Type} {n : Nat} {v w : Vector α n} (h : ∀ i : Fin n, v[i] = w[i]) : v = w := by
  apply Vector.ext
  intro i hi
  exact h ⟨i, hi⟩

/-- Passing an entry through two functions one after the other. -/
theorem vmod_vmod {α : Type} {n : Nat} (v : Vector α n) (i : Fin n) (f g : α → α) :
    vmod (vmod v i f) i g = vmod v i fun x => g (f x) := by
  apply vector_ext
  intro j
  simp only [vmod_get]
  split <;> simp_all

/-- Passing an entry through the identity. -/
theorem vmod_id {α : Type} {n : Nat} (v : Vector α n) (i : Fin n) (f : α → α) (h : f v[i] = v[i]) : vmod v i f = v := by
  apply vector_ext
  intro j
  rw [vmod_get]
  split
  · rename_i e; rw [e, h]
  · rfl

theorem slotOf_eq_some {n : Nat} {s : SlotId} : slotOf n = some s ↔ n = s.val + 1 := by
  unfold slotOf
  split
  · rename_i h
    rw [Option.some.injEq, Fin.ext_iff]
    show n - 1 = s.val ↔ _
    omega
  · have := s.isLt
    simp only [reduceCtorEq, false_iff]
    omega

theorem zoneOf_eq_some {n : Nat} {z : ZoneId} : zoneOf n = some z ↔ n = z.val + 1 := by
  unfold zoneOf
  split
  · rw [Option.some.injEq, Fin.ext_iff]
    show n - 1 = z.val ↔ _
    omega
  · have := z.isLt
    simp only [reduceCtorEq, false_iff]
    omega

theorem laneOf_eq_some {n : Nat} {i : LaneId} : laneOf n = some i ↔ n = i.val + 1 := by
  unfold laneOf
  split
  · rw [Option.some.injEq, Fin.ext_iff]
    show n - 1 = i.val ↔ _
    omega
  · have := i.isLt
    simp only [reduceCtorEq, false_iff]
    omega

theorem patternOf_eq_some {n : Nat} {i : PatternId} : patternOf n = some i ↔ n = i.val + 1 := by
  unfold patternOf
  split
  · rw [Option.some.injEq, Fin.ext_iff]
    show n - 1 = i.val ↔ _
    omega
  · have := i.isLt
    simp only [reduceCtorEq, false_iff]
    omega

theorem mem_allSlots (s : SlotId) : s ∈ allSlots := List.mem_finRange s

theorem mem_allZones (z : ZoneId) : z ∈ allZones := List.mem_finRange z

end Sys2Proof.Machine
end

