-- ==== Sys2Proof/Laws/State.lean ====
section
/-!
SUPPORT. One lemma per field per update of the live state, and of the whole state: a field that an update does not name
reads as before. No later proof unfolds an update.
-/

namespace Sys2Proof.Machine

/-! ### Updates that are one record update -/

section

variable (l : Live)

@[simp] theorem Live.post_pool (src : Fin 13) (code : NoticeCode) (d : Detail) :
    (Live.post src code d l).pool = l.pool := rfl
@[simp] theorem Live.post_slow (src : Fin 13) (code : NoticeCode) (d : Detail) :
    (Live.post src code d l).slow = l.slow := rfl
@[simp] theorem Live.post_holes (src : Fin 13) (code : NoticeCode) (d : Detail) :
    (Live.post src code d l).holes = l.holes := rfl
@[simp] theorem Live.post_holdings (src : Fin 13) (code : NoticeCode) (d : Detail) :
    (Live.post src code d l).holdings = l.holdings := rfl
@[simp] theorem Live.post_travels (src : Fin 13) (code : NoticeCode) (d : Detail) :
    (Live.post src code d l).travels = l.travels := rfl
@[simp] theorem Live.post_requestsA (src : Fin 13) (code : NoticeCode) (d : Detail) :
    (Live.post src code d l).requestsA = l.requestsA := rfl
@[simp] theorem Live.post_requestsB (src : Fin 13) (code : NoticeCode) (d : Detail) :
    (Live.post src code d l).requestsB = l.requestsB := rfl
@[simp] theorem Live.post_unitsInUse (src : Fin 13) (code : NoticeCode) (d : Detail) :
    (Live.post src code d l).unitsInUse = l.unitsInUse := rfl
@[simp] theorem Live.post_lanes (src : Fin 13) (code : NoticeCode) (d : Detail) :
    (Live.post src code d l).lanes = l.lanes := rfl
@[simp] theorem Live.post_zones (src : Fin 13) (code : NoticeCode) (d : Detail) :
    (Live.post src code d l).zones = l.zones := rfl
@[simp] theorem Live.post_slots (src : Fin 13) (code : NoticeCode) (d : Detail) :
    (Live.post src code d l).slots = l.slots := rfl
@[simp] theorem Live.post_notices (src : Fin 13) (code : NoticeCode) (d : Detail) :
    (Live.post src code d l).notices = vmod l.notices (noticeIndex src code.level) fun e => some (postedEntry code d e) := rfl
@[simp] theorem Live.post_cell (src : Fin 13) (code : NoticeCode) (d : Detail) :
    (Live.post src code d l).cell = l.cell := rfl
@[simp] theorem Live.post_heads (src : Fin 13) (code : NoticeCode) (d : Detail) :
    (Live.post src code d l).heads = l.heads := rfl

@[simp] theorem Live.postSlot_pool (s : SlotId) (code : NoticeCode) (d : Detail) :
    (Live.postSlot s code d l).pool = l.pool := rfl
@[simp] theorem Live.postSlot_slow (s : SlotId) (code : NoticeCode) (d : Detail) :
    (Live.postSlot s code d l).slow = l.slow := rfl
@[simp] theorem Live.postSlot_holes (s : SlotId) (code : NoticeCode) (d : Detail) :
    (Live.postSlot s code d l).holes = l.holes := rfl
@[simp] theorem Live.postSlot_holdings (s : SlotId) (code : NoticeCode) (d : Detail) :
    (Live.postSlot s code d l).holdings = l.holdings := rfl
@[simp] theorem Live.postSlot_travels (s : SlotId) (code : NoticeCode) (d : Detail) :
    (Live.postSlot s code d l).travels = l.travels := rfl
@[simp] theorem Live.postSlot_requestsA (s : SlotId) (code : NoticeCode) (d : Detail) :
    (Live.postSlot s code d l).requestsA = l.requestsA := rfl
@[simp] theorem Live.postSlot_requestsB (s : SlotId) (code : NoticeCode) (d : Detail) :
    (Live.postSlot s code d l).requestsB = l.requestsB := rfl
@[simp] theorem Live.postSlot_unitsInUse (s : SlotId) (code : NoticeCode) (d : Detail) :
    (Live.postSlot s code d l).unitsInUse = l.unitsInUse := rfl
@[simp] theorem Live.postSlot_lanes (s : SlotId) (code : NoticeCode) (d : Detail) :
    (Live.postSlot s code d l).lanes = l.lanes := rfl
@[simp] theorem Live.postSlot_zones (s : SlotId) (code : NoticeCode) (d : Detail) :
    (Live.postSlot s code d l).zones = l.zones := rfl
@[simp] theorem Live.postSlot_slots (s : SlotId) (code : NoticeCode) (d : Detail) :
    (Live.postSlot s code d l).slots = l.slots := rfl
@[simp] theorem Live.postSlot_notices (s : SlotId) (code : NoticeCode) (d : Detail) :
    (Live.postSlot s code d l).notices = vmod l.notices (noticeIndex (slotSource s) code.level) fun e => some (postedEntry code d e) := rfl
@[simp] theorem Live.postSlot_cell (s : SlotId) (code : NoticeCode) (d : Detail) :
    (Live.postSlot s code d l).cell = l.cell := rfl
@[simp] theorem Live.postSlot_heads (s : SlotId) (code : NoticeCode) (d : Detail) :
    (Live.postSlot s code d l).heads = l.heads := rfl

@[simp] theorem Live.place_pool (c : Setup) (b : CellBody) : (Live.place c b l).pool = l.pool := rfl
@[simp] theorem Live.place_slow (c : Setup) (b : CellBody) : (Live.place c b l).slow = l.slow := rfl
@[simp] theorem Live.place_holes (c : Setup) (b : CellBody) : (Live.place c b l).holes = l.holes := rfl
@[simp] theorem Live.place_holdings (c : Setup) (b : CellBody) : (Live.place c b l).holdings = l.holdings := rfl
@[simp] theorem Live.place_travels (c : Setup) (b : CellBody) : (Live.place c b l).travels = l.travels := rfl
@[simp] theorem Live.place_requestsA (c : Setup) (b : CellBody) : (Live.place c b l).requestsA = l.requestsA := rfl
@[simp] theorem Live.place_requestsB (c : Setup) (b : CellBody) : (Live.place c b l).requestsB = l.requestsB := rfl
@[simp] theorem Live.place_unitsInUse (c : Setup) (b : CellBody) : (Live.place c b l).unitsInUse = l.unitsInUse := rfl
@[simp] theorem Live.place_lanes (c : Setup) (b : CellBody) : (Live.place c b l).lanes = l.lanes := rfl
@[simp] theorem Live.place_zones (c : Setup) (b : CellBody) : (Live.place c b l).zones = l.zones := rfl
@[simp] theorem Live.place_slots (c : Setup) (b : CellBody) : (Live.place c b l).slots = l.slots := rfl
@[simp] theorem Live.place_notices (c : Setup) (b : CellBody) : (Live.place c b l).notices = l.notices := rfl
@[simp] theorem Live.place_cell (c : Setup) (b : CellBody) :
    (Live.place c b l).cell = l.cell.place { body := b, flags := flagsAtPlacement c l } := rfl
@[simp] theorem Live.place_heads (c : Setup) (b : CellBody) : (Live.place c b l).heads = l.heads := rfl

@[simp] theorem Live.cellError_pool (e : LinkError) : (Live.cellError e l).pool = l.pool := rfl
@[simp] theorem Live.cellError_slow (e : LinkError) : (Live.cellError e l).slow = l.slow := rfl
@[simp] theorem Live.cellError_holes (e : LinkError) : (Live.cellError e l).holes = l.holes := rfl
@[simp] theorem Live.cellError_holdings (e : LinkError) : (Live.cellError e l).holdings = l.holdings := rfl
@[simp] theorem Live.cellError_travels (e : LinkError) : (Live.cellError e l).travels = l.travels := rfl
@[simp] theorem Live.cellError_requestsA (e : LinkError) : (Live.cellError e l).requestsA = l.requestsA := rfl
@[simp] theorem Live.cellError_requestsB (e : LinkError) : (Live.cellError e l).requestsB = l.requestsB := rfl
@[simp] theorem Live.cellError_unitsInUse (e : LinkError) : (Live.cellError e l).unitsInUse = l.unitsInUse := rfl
@[simp] theorem Live.cellError_lanes (e : LinkError) : (Live.cellError e l).lanes = l.lanes := rfl
@[simp] theorem Live.cellError_zones (e : LinkError) : (Live.cellError e l).zones = l.zones := rfl
@[simp] theorem Live.cellError_slots (e : LinkError) : (Live.cellError e l).slots = l.slots := rfl
@[simp] theorem Live.cellError_notices (e : LinkError) : (Live.cellError e l).notices = l.notices := rfl
@[simp] theorem Live.cellError_cell (e : LinkError) :
    (Live.cellError e l).cell = { l.cell with status := l.cell.status.record e } := rfl
@[simp] theorem Live.cellError_heads (e : LinkError) : (Live.cellError e l).heads = l.heads := rfl

@[simp] theorem Live.closeFrame_pool : (Live.closeFrame l).pool = l.pool := rfl
@[simp] theorem Live.closeFrame_slow : (Live.closeFrame l).slow = l.slow := rfl
@[simp] theorem Live.closeFrame_holes : (Live.closeFrame l).holes = l.holes := rfl
@[simp] theorem Live.closeFrame_holdings : (Live.closeFrame l).holdings = l.holdings := rfl
@[simp] theorem Live.closeFrame_travels : (Live.closeFrame l).travels = l.travels := rfl
@[simp] theorem Live.closeFrame_requestsA : (Live.closeFrame l).requestsA = l.requestsA := rfl
@[simp] theorem Live.closeFrame_requestsB : (Live.closeFrame l).requestsB = l.requestsB := rfl
@[simp] theorem Live.closeFrame_unitsInUse : (Live.closeFrame l).unitsInUse = l.unitsInUse := rfl
@[simp] theorem Live.closeFrame_lanes : (Live.closeFrame l).lanes = l.lanes := rfl
@[simp] theorem Live.closeFrame_zones : (Live.closeFrame l).zones = l.zones := rfl
@[simp] theorem Live.closeFrame_slots : (Live.closeFrame l).slots = l.slots := rfl
@[simp] theorem Live.closeFrame_notices : (Live.closeFrame l).notices = l.notices := rfl
@[simp] theorem Live.closeFrame_cell : (Live.closeFrame l).cell = { l.cell with rx := Receiver.reset } := rfl
@[simp] theorem Live.closeFrame_heads : (Live.closeFrame l).heads = l.heads := rfl

@[simp] theorem Live.updOrder_pool (tag : Nat) (f : Order → Order) :
    (Live.updOrder tag f l).pool = l.pool.map fun o => if o.tag = tag then f o else o := rfl
@[simp] theorem Live.updOrder_slow (tag : Nat) (f : Order → Order) : (Live.updOrder tag f l).slow = l.slow := rfl
@[simp] theorem Live.updOrder_holes (tag : Nat) (f : Order → Order) : (Live.updOrder tag f l).holes = l.holes := rfl
@[simp] theorem Live.updOrder_holdings (tag : Nat) (f : Order → Order) :
    (Live.updOrder tag f l).holdings = l.holdings := rfl
@[simp] theorem Live.updOrder_travels (tag : Nat) (f : Order → Order) :
    (Live.updOrder tag f l).travels = l.travels := rfl
@[simp] theorem Live.updOrder_requestsA (tag : Nat) (f : Order → Order) :
    (Live.updOrder tag f l).requestsA = l.requestsA := rfl
@[simp] theorem Live.updOrder_requestsB (tag : Nat) (f : Order → Order) :
    (Live.updOrder tag f l).requestsB = l.requestsB := rfl
@[simp] theorem Live.updOrder_unitsInUse (tag : Nat) (f : Order → Order) :
    (Live.updOrder tag f l).unitsInUse = l.unitsInUse := rfl
@[simp] theorem Live.updOrder_lanes (tag : Nat) (f : Order → Order) : (Live.updOrder tag f l).lanes = l.lanes := rfl
@[simp] theorem Live.updOrder_zones (tag : Nat) (f : Order → Order) : (Live.updOrder tag f l).zones = l.zones := rfl
@[simp] theorem Live.updOrder_slots (tag : Nat) (f : Order → Order) : (Live.updOrder tag f l).slots = l.slots := rfl
@[simp] theorem Live.updOrder_notices (tag : Nat) (f : Order → Order) :
    (Live.updOrder tag f l).notices = l.notices := rfl
@[simp] theorem Live.updOrder_cell (tag : Nat) (f : Order → Order) : (Live.updOrder tag f l).cell = l.cell := rfl
@[simp] theorem Live.updOrder_heads (tag : Nat) (f : Order → Order) : (Live.updOrder tag f l).heads = l.heads := rfl

@[simp] theorem Live.updSlot_pool (s : SlotId) (f : Slot → Slot) : (Live.updSlot s f l).pool = l.pool := rfl
@[simp] theorem Live.updSlot_slow (s : SlotId) (f : Slot → Slot) : (Live.updSlot s f l).slow = l.slow := rfl
@[simp] theorem Live.updSlot_holes (s : SlotId) (f : Slot → Slot) : (Live.updSlot s f l).holes = l.holes := rfl
@[simp] theorem Live.updSlot_holdings (s : SlotId) (f : Slot → Slot) : (Live.updSlot s f l).holdings = l.holdings := rfl
@[simp] theorem Live.updSlot_travels (s : SlotId) (f : Slot → Slot) : (Live.updSlot s f l).travels = l.travels := rfl
@[simp] theorem Live.updSlot_requestsA (s : SlotId) (f : Slot → Slot) :
    (Live.updSlot s f l).requestsA = l.requestsA := rfl
@[simp] theorem Live.updSlot_requestsB (s : SlotId) (f : Slot → Slot) :
    (Live.updSlot s f l).requestsB = l.requestsB := rfl
@[simp] theorem Live.updSlot_unitsInUse (s : SlotId) (f : Slot → Slot) :
    (Live.updSlot s f l).unitsInUse = l.unitsInUse := rfl
@[simp] theorem Live.updSlot_lanes (s : SlotId) (f : Slot → Slot) : (Live.updSlot s f l).lanes = l.lanes := rfl
@[simp] theorem Live.updSlot_zones (s : SlotId) (f : Slot → Slot) : (Live.updSlot s f l).zones = l.zones := rfl
@[simp] theorem Live.updSlot_slots (s : SlotId) (f : Slot → Slot) : (Live.updSlot s f l).slots = vmod l.slots s f := rfl
@[simp] theorem Live.updSlot_notices (s : SlotId) (f : Slot → Slot) : (Live.updSlot s f l).notices = l.notices := rfl
@[simp] theorem Live.updSlot_cell (s : SlotId) (f : Slot → Slot) : (Live.updSlot s f l).cell = l.cell := rfl
@[simp] theorem Live.updSlot_heads (s : SlotId) (f : Slot → Slot) : (Live.updSlot s f l).heads = l.heads := rfl

@[simp] theorem Live.updHead_pool (s : SlotId) (f : HeadLink → HeadLink) : (Live.updHead s f l).pool = l.pool := rfl
@[simp] theorem Live.updHead_slow (s : SlotId) (f : HeadLink → HeadLink) : (Live.updHead s f l).slow = l.slow := rfl
@[simp] theorem Live.updHead_holes (s : SlotId) (f : HeadLink → HeadLink) : (Live.updHead s f l).holes = l.holes := rfl
@[simp] theorem Live.updHead_holdings (s : SlotId) (f : HeadLink → HeadLink) :
    (Live.updHead s f l).holdings = l.holdings := rfl
@[simp] theorem Live.updHead_travels (s : SlotId) (f : HeadLink → HeadLink) :
    (Live.updHead s f l).travels = l.travels := rfl
@[simp] theorem Live.updHead_requestsA (s : SlotId) (f : HeadLink → HeadLink) :
    (Live.updHead s f l).requestsA = l.requestsA := rfl
@[simp] theorem Live.updHead_requestsB (s : SlotId) (f : HeadLink → HeadLink) :
    (Live.updHead s f l).requestsB = l.requestsB := rfl
@[simp] theorem Live.updHead_unitsInUse (s : SlotId) (f : HeadLink → HeadLink) :
    (Live.updHead s f l).unitsInUse = l.unitsInUse := rfl
@[simp] theorem Live.updHead_lanes (s : SlotId) (f : HeadLink → HeadLink) : (Live.updHead s f l).lanes = l.lanes := rfl
@[simp] theorem Live.updHead_zones (s : SlotId) (f : HeadLink → HeadLink) : (Live.updHead s f l).zones = l.zones := rfl
@[simp] theorem Live.updHead_slots (s : SlotId) (f : HeadLink → HeadLink) : (Live.updHead s f l).slots = l.slots := rfl
@[simp] theorem Live.updHead_notices (s : SlotId) (f : HeadLink → HeadLink) :
    (Live.updHead s f l).notices = l.notices := rfl
@[simp] theorem Live.updHead_cell (s : SlotId) (f : HeadLink → HeadLink) : (Live.updHead s f l).cell = l.cell := rfl
@[simp] theorem Live.updHead_heads (s : SlotId) (f : HeadLink → HeadLink) :
    (Live.updHead s f l).heads = vmod l.heads s f := rfl

@[simp] theorem Live.updLane_pool (i : LaneId) (f : Lane → Lane) : (Live.updLane i f l).pool = l.pool := rfl
@[simp] theorem Live.updLane_slow (i : LaneId) (f : Lane → Lane) : (Live.updLane i f l).slow = l.slow := rfl
@[simp] theorem Live.updLane_holes (i : LaneId) (f : Lane → Lane) : (Live.updLane i f l).holes = l.holes := rfl
@[simp] theorem Live.updLane_holdings (i : LaneId) (f : Lane → Lane) : (Live.updLane i f l).holdings = l.holdings := rfl
@[simp] theorem Live.updLane_travels (i : LaneId) (f : Lane → Lane) : (Live.updLane i f l).travels = l.travels := rfl
@[simp] theorem Live.updLane_requestsA (i : LaneId) (f : Lane → Lane) :
    (Live.updLane i f l).requestsA = l.requestsA := rfl
@[simp] theorem Live.updLane_requestsB (i : LaneId) (f : Lane → Lane) :
    (Live.updLane i f l).requestsB = l.requestsB := rfl
@[simp] theorem Live.updLane_unitsInUse (i : LaneId) (f : Lane → Lane) :
    (Live.updLane i f l).unitsInUse = l.unitsInUse := rfl
@[simp] theorem Live.updLane_lanes (i : LaneId) (f : Lane → Lane) : (Live.updLane i f l).lanes = vmod l.lanes i f := rfl
@[simp] theorem Live.updLane_zones (i : LaneId) (f : Lane → Lane) : (Live.updLane i f l).zones = l.zones := rfl
@[simp] theorem Live.updLane_slots (i : LaneId) (f : Lane → Lane) : (Live.updLane i f l).slots = l.slots := rfl
@[simp] theorem Live.updLane_notices (i : LaneId) (f : Lane → Lane) : (Live.updLane i f l).notices = l.notices := rfl
@[simp] theorem Live.updLane_cell (i : LaneId) (f : Lane → Lane) : (Live.updLane i f l).cell = l.cell := rfl
@[simp] theorem Live.updLane_heads (i : LaneId) (f : Lane → Lane) : (Live.updLane i f l).heads = l.heads := rfl

@[simp] theorem Live.updZone_pool (z : ZoneId) (f : Zone → Zone) : (Live.updZone z f l).pool = l.pool := rfl
@[simp] theorem Live.updZone_slow (z : ZoneId) (f : Zone → Zone) : (Live.updZone z f l).slow = l.slow := rfl
@[simp] theorem Live.updZone_holes (z : ZoneId) (f : Zone → Zone) : (Live.updZone z f l).holes = l.holes := rfl
@[simp] theorem Live.updZone_holdings (z : ZoneId) (f : Zone → Zone) : (Live.updZone z f l).holdings = l.holdings := rfl
@[simp] theorem Live.updZone_travels (z : ZoneId) (f : Zone → Zone) : (Live.updZone z f l).travels = l.travels := rfl
@[simp] theorem Live.updZone_requestsA (z : ZoneId) (f : Zone → Zone) :
    (Live.updZone z f l).requestsA = l.requestsA := rfl
@[simp] theorem Live.updZone_requestsB (z : ZoneId) (f : Zone → Zone) :
    (Live.updZone z f l).requestsB = l.requestsB := rfl
@[simp] theorem Live.updZone_unitsInUse (z : ZoneId) (f : Zone → Zone) :
    (Live.updZone z f l).unitsInUse = l.unitsInUse := rfl
@[simp] theorem Live.updZone_lanes (z : ZoneId) (f : Zone → Zone) : (Live.updZone z f l).lanes = l.lanes := rfl
@[simp] theorem Live.updZone_zones (z : ZoneId) (f : Zone → Zone) : (Live.updZone z f l).zones = vmod l.zones z f := rfl
@[simp] theorem Live.updZone_slots (z : ZoneId) (f : Zone → Zone) : (Live.updZone z f l).slots = l.slots := rfl
@[simp] theorem Live.updZone_notices (z : ZoneId) (f : Zone → Zone) : (Live.updZone z f l).notices = l.notices := rfl
@[simp] theorem Live.updZone_cell (z : ZoneId) (f : Zone → Zone) : (Live.updZone z f l).cell = l.cell := rfl
@[simp] theorem Live.updZone_heads (z : ZoneId) (f : Zone → Zone) : (Live.updZone z f l).heads = l.heads := rfl

@[simp] theorem Live.headError_pool (s : SlotId) (e : LinkError) : (Live.headError s e l).pool = l.pool := rfl
@[simp] theorem Live.headError_slow (s : SlotId) (e : LinkError) : (Live.headError s e l).slow = l.slow := rfl
@[simp] theorem Live.headError_holes (s : SlotId) (e : LinkError) : (Live.headError s e l).holes = l.holes := rfl
@[simp] theorem Live.headError_holdings (s : SlotId) (e : LinkError) :
    (Live.headError s e l).holdings = l.holdings := rfl
@[simp] theorem Live.headError_travels (s : SlotId) (e : LinkError) : (Live.headError s e l).travels = l.travels := rfl
@[simp] theorem Live.headError_requestsA (s : SlotId) (e : LinkError) :
    (Live.headError s e l).requestsA = l.requestsA := rfl
@[simp] theorem Live.headError_requestsB (s : SlotId) (e : LinkError) :
    (Live.headError s e l).requestsB = l.requestsB := rfl
@[simp] theorem Live.headError_unitsInUse (s : SlotId) (e : LinkError) :
    (Live.headError s e l).unitsInUse = l.unitsInUse := rfl
@[simp] theorem Live.headError_lanes (s : SlotId) (e : LinkError) : (Live.headError s e l).lanes = l.lanes := rfl
@[simp] theorem Live.headError_zones (s : SlotId) (e : LinkError) : (Live.headError s e l).zones = l.zones := rfl
@[simp] theorem Live.headError_slots (s : SlotId) (e : LinkError) : (Live.headError s e l).slots = l.slots := rfl
@[simp] theorem Live.headError_notices (s : SlotId) (e : LinkError) : (Live.headError s e l).notices = l.notices := rfl
@[simp] theorem Live.headError_cell (s : SlotId) (e : LinkError) : (Live.headError s e l).cell = l.cell := rfl
@[simp] theorem Live.headError_heads (s : SlotId) (e : LinkError) :
    (Live.headError s e l).heads = vmod l.heads s fun k => { k with status := k.status.record e } := rfl

@[simp] theorem Live.heard_pool (s : SlotId) : (Live.heard s l).pool = l.pool := rfl
@[simp] theorem Live.heard_slow (s : SlotId) : (Live.heard s l).slow = l.slow := rfl
@[simp] theorem Live.heard_holes (s : SlotId) : (Live.heard s l).holes = l.holes := rfl
@[simp] theorem Live.heard_holdings (s : SlotId) : (Live.heard s l).holdings = l.holdings := rfl
@[simp] theorem Live.heard_travels (s : SlotId) : (Live.heard s l).travels = l.travels := rfl
@[simp] theorem Live.heard_requestsA (s : SlotId) : (Live.heard s l).requestsA = l.requestsA := rfl
@[simp] theorem Live.heard_requestsB (s : SlotId) : (Live.heard s l).requestsB = l.requestsB := rfl
@[simp] theorem Live.heard_unitsInUse (s : SlotId) : (Live.heard s l).unitsInUse = l.unitsInUse := rfl
@[simp] theorem Live.heard_lanes (s : SlotId) : (Live.heard s l).lanes = l.lanes := rfl
@[simp] theorem Live.heard_zones (s : SlotId) : (Live.heard s l).zones = l.zones := rfl
@[simp] theorem Live.heard_slots (s : SlotId) : (Live.heard s l).slots = l.slots := rfl
@[simp] theorem Live.heard_notices (s : SlotId) : (Live.heard s l).notices = l.notices := rfl
@[simp] theorem Live.heard_cell (s : SlotId) : (Live.heard s l).cell = l.cell := rfl
@[simp] theorem Live.heard_heads (s : SlotId) :
    (Live.heard s l).heads = vmod l.heads s fun k => if k.up then { k with silence := some silenceLimit } else k := rfl

@[simp] theorem Live.setHolding_pool (s : SlotId) (h : Option Holding) : (Live.setHolding s h l).pool = l.pool := rfl
@[simp] theorem Live.setHolding_slow (s : SlotId) (h : Option Holding) : (Live.setHolding s h l).slow = l.slow := rfl
@[simp] theorem Live.setHolding_holes (s : SlotId) (h : Option Holding) : (Live.setHolding s h l).holes = l.holes := rfl
@[simp] theorem Live.setHolding_holdings (s : SlotId) (h : Option Holding) :
    (Live.setHolding s h l).holdings = l.holdings.set s h := rfl
@[simp] theorem Live.setHolding_travels (s : SlotId) (h : Option Holding) :
    (Live.setHolding s h l).travels = l.travels := rfl
@[simp] theorem Live.setHolding_requestsA (s : SlotId) (h : Option Holding) :
    (Live.setHolding s h l).requestsA = l.requestsA := rfl
@[simp] theorem Live.setHolding_requestsB (s : SlotId) (h : Option Holding) :
    (Live.setHolding s h l).requestsB = l.requestsB := rfl
@[simp] theorem Live.setHolding_unitsInUse (s : SlotId) (h : Option Holding) :
    (Live.setHolding s h l).unitsInUse = l.unitsInUse := rfl
@[simp] theorem Live.setHolding_lanes (s : SlotId) (h : Option Holding) : (Live.setHolding s h l).lanes = l.lanes := rfl
@[simp] theorem Live.setHolding_zones (s : SlotId) (h : Option Holding) : (Live.setHolding s h l).zones = l.zones := rfl
@[simp] theorem Live.setHolding_slots (s : SlotId) (h : Option Holding) : (Live.setHolding s h l).slots = l.slots := rfl
@[simp] theorem Live.setHolding_notices (s : SlotId) (h : Option Holding) :
    (Live.setHolding s h l).notices = l.notices := rfl
@[simp] theorem Live.setHolding_cell (s : SlotId) (h : Option Holding) : (Live.setHolding s h l).cell = l.cell := rfl
@[simp] theorem Live.setHolding_heads (s : SlotId) (h : Option Holding) : (Live.setHolding s h l).heads = l.heads := rfl

@[simp] theorem Live.setTravel_pool (s : SlotId) (t : Option Travel) : (Live.setTravel s t l).pool = l.pool := rfl
@[simp] theorem Live.setTravel_slow (s : SlotId) (t : Option Travel) : (Live.setTravel s t l).slow = l.slow := rfl
@[simp] theorem Live.setTravel_holes (s : SlotId) (t : Option Travel) : (Live.setTravel s t l).holes = l.holes := rfl
@[simp] theorem Live.setTravel_holdings (s : SlotId) (t : Option Travel) :
    (Live.setTravel s t l).holdings = l.holdings := rfl
@[simp] theorem Live.setTravel_travels (s : SlotId) (t : Option Travel) :
    (Live.setTravel s t l).travels = l.travels.set s t := rfl
@[simp] theorem Live.setTravel_requestsA (s : SlotId) (t : Option Travel) :
    (Live.setTravel s t l).requestsA = l.requestsA := rfl
@[simp] theorem Live.setTravel_requestsB (s : SlotId) (t : Option Travel) :
    (Live.setTravel s t l).requestsB = l.requestsB := rfl
@[simp] theorem Live.setTravel_unitsInUse (s : SlotId) (t : Option Travel) :
    (Live.setTravel s t l).unitsInUse = l.unitsInUse := rfl
@[simp] theorem Live.setTravel_lanes (s : SlotId) (t : Option Travel) : (Live.setTravel s t l).lanes = l.lanes := rfl
@[simp] theorem Live.setTravel_zones (s : SlotId) (t : Option Travel) : (Live.setTravel s t l).zones = l.zones := rfl
@[simp] theorem Live.setTravel_slots (s : SlotId) (t : Option Travel) : (Live.setTravel s t l).slots = l.slots := rfl
@[simp] theorem Live.setTravel_notices (s : SlotId) (t : Option Travel) :
    (Live.setTravel s t l).notices = l.notices := rfl
@[simp] theorem Live.setTravel_cell (s : SlotId) (t : Option Travel) : (Live.setTravel s t l).cell = l.cell := rfl
@[simp] theorem Live.setTravel_heads (s : SlotId) (t : Option Travel) : (Live.setTravel s t l).heads = l.heads := rfl

@[simp] theorem Live.startStage_pool (s : SlotId) (g : TimedStage) (n : Nat) : (Live.startStage s g n l).pool = l.pool := rfl
@[simp] theorem Live.startStage_slow (s : SlotId) (g : TimedStage) (n : Nat) : (Live.startStage s g n l).slow = l.slow := rfl
@[simp] theorem Live.startStage_holes (s : SlotId) (g : TimedStage) (n : Nat) :
    (Live.startStage s g n l).holes = l.holes := rfl
@[simp] theorem Live.startStage_holdings (s : SlotId) (g : TimedStage) (n : Nat) :
    (Live.startStage s g n l).holdings = l.holdings := rfl
@[simp] theorem Live.startStage_travels (s : SlotId) (g : TimedStage) (n : Nat) :
    (Live.startStage s g n l).travels = l.travels := rfl
@[simp] theorem Live.startStage_requestsA (s : SlotId) (g : TimedStage) (n : Nat) :
    (Live.startStage s g n l).requestsA = l.requestsA := rfl
@[simp] theorem Live.startStage_requestsB (s : SlotId) (g : TimedStage) (n : Nat) :
    (Live.startStage s g n l).requestsB = l.requestsB := rfl
@[simp] theorem Live.startStage_unitsInUse (s : SlotId) (g : TimedStage) (n : Nat) :
    (Live.startStage s g n l).unitsInUse = l.unitsInUse := rfl
@[simp] theorem Live.startStage_lanes (s : SlotId) (g : TimedStage) (n : Nat) :
    (Live.startStage s g n l).lanes = l.lanes := rfl
@[simp] theorem Live.startStage_zones (s : SlotId) (g : TimedStage) (n : Nat) :
    (Live.startStage s g n l).zones = l.zones := rfl
@[simp] theorem Live.startStage_slots (s : SlotId) (g : TimedStage) (n : Nat) :
    (Live.startStage s g n l).slots = vmod l.slots s fun x => { x with timer := some { stage := g, left := n } } := rfl
@[simp] theorem Live.startStage_notices (s : SlotId) (g : TimedStage) (n : Nat) :
    (Live.startStage s g n l).notices = l.notices := rfl
@[simp] theorem Live.startStage_cell (s : SlotId) (g : TimedStage) (n : Nat) : (Live.startStage s g n l).cell = l.cell := rfl
@[simp] theorem Live.startStage_heads (s : SlotId) (g : TimedStage) (n : Nat) :
    (Live.startStage s g n l).heads = l.heads := rfl

@[simp] theorem Live.unqueue_pool (s : SlotId) (p : HeadMsg → Bool) : (Live.unqueue s p l).pool = l.pool := rfl
@[simp] theorem Live.unqueue_slow (s : SlotId) (p : HeadMsg → Bool) : (Live.unqueue s p l).slow = l.slow := rfl
@[simp] theorem Live.unqueue_holes (s : SlotId) (p : HeadMsg → Bool) : (Live.unqueue s p l).holes = l.holes := rfl
@[simp] theorem Live.unqueue_holdings (s : SlotId) (p : HeadMsg → Bool) :
    (Live.unqueue s p l).holdings = l.holdings := rfl
@[simp] theorem Live.unqueue_travels (s : SlotId) (p : HeadMsg → Bool) : (Live.unqueue s p l).travels = l.travels := rfl
@[simp] theorem Live.unqueue_requestsA (s : SlotId) (p : HeadMsg → Bool) :
    (Live.unqueue s p l).requestsA = l.requestsA := rfl
@[simp] theorem Live.unqueue_requestsB (s : SlotId) (p : HeadMsg → Bool) :
    (Live.unqueue s p l).requestsB = l.requestsB := rfl
@[simp] theorem Live.unqueue_unitsInUse (s : SlotId) (p : HeadMsg → Bool) :
    (Live.unqueue s p l).unitsInUse = l.unitsInUse := rfl
@[simp] theorem Live.unqueue_lanes (s : SlotId) (p : HeadMsg → Bool) : (Live.unqueue s p l).lanes = l.lanes := rfl
@[simp] theorem Live.unqueue_zones (s : SlotId) (p : HeadMsg → Bool) : (Live.unqueue s p l).zones = l.zones := rfl
@[simp] theorem Live.unqueue_slots (s : SlotId) (p : HeadMsg → Bool) : (Live.unqueue s p l).slots = l.slots := rfl
@[simp] theorem Live.unqueue_notices (s : SlotId) (p : HeadMsg → Bool) : (Live.unqueue s p l).notices = l.notices := rfl
@[simp] theorem Live.unqueue_cell (s : SlotId) (p : HeadMsg → Bool) : (Live.unqueue s p l).cell = l.cell := rfl
@[simp] theorem Live.unqueue_heads (s : SlotId) (p : HeadMsg → Bool) :
    (Live.unqueue s p l).heads = vmod l.heads s fun k => { k with list := k.list.filter fun m => !p m } := rfl

@[simp] theorem Live.enter_pool (o : Order) : (Live.enter o l).pool = l.pool ++ [o] := rfl
@[simp] theorem Live.enter_slow (o : Order) : (Live.enter o l).slow = slowAfterEntry (l.pool.length + 1) l.slow := rfl
@[simp] theorem Live.enter_holes (o : Order) : (Live.enter o l).holes = l.holes := rfl
@[simp] theorem Live.enter_holdings (o : Order) : (Live.enter o l).holdings = l.holdings := rfl
@[simp] theorem Live.enter_travels (o : Order) : (Live.enter o l).travels = l.travels := rfl
@[simp] theorem Live.enter_requestsA (o : Order) : (Live.enter o l).requestsA = l.requestsA := rfl
@[simp] theorem Live.enter_requestsB (o : Order) : (Live.enter o l).requestsB = l.requestsB := rfl
@[simp] theorem Live.enter_unitsInUse (o : Order) : (Live.enter o l).unitsInUse = l.unitsInUse := rfl
@[simp] theorem Live.enter_lanes (o : Order) : (Live.enter o l).lanes = l.lanes := rfl
@[simp] theorem Live.enter_zones (o : Order) : (Live.enter o l).zones = l.zones := rfl
@[simp] theorem Live.enter_slots (o : Order) : (Live.enter o l).slots = l.slots := rfl
@[simp] theorem Live.enter_notices (o : Order) : (Live.enter o l).notices = l.notices := rfl
@[simp] theorem Live.enter_cell (o : Order) : (Live.enter o l).cell = l.cell := rfl
@[simp] theorem Live.enter_heads (o : Order) : (Live.enter o l).heads = l.heads := rfl

@[simp] theorem Live.sweep_pool (c : Setup) (z : ZoneId) : (Live.sweep c z l).pool = l.pool := rfl
@[simp] theorem Live.sweep_slow (c : Setup) (z : ZoneId) : (Live.sweep c z l).slow = l.slow := rfl
@[simp] theorem Live.sweep_holes (c : Setup) (z : ZoneId) : (Live.sweep c z l).holes = sweepFrom c z 1 l.holes := rfl
@[simp] theorem Live.sweep_holdings (c : Setup) (z : ZoneId) : (Live.sweep c z l).holdings = l.holdings := rfl
@[simp] theorem Live.sweep_travels (c : Setup) (z : ZoneId) : (Live.sweep c z l).travels = l.travels := rfl
@[simp] theorem Live.sweep_requestsA (c : Setup) (z : ZoneId) : (Live.sweep c z l).requestsA = l.requestsA := rfl
@[simp] theorem Live.sweep_requestsB (c : Setup) (z : ZoneId) : (Live.sweep c z l).requestsB = l.requestsB := rfl
@[simp] theorem Live.sweep_unitsInUse (c : Setup) (z : ZoneId) : (Live.sweep c z l).unitsInUse = l.unitsInUse := rfl
@[simp] theorem Live.sweep_lanes (c : Setup) (z : ZoneId) : (Live.sweep c z l).lanes = l.lanes := rfl
@[simp] theorem Live.sweep_zones (c : Setup) (z : ZoneId) : (Live.sweep c z l).zones = l.zones := rfl
@[simp] theorem Live.sweep_slots (c : Setup) (z : ZoneId) : (Live.sweep c z l).slots = l.slots := rfl
@[simp] theorem Live.sweep_notices (c : Setup) (z : ZoneId) : (Live.sweep c z l).notices = l.notices := rfl
@[simp] theorem Live.sweep_cell (c : Setup) (z : ZoneId) : (Live.sweep c z l).cell = l.cell := rfl
@[simp] theorem Live.sweep_heads (c : Setup) (z : ZoneId) : (Live.sweep c z l).heads = l.heads := rfl

@[simp] theorem Live.openHeat_pool (i : LaneId) (h : Heat) : (Live.openHeat i h l).pool = l.pool := rfl
@[simp] theorem Live.openHeat_slow (i : LaneId) (h : Heat) : (Live.openHeat i h l).slow = l.slow := rfl
@[simp] theorem Live.openHeat_holes (i : LaneId) (h : Heat) : (Live.openHeat i h l).holes = l.holes := rfl
@[simp] theorem Live.openHeat_holdings (i : LaneId) (h : Heat) : (Live.openHeat i h l).holdings = l.holdings := rfl
@[simp] theorem Live.openHeat_travels (i : LaneId) (h : Heat) : (Live.openHeat i h l).travels = l.travels := rfl
@[simp] theorem Live.openHeat_requestsA (i : LaneId) (h : Heat) : (Live.openHeat i h l).requestsA = l.requestsA := rfl
@[simp] theorem Live.openHeat_requestsB (i : LaneId) (h : Heat) : (Live.openHeat i h l).requestsB = l.requestsB := rfl
@[simp] theorem Live.openHeat_unitsInUse (i : LaneId) (h : Heat) :
    (Live.openHeat i h l).unitsInUse = l.unitsInUse := rfl
@[simp] theorem Live.openHeat_lanes (i : LaneId) (h : Heat) :
    (Live.openHeat i h l).lanes = vmod l.lanes i fun x => { x with heat := some h } := rfl
@[simp] theorem Live.openHeat_zones (i : LaneId) (h : Heat) : (Live.openHeat i h l).zones = l.zones := rfl
@[simp] theorem Live.openHeat_slots (i : LaneId) (h : Heat) : (Live.openHeat i h l).slots = l.slots := rfl
@[simp] theorem Live.openHeat_notices (i : LaneId) (h : Heat) : (Live.openHeat i h l).notices = l.notices := rfl
@[simp] theorem Live.openHeat_cell (i : LaneId) (h : Heat) : (Live.openHeat i h l).cell = l.cell := rfl
@[simp] theorem Live.openHeat_heads (i : LaneId) (h : Heat) : (Live.openHeat i h l).heads = l.heads := rfl

@[simp] theorem Live.closeHeat_pool (s : SlotId) (i : LaneId) : (Live.closeHeat s i l).pool = l.pool := rfl
@[simp] theorem Live.closeHeat_slow (s : SlotId) (i : LaneId) : (Live.closeHeat s i l).slow = l.slow := rfl
@[simp] theorem Live.closeHeat_holes (s : SlotId) (i : LaneId) : (Live.closeHeat s i l).holes = l.holes := rfl
@[simp] theorem Live.closeHeat_holdings (s : SlotId) (i : LaneId) : (Live.closeHeat s i l).holdings = l.holdings := rfl
@[simp] theorem Live.closeHeat_travels (s : SlotId) (i : LaneId) : (Live.closeHeat s i l).travels = l.travels := rfl
@[simp] theorem Live.closeHeat_requestsA (s : SlotId) (i : LaneId) : (Live.closeHeat s i l).requestsA = l.requestsA := rfl
@[simp] theorem Live.closeHeat_requestsB (s : SlotId) (i : LaneId) : (Live.closeHeat s i l).requestsB = l.requestsB := rfl
@[simp] theorem Live.closeHeat_unitsInUse (s : SlotId) (i : LaneId) : (Live.closeHeat s i l).unitsInUse = l.unitsInUse := rfl
@[simp] theorem Live.closeHeat_lanes (s : SlotId) (i : LaneId) :
    (Live.closeHeat s i l).lanes = vmod l.lanes i fun x => { x with heat := x.heatOff s } := rfl
@[simp] theorem Live.closeHeat_zones (s : SlotId) (i : LaneId) : (Live.closeHeat s i l).zones = l.zones := rfl
@[simp] theorem Live.closeHeat_slots (s : SlotId) (i : LaneId) : (Live.closeHeat s i l).slots = l.slots := rfl
@[simp] theorem Live.closeHeat_notices (s : SlotId) (i : LaneId) : (Live.closeHeat s i l).notices = l.notices := rfl
@[simp] theorem Live.closeHeat_cell (s : SlotId) (i : LaneId) : (Live.closeHeat s i l).cell = l.cell := rfl
@[simp] theorem Live.closeHeat_heads (s : SlotId) (i : LaneId) : (Live.closeHeat s i l).heads = l.heads := rfl

@[simp] theorem Live.editHeat_pool (s : SlotId) (i : LaneId) (f : Heat → Heat) :
    (Live.editHeat s i f l).pool = l.pool := rfl
@[simp] theorem Live.editHeat_slow (s : SlotId) (i : LaneId) (f : Heat → Heat) :
    (Live.editHeat s i f l).slow = l.slow := rfl
@[simp] theorem Live.editHeat_holes (s : SlotId) (i : LaneId) (f : Heat → Heat) :
    (Live.editHeat s i f l).holes = l.holes := rfl
@[simp] theorem Live.editHeat_holdings (s : SlotId) (i : LaneId) (f : Heat → Heat) :
    (Live.editHeat s i f l).holdings = l.holdings := rfl
@[simp] theorem Live.editHeat_travels (s : SlotId) (i : LaneId) (f : Heat → Heat) :
    (Live.editHeat s i f l).travels = l.travels := rfl
@[simp] theorem Live.editHeat_requestsA (s : SlotId) (i : LaneId) (f : Heat → Heat) :
    (Live.editHeat s i f l).requestsA = l.requestsA := rfl
@[simp] theorem Live.editHeat_requestsB (s : SlotId) (i : LaneId) (f : Heat → Heat) :
    (Live.editHeat s i f l).requestsB = l.requestsB := rfl
@[simp] theorem Live.editHeat_unitsInUse (s : SlotId) (i : LaneId) (f : Heat → Heat) :
    (Live.editHeat s i f l).unitsInUse = l.unitsInUse := rfl
@[simp] theorem Live.editHeat_lanes (s : SlotId) (i : LaneId) (f : Heat → Heat) :
    (Live.editHeat s i f l).lanes = vmod l.lanes i fun x => { x with heat := x.heat.map fun h => if h.slot = s then f h else h } := rfl
@[simp] theorem Live.editHeat_zones (s : SlotId) (i : LaneId) (f : Heat → Heat) :
    (Live.editHeat s i f l).zones = l.zones := rfl
@[simp] theorem Live.editHeat_slots (s : SlotId) (i : LaneId) (f : Heat → Heat) :
    (Live.editHeat s i f l).slots = l.slots := rfl
@[simp] theorem Live.editHeat_notices (s : SlotId) (i : LaneId) (f : Heat → Heat) :
    (Live.editHeat s i f l).notices = l.notices := rfl
@[simp] theorem Live.editHeat_cell (s : SlotId) (i : LaneId) (f : Heat → Heat) :
    (Live.editHeat s i f l).cell = l.cell := rfl
@[simp] theorem Live.editHeat_heads (s : SlotId) (i : LaneId) (f : Heat → Heat) :
    (Live.editHeat s i f l).heads = l.heads := rfl

@[simp] theorem Live.takeRivet_pool (i : LaneId) (tag : Nat) : (Live.takeRivet i tag l).pool = l.pool := rfl
@[simp] theorem Live.takeRivet_slow (i : LaneId) (tag : Nat) : (Live.takeRivet i tag l).slow = l.slow := rfl
@[simp] theorem Live.takeRivet_holes (i : LaneId) (tag : Nat) : (Live.takeRivet i tag l).holes = l.holes := rfl
@[simp] theorem Live.takeRivet_holdings (i : LaneId) (tag : Nat) : (Live.takeRivet i tag l).holdings = l.holdings := rfl
@[simp] theorem Live.takeRivet_travels (i : LaneId) (tag : Nat) : (Live.takeRivet i tag l).travels = l.travels := rfl
@[simp] theorem Live.takeRivet_requestsA (i : LaneId) (tag : Nat) :
    (Live.takeRivet i tag l).requestsA = l.requestsA := rfl
@[simp] theorem Live.takeRivet_requestsB (i : LaneId) (tag : Nat) :
    (Live.takeRivet i tag l).requestsB = l.requestsB := rfl
@[simp] theorem Live.takeRivet_unitsInUse (i : LaneId) (tag : Nat) :
    (Live.takeRivet i tag l).unitsInUse = l.unitsInUse := rfl
@[simp] theorem Live.takeRivet_lanes (i : LaneId) (tag : Nat) :
    (Live.takeRivet i tag l).lanes = vmod l.lanes i fun x => { x with stock := x.stock.filter fun r => r.tag != some tag } := rfl
@[simp] theorem Live.takeRivet_zones (i : LaneId) (tag : Nat) : (Live.takeRivet i tag l).zones = l.zones := rfl
@[simp] theorem Live.takeRivet_slots (i : LaneId) (tag : Nat) : (Live.takeRivet i tag l).slots = l.slots := rfl
@[simp] theorem Live.takeRivet_notices (i : LaneId) (tag : Nat) : (Live.takeRivet i tag l).notices = l.notices := rfl
@[simp] theorem Live.takeRivet_cell (i : LaneId) (tag : Nat) : (Live.takeRivet i tag l).cell = l.cell := rfl
@[simp] theorem Live.takeRivet_heads (i : LaneId) (tag : Nat) : (Live.takeRivet i tag l).heads = l.heads := rfl

@[simp] theorem Live.setExpected_pool (z : ZoneId) (v : Bool) : (Live.setExpected z v l).pool = l.pool := rfl
@[simp] theorem Live.setExpected_slow (z : ZoneId) (v : Bool) : (Live.setExpected z v l).slow = l.slow := rfl
@[simp] theorem Live.setExpected_holes (z : ZoneId) (v : Bool) : (Live.setExpected z v l).holes = l.holes := rfl
@[simp] theorem Live.setExpected_holdings (z : ZoneId) (v : Bool) :
    (Live.setExpected z v l).holdings = l.holdings := rfl
@[simp] theorem Live.setExpected_travels (z : ZoneId) (v : Bool) : (Live.setExpected z v l).travels = l.travels := rfl
@[simp] theorem Live.setExpected_requestsA (z : ZoneId) (v : Bool) :
    (Live.setExpected z v l).requestsA = l.requestsA := rfl
@[simp] theorem Live.setExpected_requestsB (z : ZoneId) (v : Bool) :
    (Live.setExpected z v l).requestsB = l.requestsB := rfl
@[simp] theorem Live.setExpected_unitsInUse (z : ZoneId) (v : Bool) :
    (Live.setExpected z v l).unitsInUse = l.unitsInUse := rfl
@[simp] theorem Live.setExpected_lanes (z : ZoneId) (v : Bool) : (Live.setExpected z v l).lanes = l.lanes := rfl
@[simp] theorem Live.setExpected_zones (z : ZoneId) (v : Bool) :
    (Live.setExpected z v l).zones = vmod l.zones z fun x => { x with expected := v } := rfl
@[simp] theorem Live.setExpected_slots (z : ZoneId) (v : Bool) : (Live.setExpected z v l).slots = l.slots := rfl
@[simp] theorem Live.setExpected_notices (z : ZoneId) (v : Bool) : (Live.setExpected z v l).notices = l.notices := rfl
@[simp] theorem Live.setExpected_cell (z : ZoneId) (v : Bool) : (Live.setExpected z v l).cell = l.cell := rfl
@[simp] theorem Live.setExpected_heads (z : ZoneId) (v : Bool) : (Live.setExpected z v l).heads = l.heads := rfl

@[simp] theorem Live.forgetZone_pool (z : ZoneId) : (Live.forgetZone z l).pool = l.pool := rfl
@[simp] theorem Live.forgetZone_slow (z : ZoneId) : (Live.forgetZone z l).slow = l.slow := rfl
@[simp] theorem Live.forgetZone_holes (z : ZoneId) : (Live.forgetZone z l).holes = l.holes := rfl
@[simp] theorem Live.forgetZone_holdings (z : ZoneId) : (Live.forgetZone z l).holdings = l.holdings := rfl
@[simp] theorem Live.forgetZone_travels (z : ZoneId) : (Live.forgetZone z l).travels = l.travels := rfl
@[simp] theorem Live.forgetZone_requestsA (z : ZoneId) : (Live.forgetZone z l).requestsA = l.requestsA := rfl
@[simp] theorem Live.forgetZone_requestsB (z : ZoneId) : (Live.forgetZone z l).requestsB = l.requestsB := rfl
@[simp] theorem Live.forgetZone_unitsInUse (z : ZoneId) : (Live.forgetZone z l).unitsInUse = l.unitsInUse := rfl
@[simp] theorem Live.forgetZone_lanes (z : ZoneId) : (Live.forgetZone z l).lanes = l.lanes := rfl
@[simp] theorem Live.forgetZone_zones (z : ZoneId) :
    (Live.forgetZone z l).zones = vmod l.zones z fun _ => { state := .unknown, expected := false } := rfl
@[simp] theorem Live.forgetZone_slots (z : ZoneId) : (Live.forgetZone z l).slots = l.slots := rfl
@[simp] theorem Live.forgetZone_notices (z : ZoneId) : (Live.forgetZone z l).notices = l.notices := rfl
@[simp] theorem Live.forgetZone_cell (z : ZoneId) : (Live.forgetZone z l).cell = l.cell := rfl
@[simp] theorem Live.forgetZone_heads (z : ZoneId) : (Live.forgetZone z l).heads = l.heads := rfl

@[simp] theorem Live.removeRivet_pool (i : LaneId) (place : Nat) : (Live.removeRivet i place l).pool = l.pool := rfl
@[simp] theorem Live.removeRivet_slow (i : LaneId) (place : Nat) : (Live.removeRivet i place l).slow = l.slow := rfl
@[simp] theorem Live.removeRivet_holes (i : LaneId) (place : Nat) : (Live.removeRivet i place l).holes = l.holes := rfl
@[simp] theorem Live.removeRivet_holdings (i : LaneId) (place : Nat) :
    (Live.removeRivet i place l).holdings = l.holdings := rfl
@[simp] theorem Live.removeRivet_travels (i : LaneId) (place : Nat) :
    (Live.removeRivet i place l).travels = l.travels := rfl
@[simp] theorem Live.removeRivet_requestsA (i : LaneId) (place : Nat) :
    (Live.removeRivet i place l).requestsA = l.requestsA := rfl
@[simp] theorem Live.removeRivet_requestsB (i : LaneId) (place : Nat) :
    (Live.removeRivet i place l).requestsB = l.requestsB := rfl
@[simp] theorem Live.removeRivet_unitsInUse (i : LaneId) (place : Nat) :
    (Live.removeRivet i place l).unitsInUse = l.unitsInUse := rfl
@[simp] theorem Live.removeRivet_lanes (i : LaneId) (place : Nat) :
    (Live.removeRivet i place l).lanes = vmod l.lanes i fun x => { x with stock := x.stock.eraseIdx place } := rfl
@[simp] theorem Live.removeRivet_zones (i : LaneId) (place : Nat) : (Live.removeRivet i place l).zones = l.zones := rfl
@[simp] theorem Live.removeRivet_slots (i : LaneId) (place : Nat) : (Live.removeRivet i place l).slots = l.slots := rfl
@[simp] theorem Live.removeRivet_notices (i : LaneId) (place : Nat) :
    (Live.removeRivet i place l).notices = l.notices := rfl
@[simp] theorem Live.removeRivet_cell (i : LaneId) (place : Nat) : (Live.removeRivet i place l).cell = l.cell := rfl
@[simp] theorem Live.removeRivet_heads (i : LaneId) (place : Nat) : (Live.removeRivet i place l).heads = l.heads := rfl

end

/-! ### Updates by cases -/

section

variable (l : Live)

@[simp] theorem Live.setRequests_pool (r : Rail) (q : List Request) :
    (Live.setRequests r q l).pool = l.pool := by cases r <;> rfl
@[simp] theorem Live.setRequests_slow (r : Rail) (q : List Request) :
    (Live.setRequests r q l).slow = l.slow := by cases r <;> rfl
@[simp] theorem Live.setRequests_holes (r : Rail) (q : List Request) :
    (Live.setRequests r q l).holes = l.holes := by cases r <;> rfl
@[simp] theorem Live.setRequests_holdings (r : Rail) (q : List Request) :
    (Live.setRequests r q l).holdings = l.holdings := by cases r <;> rfl
@[simp] theorem Live.setRequests_travels (r : Rail) (q : List Request) :
    (Live.setRequests r q l).travels = l.travels := by cases r <;> rfl
@[simp] theorem Live.setRequests_unitsInUse (r : Rail) (q : List Request) :
    (Live.setRequests r q l).unitsInUse = l.unitsInUse := by cases r <;> rfl
@[simp] theorem Live.setRequests_lanes (r : Rail) (q : List Request) :
    (Live.setRequests r q l).lanes = l.lanes := by cases r <;> rfl
@[simp] theorem Live.setRequests_zones (r : Rail) (q : List Request) :
    (Live.setRequests r q l).zones = l.zones := by cases r <;> rfl
@[simp] theorem Live.setRequests_slots (r : Rail) (q : List Request) :
    (Live.setRequests r q l).slots = l.slots := by cases r <;> rfl
@[simp] theorem Live.setRequests_notices (r : Rail) (q : List Request) :
    (Live.setRequests r q l).notices = l.notices := by cases r <;> rfl
@[simp] theorem Live.setRequests_cell (r : Rail) (q : List Request) :
    (Live.setRequests r q l).cell = l.cell := by cases r <;> rfl
@[simp] theorem Live.setRequests_heads (r : Rail) (q : List Request) :
    (Live.setRequests r q l).heads = l.heads := by cases r <;> rfl

@[simp] theorem Live.updHole_pool (n : Nat) (f : Hole → Hole) :
    (Live.updHole n f l).pool = l.pool := by unfold Live.updHole; split <;> rfl
@[simp] theorem Live.updHole_slow (n : Nat) (f : Hole → Hole) :
    (Live.updHole n f l).slow = l.slow := by unfold Live.updHole; split <;> rfl
@[simp] theorem Live.updHole_holdings (n : Nat) (f : Hole → Hole) :
    (Live.updHole n f l).holdings = l.holdings := by unfold Live.updHole; split <;> rfl
@[simp] theorem Live.updHole_travels (n : Nat) (f : Hole → Hole) :
    (Live.updHole n f l).travels = l.travels := by unfold Live.updHole; split <;> rfl
@[simp] theorem Live.updHole_requestsA (n : Nat) (f : Hole → Hole) :
    (Live.updHole n f l).requestsA = l.requestsA := by unfold Live.updHole; split <;> rfl
@[simp] theorem Live.updHole_requestsB (n : Nat) (f : Hole → Hole) :
    (Live.updHole n f l).requestsB = l.requestsB := by unfold Live.updHole; split <;> rfl
@[simp] theorem Live.updHole_unitsInUse (n : Nat) (f : Hole → Hole) :
    (Live.updHole n f l).unitsInUse = l.unitsInUse := by unfold Live.updHole; split <;> rfl
@[simp] theorem Live.updHole_lanes (n : Nat) (f : Hole → Hole) :
    (Live.updHole n f l).lanes = l.lanes := by unfold Live.updHole; split <;> rfl
@[simp] theorem Live.updHole_zones (n : Nat) (f : Hole → Hole) :
    (Live.updHole n f l).zones = l.zones := by unfold Live.updHole; split <;> rfl
@[simp] theorem Live.updHole_slots (n : Nat) (f : Hole → Hole) :
    (Live.updHole n f l).slots = l.slots := by unfold Live.updHole; split <;> rfl
@[simp] theorem Live.updHole_notices (n : Nat) (f : Hole → Hole) :
    (Live.updHole n f l).notices = l.notices := by unfold Live.updHole; split <;> rfl
@[simp] theorem Live.updHole_cell (n : Nat) (f : Hole → Hole) :
    (Live.updHole n f l).cell = l.cell := by unfold Live.updHole; split <;> rfl
@[simp] theorem Live.updHole_heads (n : Nat) (f : Hole → Hole) :
    (Live.updHole n f l).heads = l.heads := by unfold Live.updHole; split <;> rfl

@[simp] theorem Live.markSent_slow (s : SlotId) (m : HeadMsg) :
    (Live.markSent s m l).slow = l.slow := by unfold Live.markSent; split <;> rfl
@[simp] theorem Live.markSent_holes (s : SlotId) (m : HeadMsg) :
    (Live.markSent s m l).holes = l.holes := by unfold Live.markSent; split <;> rfl
@[simp] theorem Live.markSent_holdings (s : SlotId) (m : HeadMsg) :
    (Live.markSent s m l).holdings = l.holdings := by unfold Live.markSent; split <;> rfl
@[simp] theorem Live.markSent_travels (s : SlotId) (m : HeadMsg) :
    (Live.markSent s m l).travels = l.travels := by unfold Live.markSent; split <;> rfl
@[simp] theorem Live.markSent_requestsA (s : SlotId) (m : HeadMsg) :
    (Live.markSent s m l).requestsA = l.requestsA := by unfold Live.markSent; split <;> rfl
@[simp] theorem Live.markSent_requestsB (s : SlotId) (m : HeadMsg) :
    (Live.markSent s m l).requestsB = l.requestsB := by unfold Live.markSent; split <;> rfl
@[simp] theorem Live.markSent_unitsInUse (s : SlotId) (m : HeadMsg) :
    (Live.markSent s m l).unitsInUse = l.unitsInUse := by unfold Live.markSent; split <;> rfl
@[simp] theorem Live.markSent_zones (s : SlotId) (m : HeadMsg) :
    (Live.markSent s m l).zones = l.zones := by unfold Live.markSent; split <;> rfl
@[simp] theorem Live.markSent_slots (s : SlotId) (m : HeadMsg) :
    (Live.markSent s m l).slots = l.slots := by unfold Live.markSent; split <;> rfl
@[simp] theorem Live.markSent_notices (s : SlotId) (m : HeadMsg) :
    (Live.markSent s m l).notices = l.notices := by unfold Live.markSent; split <;> rfl
@[simp] theorem Live.markSent_cell (s : SlotId) (m : HeadMsg) :
    (Live.markSent s m l).cell = l.cell := by unfold Live.markSent; split <;> rfl
@[simp] theorem Live.markSent_heads (s : SlotId) (m : HeadMsg) :
    (Live.markSent s m l).heads = l.heads := by unfold Live.markSent; split <;> rfl

@[simp] theorem Live.beginHead_slow (c : Setup) (s : SlotId) :
    (Live.beginHead c s l).slow = l.slow := by unfold Live.beginHead; split <;> simp
@[simp] theorem Live.beginHead_holes (c : Setup) (s : SlotId) :
    (Live.beginHead c s l).holes = l.holes := by unfold Live.beginHead; split <;> simp
@[simp] theorem Live.beginHead_holdings (c : Setup) (s : SlotId) :
    (Live.beginHead c s l).holdings = l.holdings := by unfold Live.beginHead; split <;> simp
@[simp] theorem Live.beginHead_travels (c : Setup) (s : SlotId) :
    (Live.beginHead c s l).travels = l.travels := by unfold Live.beginHead; split <;> simp
@[simp] theorem Live.beginHead_requestsA (c : Setup) (s : SlotId) :
    (Live.beginHead c s l).requestsA = l.requestsA := by unfold Live.beginHead; split <;> simp
@[simp] theorem Live.beginHead_requestsB (c : Setup) (s : SlotId) :
    (Live.beginHead c s l).requestsB = l.requestsB := by unfold Live.beginHead; split <;> simp
@[simp] theorem Live.beginHead_unitsInUse (c : Setup) (s : SlotId) :
    (Live.beginHead c s l).unitsInUse = l.unitsInUse := by unfold Live.beginHead; split <;> simp
@[simp] theorem Live.beginHead_zones (c : Setup) (s : SlotId) :
    (Live.beginHead c s l).zones = l.zones := by unfold Live.beginHead; split <;> simp
@[simp] theorem Live.beginHead_slots (c : Setup) (s : SlotId) :
    (Live.beginHead c s l).slots = l.slots := by unfold Live.beginHead; split <;> simp
@[simp] theorem Live.beginHead_notices (c : Setup) (s : SlotId) :
    (Live.beginHead c s l).notices = l.notices := by unfold Live.beginHead; split <;> simp
@[simp] theorem Live.beginHead_cell (c : Setup) (s : SlotId) :
    (Live.beginHead c s l).cell = l.cell := by unfold Live.beginHead; split <;> simp

@[simp] theorem Live.queue_slow (c : Setup) (s : SlotId) (m : HeadMsg) :
    (Live.queue c s m l).slow = l.slow := by simp [Live.queue]
@[simp] theorem Live.queue_holes (c : Setup) (s : SlotId) (m : HeadMsg) :
    (Live.queue c s m l).holes = l.holes := by simp [Live.queue]
@[simp] theorem Live.queue_holdings (c : Setup) (s : SlotId) (m : HeadMsg) :
    (Live.queue c s m l).holdings = l.holdings := by simp [Live.queue]
@[simp] theorem Live.queue_travels (c : Setup) (s : SlotId) (m : HeadMsg) :
    (Live.queue c s m l).travels = l.travels := by simp [Live.queue]
@[simp] theorem Live.queue_requestsA (c : Setup) (s : SlotId) (m : HeadMsg) :
    (Live.queue c s m l).requestsA = l.requestsA := by simp [Live.queue]
@[simp] theorem Live.queue_requestsB (c : Setup) (s : SlotId) (m : HeadMsg) :
    (Live.queue c s m l).requestsB = l.requestsB := by simp [Live.queue]
@[simp] theorem Live.queue_unitsInUse (c : Setup) (s : SlotId) (m : HeadMsg) :
    (Live.queue c s m l).unitsInUse = l.unitsInUse := by simp [Live.queue]
@[simp] theorem Live.queue_zones (c : Setup) (s : SlotId) (m : HeadMsg) :
    (Live.queue c s m l).zones = l.zones := by simp [Live.queue]
@[simp] theorem Live.queue_slots (c : Setup) (s : SlotId) (m : HeadMsg) :
    (Live.queue c s m l).slots = l.slots := by simp [Live.queue]
@[simp] theorem Live.queue_notices (c : Setup) (s : SlotId) (m : HeadMsg) :
    (Live.queue c s m l).notices = l.notices := by simp [Live.queue]
@[simp] theorem Live.queue_cell (c : Setup) (s : SlotId) (m : HeadMsg) :
    (Live.queue c s m l).cell = l.cell := by simp [Live.queue]

@[simp] theorem Live.queueDiscard_slow (c : Setup) (s : SlotId) (n : Nat) :
    (Live.queueDiscard c s n l).slow = l.slow := by unfold Live.queueDiscard; split <;> simp
@[simp] theorem Live.queueDiscard_holes (c : Setup) (s : SlotId) (n : Nat) :
    (Live.queueDiscard c s n l).holes = l.holes := by unfold Live.queueDiscard; split <;> simp
@[simp] theorem Live.queueDiscard_holdings (c : Setup) (s : SlotId) (n : Nat) :
    (Live.queueDiscard c s n l).holdings = l.holdings := by unfold Live.queueDiscard; split <;> simp
@[simp] theorem Live.queueDiscard_travels (c : Setup) (s : SlotId) (n : Nat) :
    (Live.queueDiscard c s n l).travels = l.travels := by unfold Live.queueDiscard; split <;> simp
@[simp] theorem Live.queueDiscard_requestsA (c : Setup) (s : SlotId) (n : Nat) :
    (Live.queueDiscard c s n l).requestsA = l.requestsA := by unfold Live.queueDiscard; split <;> simp
@[simp] theorem Live.queueDiscard_requestsB (c : Setup) (s : SlotId) (n : Nat) :
    (Live.queueDiscard c s n l).requestsB = l.requestsB := by unfold Live.queueDiscard; split <;> simp
@[simp] theorem Live.queueDiscard_unitsInUse (c : Setup) (s : SlotId) (n : Nat) :
    (Live.queueDiscard c s n l).unitsInUse = l.unitsInUse := by unfold Live.queueDiscard; split <;> simp
@[simp] theorem Live.queueDiscard_zones (c : Setup) (s : SlotId) (n : Nat) :
    (Live.queueDiscard c s n l).zones = l.zones := by unfold Live.queueDiscard; split <;> simp
@[simp] theorem Live.queueDiscard_slots (c : Setup) (s : SlotId) (n : Nat) :
    (Live.queueDiscard c s n l).slots = l.slots := by unfold Live.queueDiscard; split <;> simp
@[simp] theorem Live.queueDiscard_notices (c : Setup) (s : SlotId) (n : Nat) :
    (Live.queueDiscard c s n l).notices = l.notices := by unfold Live.queueDiscard; split <;> simp
@[simp] theorem Live.queueDiscard_cell (c : Setup) (s : SlotId) (n : Nat) :
    (Live.queueDiscard c s n l).cell = l.cell := by unfold Live.queueDiscard; split <;> simp

@[simp] theorem Live.queueJoin_slow (c : Setup) (s : SlotId) (m : HeadMsg) :
    (Live.queueJoin c s m l).slow = l.slow := by unfold Live.queueJoin; split <;> simp
@[simp] theorem Live.queueJoin_holes (c : Setup) (s : SlotId) (m : HeadMsg) :
    (Live.queueJoin c s m l).holes = l.holes := by unfold Live.queueJoin; split <;> simp
@[simp] theorem Live.queueJoin_holdings (c : Setup) (s : SlotId) (m : HeadMsg) :
    (Live.queueJoin c s m l).holdings = l.holdings := by unfold Live.queueJoin; split <;> simp
@[simp] theorem Live.queueJoin_travels (c : Setup) (s : SlotId) (m : HeadMsg) :
    (Live.queueJoin c s m l).travels = l.travels := by unfold Live.queueJoin; split <;> simp
@[simp] theorem Live.queueJoin_requestsA (c : Setup) (s : SlotId) (m : HeadMsg) :
    (Live.queueJoin c s m l).requestsA = l.requestsA := by unfold Live.queueJoin; split <;> simp
@[simp] theorem Live.queueJoin_requestsB (c : Setup) (s : SlotId) (m : HeadMsg) :
    (Live.queueJoin c s m l).requestsB = l.requestsB := by unfold Live.queueJoin; split <;> simp
@[simp] theorem Live.queueJoin_unitsInUse (c : Setup) (s : SlotId) (m : HeadMsg) :
    (Live.queueJoin c s m l).unitsInUse = l.unitsInUse := by unfold Live.queueJoin; split <;> simp
@[simp] theorem Live.queueJoin_zones (c : Setup) (s : SlotId) (m : HeadMsg) :
    (Live.queueJoin c s m l).zones = l.zones := by unfold Live.queueJoin; split <;> simp
@[simp] theorem Live.queueJoin_slots (c : Setup) (s : SlotId) (m : HeadMsg) :
    (Live.queueJoin c s m l).slots = l.slots := by unfold Live.queueJoin; split <;> simp
@[simp] theorem Live.queueJoin_notices (c : Setup) (s : SlotId) (m : HeadMsg) :
    (Live.queueJoin c s m l).notices = l.notices := by unfold Live.queueJoin; split <;> simp
@[simp] theorem Live.queueJoin_cell (c : Setup) (s : SlotId) (m : HeadMsg) :
    (Live.queueJoin c s m l).cell = l.cell := by unfold Live.queueJoin; split <;> simp

@[simp] theorem Live.queueToolSync_slow (c : Setup) (s : SlotId) :
    (Live.queueToolSync c s l).slow = l.slow := by unfold Live.queueToolSync; split <;> simp
@[simp] theorem Live.queueToolSync_holes (c : Setup) (s : SlotId) :
    (Live.queueToolSync c s l).holes = l.holes := by unfold Live.queueToolSync; split <;> simp
@[simp] theorem Live.queueToolSync_holdings (c : Setup) (s : SlotId) :
    (Live.queueToolSync c s l).holdings = l.holdings := by unfold Live.queueToolSync; split <;> simp
@[simp] theorem Live.queueToolSync_travels (c : Setup) (s : SlotId) :
    (Live.queueToolSync c s l).travels = l.travels := by unfold Live.queueToolSync; split <;> simp
@[simp] theorem Live.queueToolSync_requestsA (c : Setup) (s : SlotId) :
    (Live.queueToolSync c s l).requestsA = l.requestsA := by unfold Live.queueToolSync; split <;> simp
@[simp] theorem Live.queueToolSync_requestsB (c : Setup) (s : SlotId) :
    (Live.queueToolSync c s l).requestsB = l.requestsB := by unfold Live.queueToolSync; split <;> simp
@[simp] theorem Live.queueToolSync_unitsInUse (c : Setup) (s : SlotId) :
    (Live.queueToolSync c s l).unitsInUse = l.unitsInUse := by unfold Live.queueToolSync; split <;> simp
@[simp] theorem Live.queueToolSync_zones (c : Setup) (s : SlotId) :
    (Live.queueToolSync c s l).zones = l.zones := by unfold Live.queueToolSync; split <;> simp
@[simp] theorem Live.queueToolSync_slots (c : Setup) (s : SlotId) :
    (Live.queueToolSync c s l).slots = l.slots := by unfold Live.queueToolSync; split <;> simp
@[simp] theorem Live.queueToolSync_notices (c : Setup) (s : SlotId) :
    (Live.queueToolSync c s l).notices = l.notices := by unfold Live.queueToolSync; split <;> simp
@[simp] theorem Live.queueToolSync_cell (c : Setup) (s : SlotId) :
    (Live.queueToolSync c s l).cell = l.cell := by unfold Live.queueToolSync; split <;> simp

@[simp] theorem Live.queueLamp_slow (c : Setup) (s : SlotId) :
    (Live.queueLamp c s l).slow = l.slow := by simp [Live.queueLamp]
@[simp] theorem Live.queueLamp_holes (c : Setup) (s : SlotId) :
    (Live.queueLamp c s l).holes = l.holes := by simp [Live.queueLamp]
@[simp] theorem Live.queueLamp_holdings (c : Setup) (s : SlotId) :
    (Live.queueLamp c s l).holdings = l.holdings := by simp [Live.queueLamp]
@[simp] theorem Live.queueLamp_travels (c : Setup) (s : SlotId) :
    (Live.queueLamp c s l).travels = l.travels := by simp [Live.queueLamp]
@[simp] theorem Live.queueLamp_requestsA (c : Setup) (s : SlotId) :
    (Live.queueLamp c s l).requestsA = l.requestsA := by simp [Live.queueLamp]
@[simp] theorem Live.queueLamp_requestsB (c : Setup) (s : SlotId) :
    (Live.queueLamp c s l).requestsB = l.requestsB := by simp [Live.queueLamp]
@[simp] theorem Live.queueLamp_unitsInUse (c : Setup) (s : SlotId) :
    (Live.queueLamp c s l).unitsInUse = l.unitsInUse := by simp [Live.queueLamp]
@[simp] theorem Live.queueLamp_zones (c : Setup) (s : SlotId) :
    (Live.queueLamp c s l).zones = l.zones := by simp [Live.queueLamp]
@[simp] theorem Live.queueLamp_slots (c : Setup) (s : SlotId) :
    (Live.queueLamp c s l).slots = l.slots := by simp [Live.queueLamp]
@[simp] theorem Live.queueLamp_notices (c : Setup) (s : SlotId) :
    (Live.queueLamp c s l).notices = l.notices := by simp [Live.queueLamp]
@[simp] theorem Live.queueLamp_cell (c : Setup) (s : SlotId) :
    (Live.queueLamp c s l).cell = l.cell := by simp [Live.queueLamp]

@[simp] theorem Live.headFrame_pool (s : SlotId) (hs : Nat) :
    (Live.headFrame s hs l).pool = l.pool := by unfold Live.headFrame; split <;> rfl
@[simp] theorem Live.headFrame_slow (s : SlotId) (hs : Nat) :
    (Live.headFrame s hs l).slow = l.slow := by unfold Live.headFrame; split <;> rfl
@[simp] theorem Live.headFrame_holes (s : SlotId) (hs : Nat) :
    (Live.headFrame s hs l).holes = l.holes := by unfold Live.headFrame; split <;> rfl
@[simp] theorem Live.headFrame_holdings (s : SlotId) (hs : Nat) :
    (Live.headFrame s hs l).holdings = l.holdings := by unfold Live.headFrame; split <;> rfl
@[simp] theorem Live.headFrame_travels (s : SlotId) (hs : Nat) :
    (Live.headFrame s hs l).travels = l.travels := by unfold Live.headFrame; split <;> rfl
@[simp] theorem Live.headFrame_requestsA (s : SlotId) (hs : Nat) :
    (Live.headFrame s hs l).requestsA = l.requestsA := by unfold Live.headFrame; split <;> rfl
@[simp] theorem Live.headFrame_requestsB (s : SlotId) (hs : Nat) :
    (Live.headFrame s hs l).requestsB = l.requestsB := by unfold Live.headFrame; split <;> rfl
@[simp] theorem Live.headFrame_unitsInUse (s : SlotId) (hs : Nat) :
    (Live.headFrame s hs l).unitsInUse = l.unitsInUse := by unfold Live.headFrame; split <;> rfl
@[simp] theorem Live.headFrame_lanes (s : SlotId) (hs : Nat) :
    (Live.headFrame s hs l).lanes = l.lanes := by unfold Live.headFrame; split <;> rfl
@[simp] theorem Live.headFrame_zones (s : SlotId) (hs : Nat) :
    (Live.headFrame s hs l).zones = l.zones := by unfold Live.headFrame; split <;> rfl
@[simp] theorem Live.headFrame_slots (s : SlotId) (hs : Nat) :
    (Live.headFrame s hs l).slots = l.slots := by unfold Live.headFrame; split <;> rfl
@[simp] theorem Live.headFrame_notices (s : SlotId) (hs : Nat) :
    (Live.headFrame s hs l).notices = l.notices := by unfold Live.headFrame; split <;> rfl
@[simp] theorem Live.headFrame_cell (s : SlotId) (hs : Nat) :
    (Live.headFrame s hs l).cell = l.cell := by unfold Live.headFrame; split <;> rfl

@[simp] theorem Live.syncCadence_pool (c : Setup) (i : LaneId) : (Live.syncCadence c i l).pool = l.pool := rfl
@[simp] theorem Live.syncCadence_slow (c : Setup) (i : LaneId) : (Live.syncCadence c i l).slow = l.slow := rfl
@[simp] theorem Live.syncCadence_holes (c : Setup) (i : LaneId) : (Live.syncCadence c i l).holes = l.holes := rfl
@[simp] theorem Live.syncCadence_holdings (c : Setup) (i : LaneId) :
    (Live.syncCadence c i l).holdings = l.holdings := rfl
@[simp] theorem Live.syncCadence_travels (c : Setup) (i : LaneId) : (Live.syncCadence c i l).travels = l.travels := rfl
@[simp] theorem Live.syncCadence_requestsA (c : Setup) (i : LaneId) :
    (Live.syncCadence c i l).requestsA = l.requestsA := rfl
@[simp] theorem Live.syncCadence_requestsB (c : Setup) (i : LaneId) :
    (Live.syncCadence c i l).requestsB = l.requestsB := rfl
@[simp] theorem Live.syncCadence_unitsInUse (c : Setup) (i : LaneId) :
    (Live.syncCadence c i l).unitsInUse = l.unitsInUse := rfl
@[simp] theorem Live.syncCadence_zones (c : Setup) (i : LaneId) : (Live.syncCadence c i l).zones = l.zones := rfl
@[simp] theorem Live.syncCadence_slots (c : Setup) (i : LaneId) : (Live.syncCadence c i l).slots = l.slots := rfl
@[simp] theorem Live.syncCadence_notices (c : Setup) (i : LaneId) : (Live.syncCadence c i l).notices = l.notices := rfl
@[simp] theorem Live.syncCadence_cell (c : Setup) (i : LaneId) : (Live.syncCadence c i l).cell = l.cell := rfl
@[simp] theorem Live.syncCadence_heads (c : Setup) (i : LaneId) : (Live.syncCadence c i l).heads = l.heads := rfl

@[simp] theorem Live.syncCadences_pool (c : Setup) : (Live.syncCadences c l).pool = l.pool := rfl
@[simp] theorem Live.syncCadences_slow (c : Setup) : (Live.syncCadences c l).slow = l.slow := rfl
@[simp] theorem Live.syncCadences_holes (c : Setup) : (Live.syncCadences c l).holes = l.holes := rfl
@[simp] theorem Live.syncCadences_holdings (c : Setup) : (Live.syncCadences c l).holdings = l.holdings := rfl
@[simp] theorem Live.syncCadences_travels (c : Setup) : (Live.syncCadences c l).travels = l.travels := rfl
@[simp] theorem Live.syncCadences_requestsA (c : Setup) : (Live.syncCadences c l).requestsA = l.requestsA := rfl
@[simp] theorem Live.syncCadences_requestsB (c : Setup) : (Live.syncCadences c l).requestsB = l.requestsB := rfl
@[simp] theorem Live.syncCadences_unitsInUse (c : Setup) : (Live.syncCadences c l).unitsInUse = l.unitsInUse := rfl
@[simp] theorem Live.syncCadences_zones (c : Setup) : (Live.syncCadences c l).zones = l.zones := rfl
@[simp] theorem Live.syncCadences_slots (c : Setup) : (Live.syncCadences c l).slots = l.slots := rfl
@[simp] theorem Live.syncCadences_notices (c : Setup) : (Live.syncCadences c l).notices = l.notices := rfl
@[simp] theorem Live.syncCadences_cell (c : Setup) : (Live.syncCadences c l).cell = l.cell := rfl
@[simp] theorem Live.syncCadences_heads (c : Setup) : (Live.syncCadences c l).heads = l.heads := rfl

@[simp] theorem Live.syncLamp_slow (c : Setup) (s : SlotId) :
    (Live.syncLamp c s l).slow = l.slow := by unfold Live.syncLamp; dsimp only; split <;> [rfl; split <;> simp]
@[simp] theorem Live.syncLamp_holes (c : Setup) (s : SlotId) :
    (Live.syncLamp c s l).holes = l.holes := by unfold Live.syncLamp; dsimp only; split <;> [rfl; split <;> simp]
@[simp] theorem Live.syncLamp_holdings (c : Setup) (s : SlotId) :
    (Live.syncLamp c s l).holdings = l.holdings := by unfold Live.syncLamp; dsimp only; split <;> [rfl; split <;> simp]
@[simp] theorem Live.syncLamp_travels (c : Setup) (s : SlotId) :
    (Live.syncLamp c s l).travels = l.travels := by unfold Live.syncLamp; dsimp only; split <;> [rfl; split <;> simp]
@[simp] theorem Live.syncLamp_requestsA (c : Setup) (s : SlotId) :
    (Live.syncLamp c s l).requestsA = l.requestsA := by unfold Live.syncLamp; dsimp only; split <;> [rfl; split <;> simp]
@[simp] theorem Live.syncLamp_requestsB (c : Setup) (s : SlotId) :
    (Live.syncLamp c s l).requestsB = l.requestsB := by unfold Live.syncLamp; dsimp only; split <;> [rfl; split <;> simp]
@[simp] theorem Live.syncLamp_unitsInUse (c : Setup) (s : SlotId) :
    (Live.syncLamp c s l).unitsInUse = l.unitsInUse := by unfold Live.syncLamp; dsimp only; split <;> [rfl; split <;> simp]
@[simp] theorem Live.syncLamp_zones (c : Setup) (s : SlotId) :
    (Live.syncLamp c s l).zones = l.zones := by unfold Live.syncLamp; dsimp only; split <;> [rfl; split <;> simp]
@[simp] theorem Live.syncLamp_notices (c : Setup) (s : SlotId) :
    (Live.syncLamp c s l).notices = l.notices := by unfold Live.syncLamp; dsimp only; split <;> [rfl; split <;> simp]
@[simp] theorem Live.syncLamp_cell (c : Setup) (s : SlotId) :
    (Live.syncLamp c s l).cell = l.cell := by unfold Live.syncLamp; dsimp only; split <;> [rfl; split <;> simp]

@[simp] theorem Live.endHeat_pool (o : Order) :
    (Live.endHeat o l).pool = l.pool := by unfold Live.endHeat; split <;> rfl
@[simp] theorem Live.endHeat_slow (o : Order) :
    (Live.endHeat o l).slow = l.slow := by unfold Live.endHeat; split <;> rfl
@[simp] theorem Live.endHeat_holes (o : Order) :
    (Live.endHeat o l).holes = l.holes := by unfold Live.endHeat; split <;> rfl
@[simp] theorem Live.endHeat_holdings (o : Order) :
    (Live.endHeat o l).holdings = l.holdings := by unfold Live.endHeat; split <;> rfl
@[simp] theorem Live.endHeat_travels (o : Order) :
    (Live.endHeat o l).travels = l.travels := by unfold Live.endHeat; split <;> rfl
@[simp] theorem Live.endHeat_requestsA (o : Order) :
    (Live.endHeat o l).requestsA = l.requestsA := by unfold Live.endHeat; split <;> rfl
@[simp] theorem Live.endHeat_requestsB (o : Order) :
    (Live.endHeat o l).requestsB = l.requestsB := by unfold Live.endHeat; split <;> rfl
@[simp] theorem Live.endHeat_unitsInUse (o : Order) :
    (Live.endHeat o l).unitsInUse = l.unitsInUse := by unfold Live.endHeat; split <;> rfl
@[simp] theorem Live.endHeat_zones (o : Order) :
    (Live.endHeat o l).zones = l.zones := by unfold Live.endHeat; split <;> rfl
@[simp] theorem Live.endHeat_slots (o : Order) :
    (Live.endHeat o l).slots = l.slots := by unfold Live.endHeat; split <;> rfl
@[simp] theorem Live.endHeat_notices (o : Order) :
    (Live.endHeat o l).notices = l.notices := by unfold Live.endHeat; split <;> rfl
@[simp] theorem Live.endHeat_cell (o : Order) :
    (Live.endHeat o l).cell = l.cell := by unfold Live.endHeat; split <;> rfl
@[simp] theorem Live.endHeat_heads (o : Order) :
    (Live.endHeat o l).heads = l.heads := by unfold Live.endHeat; split <;> rfl

@[simp] theorem Live.endUnclamp_pool (o : Order) :
    (Live.endUnclamp o l).pool = l.pool := by unfold Live.endUnclamp; split <;> rfl
@[simp] theorem Live.endUnclamp_slow (o : Order) :
    (Live.endUnclamp o l).slow = l.slow := by unfold Live.endUnclamp; split <;> rfl
@[simp] theorem Live.endUnclamp_holes (o : Order) :
    (Live.endUnclamp o l).holes = l.holes := by unfold Live.endUnclamp; split <;> rfl
@[simp] theorem Live.endUnclamp_holdings (o : Order) :
    (Live.endUnclamp o l).holdings = l.holdings := by unfold Live.endUnclamp; split <;> rfl
@[simp] theorem Live.endUnclamp_travels (o : Order) :
    (Live.endUnclamp o l).travels = l.travels := by unfold Live.endUnclamp; split <;> rfl
@[simp] theorem Live.endUnclamp_requestsA (o : Order) :
    (Live.endUnclamp o l).requestsA = l.requestsA := by unfold Live.endUnclamp; split <;> rfl
@[simp] theorem Live.endUnclamp_requestsB (o : Order) :
    (Live.endUnclamp o l).requestsB = l.requestsB := by unfold Live.endUnclamp; split <;> rfl
@[simp] theorem Live.endUnclamp_unitsInUse (o : Order) :
    (Live.endUnclamp o l).unitsInUse = l.unitsInUse := by unfold Live.endUnclamp; split <;> rfl
@[simp] theorem Live.endUnclamp_lanes (o : Order) :
    (Live.endUnclamp o l).lanes = l.lanes := by unfold Live.endUnclamp; split <;> rfl
@[simp] theorem Live.endUnclamp_slots (o : Order) :
    (Live.endUnclamp o l).slots = l.slots := by unfold Live.endUnclamp; split <;> rfl
@[simp] theorem Live.endUnclamp_notices (o : Order) :
    (Live.endUnclamp o l).notices = l.notices := by unfold Live.endUnclamp; split <;> rfl
@[simp] theorem Live.endUnclamp_cell (o : Order) :
    (Live.endUnclamp o l).cell = l.cell := by unfold Live.endUnclamp; split <;> rfl
@[simp] theorem Live.endUnclamp_heads (o : Order) :
    (Live.endUnclamp o l).heads = l.heads := by unfold Live.endUnclamp; split <;> rfl

@[simp] theorem Live.releaseRivetOf_pool (c : Setup) (o : Order) :
    (Live.releaseRivetOf c o l).pool = l.pool := by unfold Live.releaseRivetOf Live.freeRivet; split <;> [split <;> rfl; rfl]
@[simp] theorem Live.releaseRivetOf_slow (c : Setup) (o : Order) :
    (Live.releaseRivetOf c o l).slow = l.slow := by unfold Live.releaseRivetOf Live.freeRivet; split <;> [split <;> rfl; rfl]
@[simp] theorem Live.releaseRivetOf_holes (c : Setup) (o : Order) :
    (Live.releaseRivetOf c o l).holes = l.holes := by unfold Live.releaseRivetOf Live.freeRivet; split <;> [split <;> rfl; rfl]
@[simp] theorem Live.releaseRivetOf_holdings (c : Setup) (o : Order) :
    (Live.releaseRivetOf c o l).holdings = l.holdings := by unfold Live.releaseRivetOf Live.freeRivet; split <;> [split <;> rfl; rfl]
@[simp] theorem Live.releaseRivetOf_travels (c : Setup) (o : Order) :
    (Live.releaseRivetOf c o l).travels = l.travels := by unfold Live.releaseRivetOf Live.freeRivet; split <;> [split <;> rfl; rfl]
@[simp] theorem Live.releaseRivetOf_requestsA (c : Setup) (o : Order) :
    (Live.releaseRivetOf c o l).requestsA = l.requestsA := by unfold Live.releaseRivetOf Live.freeRivet; split <;> [split <;> rfl; rfl]
@[simp] theorem Live.releaseRivetOf_requestsB (c : Setup) (o : Order) :
    (Live.releaseRivetOf c o l).requestsB = l.requestsB := by unfold Live.releaseRivetOf Live.freeRivet; split <;> [split <;> rfl; rfl]
@[simp] theorem Live.releaseRivetOf_unitsInUse (c : Setup) (o : Order) :
    (Live.releaseRivetOf c o l).unitsInUse = l.unitsInUse := by unfold Live.releaseRivetOf Live.freeRivet; split <;> [split <;> rfl; rfl]
@[simp] theorem Live.releaseRivetOf_zones (c : Setup) (o : Order) :
    (Live.releaseRivetOf c o l).zones = l.zones := by unfold Live.releaseRivetOf Live.freeRivet; split <;> [split <;> rfl; rfl]
@[simp] theorem Live.releaseRivetOf_slots (c : Setup) (o : Order) :
    (Live.releaseRivetOf c o l).slots = l.slots := by unfold Live.releaseRivetOf Live.freeRivet; split <;> [split <;> rfl; rfl]
@[simp] theorem Live.releaseRivetOf_notices (c : Setup) (o : Order) :
    (Live.releaseRivetOf c o l).notices = l.notices := by unfold Live.releaseRivetOf Live.freeRivet; split <;> [split <;> rfl; rfl]
@[simp] theorem Live.releaseRivetOf_cell (c : Setup) (o : Order) :
    (Live.releaseRivetOf c o l).cell = l.cell := by unfold Live.releaseRivetOf Live.freeRivet; split <;> [split <;> rfl; rfl]
@[simp] theorem Live.releaseRivetOf_heads (c : Setup) (o : Order) :
    (Live.releaseRivetOf c o l).heads = l.heads := by unfold Live.releaseRivetOf Live.freeRivet; split <;> [split <;> rfl; rfl]

@[simp] theorem Live.dropRivetOf_pool (o : Order) :
    (Live.dropRivetOf o l).pool = l.pool := by unfold Live.dropRivetOf; split <;> rfl
@[simp] theorem Live.dropRivetOf_slow (o : Order) :
    (Live.dropRivetOf o l).slow = l.slow := by unfold Live.dropRivetOf; split <;> rfl
@[simp] theorem Live.dropRivetOf_holes (o : Order) :
    (Live.dropRivetOf o l).holes = l.holes := by unfold Live.dropRivetOf; split <;> rfl
@[simp] theorem Live.dropRivetOf_holdings (o : Order) :
    (Live.dropRivetOf o l).holdings = l.holdings := by unfold Live.dropRivetOf; split <;> rfl
@[simp] theorem Live.dropRivetOf_travels (o : Order) :
    (Live.dropRivetOf o l).travels = l.travels := by unfold Live.dropRivetOf; split <;> rfl
@[simp] theorem Live.dropRivetOf_requestsA (o : Order) :
    (Live.dropRivetOf o l).requestsA = l.requestsA := by unfold Live.dropRivetOf; split <;> rfl
@[simp] theorem Live.dropRivetOf_requestsB (o : Order) :
    (Live.dropRivetOf o l).requestsB = l.requestsB := by unfold Live.dropRivetOf; split <;> rfl
@[simp] theorem Live.dropRivetOf_unitsInUse (o : Order) :
    (Live.dropRivetOf o l).unitsInUse = l.unitsInUse := by unfold Live.dropRivetOf; split <;> rfl
@[simp] theorem Live.dropRivetOf_zones (o : Order) :
    (Live.dropRivetOf o l).zones = l.zones := by unfold Live.dropRivetOf; split <;> rfl
@[simp] theorem Live.dropRivetOf_slots (o : Order) :
    (Live.dropRivetOf o l).slots = l.slots := by unfold Live.dropRivetOf; split <;> rfl
@[simp] theorem Live.dropRivetOf_notices (o : Order) :
    (Live.dropRivetOf o l).notices = l.notices := by unfold Live.dropRivetOf; split <;> rfl
@[simp] theorem Live.dropRivetOf_cell (o : Order) :
    (Live.dropRivetOf o l).cell = l.cell := by unfold Live.dropRivetOf; split <;> rfl
@[simp] theorem Live.dropRivetOf_heads (o : Order) :
    (Live.dropRivetOf o l).heads = l.heads := by unfold Live.dropRivetOf; split <;> rfl

@[simp] theorem Live.failHeat_pool (s : SlotId) (i : LaneId) (cause : LossCause) (code : Option Nat) :
    (Live.failHeat s i cause code l).pool = l.pool := by unfold Live.failHeat; split <;> rfl
@[simp] theorem Live.failHeat_slow (s : SlotId) (i : LaneId) (cause : LossCause) (code : Option Nat) :
    (Live.failHeat s i cause code l).slow = l.slow := by unfold Live.failHeat; split <;> rfl
@[simp] theorem Live.failHeat_holes (s : SlotId) (i : LaneId) (cause : LossCause) (code : Option Nat) :
    (Live.failHeat s i cause code l).holes = l.holes := by unfold Live.failHeat; split <;> rfl
@[simp] theorem Live.failHeat_holdings (s : SlotId) (i : LaneId) (cause : LossCause) (code : Option Nat) :
    (Live.failHeat s i cause code l).holdings = l.holdings := by unfold Live.failHeat; split <;> rfl
@[simp] theorem Live.failHeat_travels (s : SlotId) (i : LaneId) (cause : LossCause) (code : Option Nat) :
    (Live.failHeat s i cause code l).travels = l.travels := by unfold Live.failHeat; split <;> rfl
@[simp] theorem Live.failHeat_requestsA (s : SlotId) (i : LaneId) (cause : LossCause) (code : Option Nat) :
    (Live.failHeat s i cause code l).requestsA = l.requestsA := by unfold Live.failHeat; split <;> rfl
@[simp] theorem Live.failHeat_requestsB (s : SlotId) (i : LaneId) (cause : LossCause) (code : Option Nat) :
    (Live.failHeat s i cause code l).requestsB = l.requestsB := by unfold Live.failHeat; split <;> rfl
@[simp] theorem Live.failHeat_unitsInUse (s : SlotId) (i : LaneId) (cause : LossCause) (code : Option Nat) :
    (Live.failHeat s i cause code l).unitsInUse = l.unitsInUse := by unfold Live.failHeat; split <;> rfl
@[simp] theorem Live.failHeat_zones (s : SlotId) (i : LaneId) (cause : LossCause) (code : Option Nat) :
    (Live.failHeat s i cause code l).zones = l.zones := by unfold Live.failHeat; split <;> rfl
@[simp] theorem Live.failHeat_slots (s : SlotId) (i : LaneId) (cause : LossCause) (code : Option Nat) :
    (Live.failHeat s i cause code l).slots = l.slots := by unfold Live.failHeat; split <;> rfl
@[simp] theorem Live.failHeat_cell (s : SlotId) (i : LaneId) (cause : LossCause) (code : Option Nat) :
    (Live.failHeat s i cause code l).cell = l.cell := by unfold Live.failHeat; split <;> rfl
@[simp] theorem Live.failHeat_heads (s : SlotId) (i : LaneId) (cause : LossCause) (code : Option Nat) :
    (Live.failHeat s i cause code l).heads = l.heads := by unfold Live.failHeat; split <;> rfl

@[simp] theorem Live.loseHeat_pool (s : SlotId) (i : LaneId) (cause : LossCause) (code : Option Nat) :
    (Live.loseHeat s i cause code l).pool = l.pool := by unfold Live.loseHeat; split <;> [rfl; split <;> simp]
@[simp] theorem Live.loseHeat_slow (s : SlotId) (i : LaneId) (cause : LossCause) (code : Option Nat) :
    (Live.loseHeat s i cause code l).slow = l.slow := by unfold Live.loseHeat; split <;> [rfl; split <;> simp]
@[simp] theorem Live.loseHeat_holes (s : SlotId) (i : LaneId) (cause : LossCause) (code : Option Nat) :
    (Live.loseHeat s i cause code l).holes = l.holes := by unfold Live.loseHeat; split <;> [rfl; split <;> simp]
@[simp] theorem Live.loseHeat_holdings (s : SlotId) (i : LaneId) (cause : LossCause) (code : Option Nat) :
    (Live.loseHeat s i cause code l).holdings = l.holdings := by unfold Live.loseHeat; split <;> [rfl; split <;> simp]
@[simp] theorem Live.loseHeat_travels (s : SlotId) (i : LaneId) (cause : LossCause) (code : Option Nat) :
    (Live.loseHeat s i cause code l).travels = l.travels := by unfold Live.loseHeat; split <;> [rfl; split <;> simp]
@[simp] theorem Live.loseHeat_requestsA (s : SlotId) (i : LaneId) (cause : LossCause) (code : Option Nat) :
    (Live.loseHeat s i cause code l).requestsA = l.requestsA := by unfold Live.loseHeat; split <;> [rfl; split <;> simp]
@[simp] theorem Live.loseHeat_requestsB (s : SlotId) (i : LaneId) (cause : LossCause) (code : Option Nat) :
    (Live.loseHeat s i cause code l).requestsB = l.requestsB := by unfold Live.loseHeat; split <;> [rfl; split <;> simp]
@[simp] theorem Live.loseHeat_unitsInUse (s : SlotId) (i : LaneId) (cause : LossCause) (code : Option Nat) :
    (Live.loseHeat s i cause code l).unitsInUse = l.unitsInUse := by unfold Live.loseHeat; split <;> [rfl; split <;> simp]
@[simp] theorem Live.loseHeat_zones (s : SlotId) (i : LaneId) (cause : LossCause) (code : Option Nat) :
    (Live.loseHeat s i cause code l).zones = l.zones := by unfold Live.loseHeat; split <;> [rfl; split <;> simp]
@[simp] theorem Live.loseHeat_slots (s : SlotId) (i : LaneId) (cause : LossCause) (code : Option Nat) :
    (Live.loseHeat s i cause code l).slots = l.slots := by unfold Live.loseHeat; split <;> [rfl; split <;> simp]
@[simp] theorem Live.loseHeat_cell (s : SlotId) (i : LaneId) (cause : LossCause) (code : Option Nat) :
    (Live.loseHeat s i cause code l).cell = l.cell := by unfold Live.loseHeat; split <;> [rfl; split <;> simp]
@[simp] theorem Live.loseHeat_heads (s : SlotId) (i : LaneId) (cause : LossCause) (code : Option Nat) :
    (Live.loseHeat s i cause code l).heads = l.heads := by unfold Live.loseHeat; split <;> [rfl; split <;> simp]

@[simp] theorem Live.dropFree_pool (i : LaneId) : (Live.dropFree i l).pool = l.pool := rfl
@[simp] theorem Live.dropFree_slow (i : LaneId) : (Live.dropFree i l).slow = l.slow := rfl
@[simp] theorem Live.dropFree_holes (i : LaneId) : (Live.dropFree i l).holes = l.holes := rfl
@[simp] theorem Live.dropFree_holdings (i : LaneId) : (Live.dropFree i l).holdings = l.holdings := rfl
@[simp] theorem Live.dropFree_travels (i : LaneId) : (Live.dropFree i l).travels = l.travels := rfl
@[simp] theorem Live.dropFree_requestsA (i : LaneId) : (Live.dropFree i l).requestsA = l.requestsA := rfl
@[simp] theorem Live.dropFree_requestsB (i : LaneId) : (Live.dropFree i l).requestsB = l.requestsB := rfl
@[simp] theorem Live.dropFree_unitsInUse (i : LaneId) : (Live.dropFree i l).unitsInUse = l.unitsInUse := rfl
@[simp] theorem Live.dropFree_zones (i : LaneId) : (Live.dropFree i l).zones = l.zones := rfl
@[simp] theorem Live.dropFree_slots (i : LaneId) : (Live.dropFree i l).slots = l.slots := rfl
@[simp] theorem Live.dropFree_notices (i : LaneId) : (Live.dropFree i l).notices = l.notices := rfl
@[simp] theorem Live.dropFree_cell (i : LaneId) : (Live.dropFree i l).cell = l.cell := rfl
@[simp] theorem Live.dropFree_heads (i : LaneId) : (Live.dropFree i l).heads = l.heads := rfl
@[simp] theorem Live.dropFree_lanes (i : LaneId) :
    (Live.dropFree i l).lanes = vmod l.lanes i fun x => { x with stock := x.stock.filter fun r => r.tag.isSome } := rfl

@[simp] theorem Live.loseStock_pool (c : Setup) (s : SlotId) (i : LaneId) :
    (Live.loseStock c s i l).pool = l.pool := by unfold Live.loseStock; split <;> rfl
@[simp] theorem Live.loseStock_slow (c : Setup) (s : SlotId) (i : LaneId) :
    (Live.loseStock c s i l).slow = l.slow := by unfold Live.loseStock; split <;> rfl
@[simp] theorem Live.loseStock_holes (c : Setup) (s : SlotId) (i : LaneId) :
    (Live.loseStock c s i l).holes = l.holes := by unfold Live.loseStock; split <;> rfl
@[simp] theorem Live.loseStock_holdings (c : Setup) (s : SlotId) (i : LaneId) :
    (Live.loseStock c s i l).holdings = l.holdings := by unfold Live.loseStock; split <;> rfl
@[simp] theorem Live.loseStock_travels (c : Setup) (s : SlotId) (i : LaneId) :
    (Live.loseStock c s i l).travels = l.travels := by unfold Live.loseStock; split <;> rfl
@[simp] theorem Live.loseStock_requestsA (c : Setup) (s : SlotId) (i : LaneId) :
    (Live.loseStock c s i l).requestsA = l.requestsA := by unfold Live.loseStock; split <;> rfl
@[simp] theorem Live.loseStock_requestsB (c : Setup) (s : SlotId) (i : LaneId) :
    (Live.loseStock c s i l).requestsB = l.requestsB := by unfold Live.loseStock; split <;> rfl
@[simp] theorem Live.loseStock_unitsInUse (c : Setup) (s : SlotId) (i : LaneId) :
    (Live.loseStock c s i l).unitsInUse = l.unitsInUse := by unfold Live.loseStock; split <;> rfl
@[simp] theorem Live.loseStock_zones (c : Setup) (s : SlotId) (i : LaneId) :
    (Live.loseStock c s i l).zones = l.zones := by unfold Live.loseStock; split <;> rfl
@[simp] theorem Live.loseStock_slots (c : Setup) (s : SlotId) (i : LaneId) :
    (Live.loseStock c s i l).slots = l.slots := by unfold Live.loseStock; split <;> rfl
@[simp] theorem Live.loseStock_notices (c : Setup) (s : SlotId) (i : LaneId) :
    (Live.loseStock c s i l).notices = l.notices := by unfold Live.loseStock; split <;> rfl
@[simp] theorem Live.loseStock_cell (c : Setup) (s : SlotId) (i : LaneId) :
    (Live.loseStock c s i l).cell = l.cell := by unfold Live.loseStock; split <;> rfl
@[simp] theorem Live.loseStock_heads (c : Setup) (s : SlotId) (i : LaneId) :
    (Live.loseStock c s i l).heads = l.heads := by unfold Live.loseStock; split <;> rfl

@[simp] theorem Live.weedStock_pool (c : Setup) (i : LaneId) :
    (Live.weedStock c i l).pool = l.pool := by unfold Live.weedStock; split <;> rfl
@[simp] theorem Live.weedStock_slow (c : Setup) (i : LaneId) :
    (Live.weedStock c i l).slow = l.slow := by unfold Live.weedStock; split <;> rfl
@[simp] theorem Live.weedStock_holes (c : Setup) (i : LaneId) :
    (Live.weedStock c i l).holes = l.holes := by unfold Live.weedStock; split <;> rfl
@[simp] theorem Live.weedStock_holdings (c : Setup) (i : LaneId) :
    (Live.weedStock c i l).holdings = l.holdings := by unfold Live.weedStock; split <;> rfl
@[simp] theorem Live.weedStock_travels (c : Setup) (i : LaneId) :
    (Live.weedStock c i l).travels = l.travels := by unfold Live.weedStock; split <;> rfl
@[simp] theorem Live.weedStock_requestsA (c : Setup) (i : LaneId) :
    (Live.weedStock c i l).requestsA = l.requestsA := by unfold Live.weedStock; split <;> rfl
@[simp] theorem Live.weedStock_requestsB (c : Setup) (i : LaneId) :
    (Live.weedStock c i l).requestsB = l.requestsB := by unfold Live.weedStock; split <;> rfl
@[simp] theorem Live.weedStock_unitsInUse (c : Setup) (i : LaneId) :
    (Live.weedStock c i l).unitsInUse = l.unitsInUse := by unfold Live.weedStock; split <;> rfl
@[simp] theorem Live.weedStock_zones (c : Setup) (i : LaneId) :
    (Live.weedStock c i l).zones = l.zones := by unfold Live.weedStock; split <;> rfl
@[simp] theorem Live.weedStock_slots (c : Setup) (i : LaneId) :
    (Live.weedStock c i l).slots = l.slots := by unfold Live.weedStock; split <;> rfl
@[simp] theorem Live.weedStock_notices (c : Setup) (i : LaneId) :
    (Live.weedStock c i l).notices = l.notices := by unfold Live.weedStock; split <;> rfl
@[simp] theorem Live.weedStock_cell (c : Setup) (i : LaneId) :
    (Live.weedStock c i l).cell = l.cell := by unfold Live.weedStock; split <;> rfl
@[simp] theorem Live.weedStock_heads (c : Setup) (i : LaneId) :
    (Live.weedStock c i l).heads = l.heads := by unfold Live.weedStock; split <;> rfl

@[simp] theorem Live.heaterLost_pool (c : Setup) (s : SlotId) :
    (Live.heaterLost c s l).pool = l.pool := by simp [Live.heaterLost]
@[simp] theorem Live.heaterLost_slow (c : Setup) (s : SlotId) :
    (Live.heaterLost c s l).slow = l.slow := by simp [Live.heaterLost]
@[simp] theorem Live.heaterLost_holes (c : Setup) (s : SlotId) :
    (Live.heaterLost c s l).holes = l.holes := by simp [Live.heaterLost]
@[simp] theorem Live.heaterLost_holdings (c : Setup) (s : SlotId) :
    (Live.heaterLost c s l).holdings = l.holdings := by simp [Live.heaterLost]
@[simp] theorem Live.heaterLost_travels (c : Setup) (s : SlotId) :
    (Live.heaterLost c s l).travels = l.travels := by simp [Live.heaterLost]
@[simp] theorem Live.heaterLost_requestsA (c : Setup) (s : SlotId) :
    (Live.heaterLost c s l).requestsA = l.requestsA := by simp [Live.heaterLost]
@[simp] theorem Live.heaterLost_requestsB (c : Setup) (s : SlotId) :
    (Live.heaterLost c s l).requestsB = l.requestsB := by simp [Live.heaterLost]
@[simp] theorem Live.heaterLost_unitsInUse (c : Setup) (s : SlotId) :
    (Live.heaterLost c s l).unitsInUse = l.unitsInUse := by simp [Live.heaterLost]
@[simp] theorem Live.heaterLost_zones (c : Setup) (s : SlotId) :
    (Live.heaterLost c s l).zones = l.zones := by simp [Live.heaterLost]
@[simp] theorem Live.heaterLost_slots (c : Setup) (s : SlotId) :
    (Live.heaterLost c s l).slots = l.slots := by simp [Live.heaterLost]
@[simp] theorem Live.heaterLost_notices (c : Setup) (s : SlotId) :
    (Live.heaterLost c s l).notices = l.notices := by simp [Live.heaterLost]
@[simp] theorem Live.heaterLost_cell (c : Setup) (s : SlotId) :
    (Live.heaterLost c s l).cell = l.cell := by simp [Live.heaterLost]
@[simp] theorem Live.heaterLost_heads (c : Setup) (s : SlotId) :
    (Live.heaterLost c s l).heads = l.heads := by simp [Live.heaterLost]

@[simp] theorem Live.scrap_slow (c : Setup) (i : LaneId) (n : Nat) :
    (Live.scrap c i n l).slow = l.slow := by unfold Live.scrap; dsimp only; split <;> split <;> simp
@[simp] theorem Live.scrap_holes (c : Setup) (i : LaneId) (n : Nat) :
    (Live.scrap c i n l).holes = l.holes := by unfold Live.scrap; dsimp only; split <;> split <;> simp
@[simp] theorem Live.scrap_holdings (c : Setup) (i : LaneId) (n : Nat) :
    (Live.scrap c i n l).holdings = l.holdings := by unfold Live.scrap; dsimp only; split <;> split <;> simp
@[simp] theorem Live.scrap_travels (c : Setup) (i : LaneId) (n : Nat) :
    (Live.scrap c i n l).travels = l.travels := by unfold Live.scrap; dsimp only; split <;> split <;> simp
@[simp] theorem Live.scrap_requestsA (c : Setup) (i : LaneId) (n : Nat) :
    (Live.scrap c i n l).requestsA = l.requestsA := by unfold Live.scrap; dsimp only; split <;> split <;> simp
@[simp] theorem Live.scrap_requestsB (c : Setup) (i : LaneId) (n : Nat) :
    (Live.scrap c i n l).requestsB = l.requestsB := by unfold Live.scrap; dsimp only; split <;> split <;> simp
@[simp] theorem Live.scrap_unitsInUse (c : Setup) (i : LaneId) (n : Nat) :
    (Live.scrap c i n l).unitsInUse = l.unitsInUse := by unfold Live.scrap; dsimp only; split <;> split <;> simp
@[simp] theorem Live.scrap_zones (c : Setup) (i : LaneId) (n : Nat) :
    (Live.scrap c i n l).zones = l.zones := by unfold Live.scrap; dsimp only; split <;> split <;> simp
@[simp] theorem Live.scrap_slots (c : Setup) (i : LaneId) (n : Nat) :
    (Live.scrap c i n l).slots = l.slots := by unfold Live.scrap; dsimp only; split <;> split <;> simp
@[simp] theorem Live.scrap_cell (c : Setup) (i : LaneId) (n : Nat) :
    (Live.scrap c i n l).cell = l.cell := by unfold Live.scrap; dsimp only; split <;> split <;> simp

@[simp] theorem Live.issueLaneHeat_slow (c : Setup) (i : LaneId) (s : SlotId) :
    (Live.issueLaneHeat c i s l).slow = l.slow := by simp [Live.issueLaneHeat]
@[simp] theorem Live.issueLaneHeat_holes (c : Setup) (i : LaneId) (s : SlotId) :
    (Live.issueLaneHeat c i s l).holes = l.holes := by simp [Live.issueLaneHeat]
@[simp] theorem Live.issueLaneHeat_holdings (c : Setup) (i : LaneId) (s : SlotId) :
    (Live.issueLaneHeat c i s l).holdings = l.holdings := by simp [Live.issueLaneHeat]
@[simp] theorem Live.issueLaneHeat_travels (c : Setup) (i : LaneId) (s : SlotId) :
    (Live.issueLaneHeat c i s l).travels = l.travels := by simp [Live.issueLaneHeat]
@[simp] theorem Live.issueLaneHeat_requestsA (c : Setup) (i : LaneId) (s : SlotId) :
    (Live.issueLaneHeat c i s l).requestsA = l.requestsA := by simp [Live.issueLaneHeat]
@[simp] theorem Live.issueLaneHeat_requestsB (c : Setup) (i : LaneId) (s : SlotId) :
    (Live.issueLaneHeat c i s l).requestsB = l.requestsB := by simp [Live.issueLaneHeat]
@[simp] theorem Live.issueLaneHeat_unitsInUse (c : Setup) (i : LaneId) (s : SlotId) :
    (Live.issueLaneHeat c i s l).unitsInUse = l.unitsInUse := by simp [Live.issueLaneHeat]
@[simp] theorem Live.issueLaneHeat_zones (c : Setup) (i : LaneId) (s : SlotId) :
    (Live.issueLaneHeat c i s l).zones = l.zones := by simp [Live.issueLaneHeat]
@[simp] theorem Live.issueLaneHeat_notices (c : Setup) (i : LaneId) (s : SlotId) :
    (Live.issueLaneHeat c i s l).notices = l.notices := by simp [Live.issueLaneHeat]
@[simp] theorem Live.issueLaneHeat_cell (c : Setup) (i : LaneId) (s : SlotId) :
    (Live.issueLaneHeat c i s l).cell = l.cell := by simp [Live.issueLaneHeat]

@[simp] theorem Live.fileRequest_pool (c : Setup) (s : SlotId) (tag target : Nat) (h : Holding) :
    (Live.fileRequest c s tag target h l).pool = l.pool := by simp [Live.fileRequest]
@[simp] theorem Live.fileRequest_slow (c : Setup) (s : SlotId) (tag target : Nat) (h : Holding) :
    (Live.fileRequest c s tag target h l).slow = l.slow := by simp [Live.fileRequest]
@[simp] theorem Live.fileRequest_holes (c : Setup) (s : SlotId) (tag target : Nat) (h : Holding) :
    (Live.fileRequest c s tag target h l).holes = l.holes := by simp [Live.fileRequest]
@[simp] theorem Live.fileRequest_holdings (c : Setup) (s : SlotId) (tag target : Nat) (h : Holding) :
    (Live.fileRequest c s tag target h l).holdings = l.holdings := by simp [Live.fileRequest]
@[simp] theorem Live.fileRequest_travels (c : Setup) (s : SlotId) (tag target : Nat) (h : Holding) :
    (Live.fileRequest c s tag target h l).travels = l.travels := by simp [Live.fileRequest]
@[simp] theorem Live.fileRequest_unitsInUse (c : Setup) (s : SlotId) (tag target : Nat) (h : Holding) :
    (Live.fileRequest c s tag target h l).unitsInUse = l.unitsInUse := by simp [Live.fileRequest]
@[simp] theorem Live.fileRequest_lanes (c : Setup) (s : SlotId) (tag target : Nat) (h : Holding) :
    (Live.fileRequest c s tag target h l).lanes = l.lanes := by simp [Live.fileRequest]
@[simp] theorem Live.fileRequest_zones (c : Setup) (s : SlotId) (tag target : Nat) (h : Holding) :
    (Live.fileRequest c s tag target h l).zones = l.zones := by simp [Live.fileRequest]
@[simp] theorem Live.fileRequest_slots (c : Setup) (s : SlotId) (tag target : Nat) (h : Holding) :
    (Live.fileRequest c s tag target h l).slots = l.slots := by simp [Live.fileRequest]
@[simp] theorem Live.fileRequest_notices (c : Setup) (s : SlotId) (tag target : Nat) (h : Holding) :
    (Live.fileRequest c s tag target h l).notices = l.notices := by simp [Live.fileRequest]
@[simp] theorem Live.fileRequest_cell (c : Setup) (s : SlotId) (tag target : Nat) (h : Holding) :
    (Live.fileRequest c s tag target h l).cell = l.cell := by simp [Live.fileRequest]
@[simp] theorem Live.fileRequest_heads (c : Setup) (s : SlotId) (tag target : Nat) (h : Holding) :
    (Live.fileRequest c s tag target h l).heads = l.heads := by simp [Live.fileRequest]

@[simp] theorem Live.grant_slow (c : Setup) (r : Rail) (q : Request) (former : Run) :
    (Live.grant c r q former l).slow = l.slow := by simp [Live.grant]
@[simp] theorem Live.grant_holes (c : Setup) (r : Rail) (q : Request) (former : Run) :
    (Live.grant c r q former l).holes = l.holes := by simp [Live.grant]
@[simp] theorem Live.grant_unitsInUse (c : Setup) (r : Rail) (q : Request) (former : Run) :
    (Live.grant c r q former l).unitsInUse = l.unitsInUse := by simp [Live.grant]
@[simp] theorem Live.grant_zones (c : Setup) (r : Rail) (q : Request) (former : Run) :
    (Live.grant c r q former l).zones = l.zones := by simp [Live.grant]
@[simp] theorem Live.grant_notices (c : Setup) (r : Rail) (q : Request) (former : Run) :
    (Live.grant c r q former l).notices = l.notices := by simp [Live.grant]
@[simp] theorem Live.grant_cell (c : Setup) (r : Rail) (q : Request) (former : Run) :
    (Live.grant c r q former l).cell = l.cell := by simp [Live.grant]

@[simp] theorem Live.sendIssue_slow (c : Setup) (o : Order) (before : Option HoleState) (v : Option AssignedRivet) (u : Option Nat) (b : IssueBody) :
    (Live.sendIssue c o before v u b l).slow = l.slow := by unfold Live.sendIssue; dsimp only; split <;> [skip; split; skip] <;> simp
@[simp] theorem Live.sendIssue_holes (c : Setup) (o : Order) (before : Option HoleState) (v : Option AssignedRivet) (u : Option Nat) (b : IssueBody) :
    (Live.sendIssue c o before v u b l).holes = l.holes := by unfold Live.sendIssue; dsimp only; split <;> [skip; split; skip] <;> simp
@[simp] theorem Live.sendIssue_holdings (c : Setup) (o : Order) (before : Option HoleState) (v : Option AssignedRivet) (u : Option Nat) (b : IssueBody) :
    (Live.sendIssue c o before v u b l).holdings = l.holdings := by unfold Live.sendIssue; dsimp only; split <;> [skip; split; skip] <;> simp
@[simp] theorem Live.sendIssue_travels (c : Setup) (o : Order) (before : Option HoleState) (v : Option AssignedRivet) (u : Option Nat) (b : IssueBody) :
    (Live.sendIssue c o before v u b l).travels = l.travels := by unfold Live.sendIssue; dsimp only; split <;> [skip; split; skip] <;> simp
@[simp] theorem Live.sendIssue_requestsA (c : Setup) (o : Order) (before : Option HoleState) (v : Option AssignedRivet) (u : Option Nat) (b : IssueBody) :
    (Live.sendIssue c o before v u b l).requestsA = l.requestsA := by unfold Live.sendIssue; dsimp only; split <;> [skip; split; skip] <;> simp
@[simp] theorem Live.sendIssue_requestsB (c : Setup) (o : Order) (before : Option HoleState) (v : Option AssignedRivet) (u : Option Nat) (b : IssueBody) :
    (Live.sendIssue c o before v u b l).requestsB = l.requestsB := by unfold Live.sendIssue; dsimp only; split <;> [skip; split; skip] <;> simp
@[simp] theorem Live.sendIssue_unitsInUse (c : Setup) (o : Order) (before : Option HoleState) (v : Option AssignedRivet) (u : Option Nat) (b : IssueBody) :
    (Live.sendIssue c o before v u b l).unitsInUse = l.unitsInUse := by unfold Live.sendIssue; dsimp only; split <;> [skip; split; skip] <;> simp
@[simp] theorem Live.sendIssue_notices (c : Setup) (o : Order) (before : Option HoleState) (v : Option AssignedRivet) (u : Option Nat) (b : IssueBody) :
    (Live.sendIssue c o before v u b l).notices = l.notices := by unfold Live.sendIssue; dsimp only; split <;> [skip; split; skip] <;> simp
@[simp] theorem Live.sendIssue_cell (c : Setup) (o : Order) (before : Option HoleState) (v : Option AssignedRivet) (u : Option Nat) (b : IssueBody) :
    (Live.sendIssue c o before v u b l).cell = l.cell := by unfold Live.sendIssue; dsimp only; split <;> [skip; split; skip] <;> simp

@[simp] theorem Live.completeHole_pool (c : Setup) (o : Order) (code value : Nat) :
    (Live.completeHole c o code value l).pool = l.pool := by unfold Live.completeHole; split <;> [rfl; (dsimp only; split <;> split <;> simp)]
@[simp] theorem Live.completeHole_slow (c : Setup) (o : Order) (code value : Nat) :
    (Live.completeHole c o code value l).slow = l.slow := by unfold Live.completeHole; split <;> [rfl; (dsimp only; split <;> split <;> simp)]
@[simp] theorem Live.completeHole_holdings (c : Setup) (o : Order) (code value : Nat) :
    (Live.completeHole c o code value l).holdings = l.holdings := by unfold Live.completeHole; split <;> [rfl; (dsimp only; split <;> split <;> simp)]
@[simp] theorem Live.completeHole_travels (c : Setup) (o : Order) (code value : Nat) :
    (Live.completeHole c o code value l).travels = l.travels := by unfold Live.completeHole; split <;> [rfl; (dsimp only; split <;> split <;> simp)]
@[simp] theorem Live.completeHole_requestsA (c : Setup) (o : Order) (code value : Nat) :
    (Live.completeHole c o code value l).requestsA = l.requestsA := by unfold Live.completeHole; split <;> [rfl; (dsimp only; split <;> split <;> simp)]
@[simp] theorem Live.completeHole_requestsB (c : Setup) (o : Order) (code value : Nat) :
    (Live.completeHole c o code value l).requestsB = l.requestsB := by unfold Live.completeHole; split <;> [rfl; (dsimp only; split <;> split <;> simp)]
@[simp] theorem Live.completeHole_unitsInUse (c : Setup) (o : Order) (code value : Nat) :
    (Live.completeHole c o code value l).unitsInUse = l.unitsInUse := by unfold Live.completeHole; split <;> [rfl; (dsimp only; split <;> split <;> simp)]
@[simp] theorem Live.completeHole_lanes (c : Setup) (o : Order) (code value : Nat) :
    (Live.completeHole c o code value l).lanes = l.lanes := by unfold Live.completeHole; split <;> [rfl; (dsimp only; split <;> split <;> simp)]
@[simp] theorem Live.completeHole_zones (c : Setup) (o : Order) (code value : Nat) :
    (Live.completeHole c o code value l).zones = l.zones := by unfold Live.completeHole; split <;> [rfl; (dsimp only; split <;> split <;> simp)]
@[simp] theorem Live.completeHole_slots (c : Setup) (o : Order) (code value : Nat) :
    (Live.completeHole c o code value l).slots = l.slots := by unfold Live.completeHole; split <;> [rfl; (dsimp only; split <;> split <;> simp)]
@[simp] theorem Live.completeHole_notices (c : Setup) (o : Order) (code value : Nat) :
    (Live.completeHole c o code value l).notices = l.notices := by unfold Live.completeHole; split <;> [rfl; (dsimp only; split <;> split <;> simp)]
@[simp] theorem Live.completeHole_cell (c : Setup) (o : Order) (code value : Nat) :
    (Live.completeHole c o code value l).cell = l.cell := by unfold Live.completeHole; split <;> [rfl; (dsimp only; split <;> split <;> simp)]

end

/-! ### The whole state -/

section

variable (s : State)

@[simp] theorem State.place_setup (b : CellBody) : (State.place b s).setup = s.setup := rfl
@[simp] theorem State.place_live (b : CellBody) : (State.place b s).live = s.live.place s.setup b := rfl
@[simp] theorem State.place_pending (b : CellBody) : (State.place b s).pending = s.pending := rfl

@[simp] theorem State.answer_setup (h : Header) (a : Answer) : (State.answer h a s).setup = s.setup := rfl
@[simp] theorem State.answer_live (h : Header) (a : Answer) : (State.answer h a s).live = s.live.place s.setup (.answer h.tag a) := rfl
@[simp] theorem State.answer_pending (h : Header) (a : Answer) : (State.answer h a s).pending = s.pending := rfl

@[simp] theorem State.refuse_setup (h : Header) (r : Reason) : (State.refuse h r s).setup = s.setup := rfl
@[simp] theorem State.refuse_live (h : Header) (r : Reason) : (State.refuse h r s).live = s.live.place s.setup (.answer h.tag (.refused r)) := rfl
@[simp] theorem State.refuse_pending (h : Header) (r : Reason) : (State.refuse h r s).pending = s.pending := rfl

@[simp] theorem State.withSetup_setup (c : Setup) : (State.withSetup c s).setup = c := rfl
@[simp] theorem State.withSetup_live (c : Setup) : (State.withSetup c s).live = s.live := rfl
@[simp] theorem State.withSetup_pending (c : Setup) : (State.withSetup c s).pending = s.pending := rfl

@[simp] theorem State.withTables_setup (t : Tables) : (State.withTables t s).setup = { s.setup with tables := t } := rfl
@[simp] theorem State.withTables_live (t : Tables) : (State.withTables t s).live = s.live := rfl
@[simp] theorem State.withTables_pending (t : Tables) : (State.withTables t s).pending = s.pending := rfl

@[simp] theorem State.protocol_setup (i : SlotId) : (State.protocol i s).setup = s.setup := rfl
@[simp] theorem State.protocol_live (i : SlotId) : (State.protocol i s).live = s.live.headError i .protocol := rfl
@[simp] theorem State.protocol_pending (i : SlotId) : (State.protocol i s).pending = s.pending := rfl

@[simp] theorem State.taking_setup (f : Setup → Taking → Taking) : (State.taking f s).setup = s.setup := rfl
@[simp] theorem State.taking_live (f : Setup → Taking → Taking) : (State.taking f s).live = (f s.setup (Taking.start s.live)).finish s.setup := rfl
@[simp] theorem State.taking_pending (f : Setup → Taking → Taking) : (State.taking f s).pending = s.pending := rfl

@[simp] theorem State.takeReset_live (cause : ResetCause) : (State.takeReset cause s).live = Live.reset cause := rfl
@[simp] theorem State.takeReset_pending (cause : ResetCause) : (State.takeReset cause s).pending = s.pending := rfl

@[simp] theorem State.elapse_pending (n : Nat) : (State.elapse n s).pending = s.pending := rfl

/-! ### What passing time leaves -/

@[simp] theorem State.elapse_patterns (n : Nat) : (s.elapse n).setup.patterns = s.setup.patterns := rfl
@[simp] theorem State.elapse_freeRows (n : Nat) : (s.elapse n).setup.freeRows = s.setup.freeRows := rfl
@[simp] theorem State.elapse_frame (n : Nat) : (s.elapse n).setup.frame = s.setup.frame := rfl
@[simp] theorem State.elapse_tables (n : Nat) : (s.elapse n).setup.tables = s.setup.tables := rfl
@[simp] theorem State.elapse_mode (n : Nat) : (s.elapse n).setup.mode = s.setup.mode := rfl
@[simp] theorem State.elapse_pins (n : Nat) : (s.elapse n).setup.pins = s.setup.pins := rfl
@[simp] theorem State.elapse_strap (n : Nat) : (s.elapse n).setup.strap = s.setup.strap := rfl
@[simp] theorem State.elapse_resetHeld (n : Nat) : (s.elapse n).setup.resetHeld = s.setup.resetHeld := rfl
@[simp] theorem State.elapse_preload (n : Nat) : (s.elapse n).setup.preload = s.setup.preload := rfl
@[simp] theorem State.elapse_engine (n : Nat) : (s.elapse n).setup.engine = s.setup.engine := rfl
@[simp] theorem State.elapse_lockout (n : Nat) : (s.elapse n).setup.lockout = s.setup.lockout := rfl
@[simp] theorem State.elapse_resetCause (n : Nat) : (s.elapse n).setup.resetCause = s.setup.resetCause := rfl
@[simp] theorem State.elapse_restart (n : Nat) : (s.elapse n).setup.restart = s.setup.restart := rfl
@[simp] theorem State.elapse_freeIndex (n : Nat) : (s.elapse n).setup.freeIndex = s.setup.freeIndex := rfl
@[simp] theorem State.elapse_now (n : Nat) : (s.elapse n).setup.now = s.setup.now + n := rfl
@[simp] theorem State.elapse_pool (n : Nat) : (s.elapse n).live.pool = s.live.pool := rfl
@[simp] theorem State.elapse_slow (n : Nat) : (s.elapse n).live.slow = s.live.slow := rfl
@[simp] theorem State.elapse_holes (n : Nat) : (s.elapse n).live.holes = s.live.holes := rfl
@[simp] theorem State.elapse_holdings (n : Nat) : (s.elapse n).live.holdings = s.live.holdings := rfl
@[simp] theorem State.elapse_travels (n : Nat) : (s.elapse n).live.travels = s.live.travels := rfl
@[simp] theorem State.elapse_unitsInUse (n : Nat) : (s.elapse n).live.unitsInUse = s.live.unitsInUse := rfl
@[simp] theorem State.elapse_zones (n : Nat) : (s.elapse n).live.zones = s.live.zones := rfl
@[simp] theorem State.elapse_notices (n : Nat) : (s.elapse n).live.notices = s.live.notices := rfl
@[simp] theorem State.elapse_cell (n : Nat) : (s.elapse n).live.cell = s.live.cell := rfl

end

end Sys2Proof.Machine
end

