-- ==== Sys2Proof/Laws/Links.lean ====
section
/-! SUPPORT. The cell outbound list: what placing a message and beginning a transmission leave of the messages for the
cell, in order; and HOLDOFF. -/

namespace Sys2Proof.Machine

/-- Beginning a transmission loses and reorders nothing. -/
@[simp] theorem CellLink.begin_bodies (k : CellLink) : k.begin_.bodies = k.bodies := by
  unfold CellLink.begin_
  split
  · rename_i m rest hs hl
    simp [CellLink.bodies, hs, hl]
  · rfl

/-- A placed message is the last of the messages for the cell. -/
@[simp] theorem CellLink.place_bodies (m : CellMsg) (k : CellLink) : (k.place m).bodies = k.bodies ++ [m.body] := by
  unfold CellLink.place
  rw [CellLink.begin_bodies]
  simp [CellLink.bodies]

/-- Placing a message in the live state. -/
theorem Live.place_bodies (c : Setup) (b : CellBody) (l : Live) : (l.place c b).cell.bodies = l.cell.bodies ++ [b] := by
  simp

/-- Placing several messages, one after another. -/
theorem Live.placeAll_bodies (c : Setup) (bs : List CellBody) (l : Live) :
    (bs.foldl (fun l b => l.place c b) l).cell.bodies = l.cell.bodies ++ bs := by
  induction bs generalizing l with
  | nil => simp
  | cons b rest ih => simp [ih]

/-- Neither a start nor a placing touches the receiver. -/
@[simp] theorem CellLink.begin_rx (k : CellLink) : k.begin_.rx = k.rx := by
  unfold CellLink.begin_; split <;> rfl

@[simp] theorem CellLink.place_rx (m : CellMsg) (k : CellLink) : (k.place m).rx = k.rx := by simp [CellLink.place]

/-- Placing changes the cell link alone. -/
theorem Live.placeAll_fields (c : Setup) (bs : List CellBody) (l : Live) :
    bs.foldl (fun l b => l.place c b) l = { l with cell := (bs.foldl (fun l b => l.place c b) l).cell } := by
  induction bs generalizing l with
  | nil => rfl
  | cons b rest ih => rw [List.foldl_cons, ih]; rfl

/-- A transmission that begins leaves the list with one message fewer. -/
theorem CellLink.begin_idle {k : CellLink} {m : CellMsg} {rest : List CellMsg} (h : k.sending = none)
    (e : k.list = m :: rest) :
    k.begin_ = { k with
      list := rest
      holdoff := holdoffAt rest.length k.holdoff
      sending := some { m with flags := { m.flags with holdoff := holdoffAt rest.length k.holdoff } } } := by
  unfold CellLink.begin_
  simp [h, e]

/-- With a transmission in progress nothing begins. -/
theorem CellLink.begin_busy {k : CellLink} (h : k.sending ≠ none) : k.begin_ = k := by
  unfold CellLink.begin_
  split
  · contradiction
  · rfl

/-- With nothing on the list nothing begins. -/
theorem CellLink.begin_empty {k : CellLink} (h : k.list = []) : k.begin_ = k := by
  unfold CellLink.begin_
  split
  · simp_all
  · rfl

/-- A closed frame leaves the messages for the cell as they are. -/
@[simp] theorem Live.closeFrame_bodies (l : Live) : l.closeFrame.cell.bodies = l.cell.bodies := rfl

@[simp] theorem Live.cellError_bodies (e : LinkError) (l : Live) : (l.cellError e).cell.bodies = l.cell.bodies := rfl

/-- The ten bits of a byte on the line (R163). -/
theorem byteBits_eq (b : Byte) : byteBits b =
    [ .start, .data (b.getLsbD 0), .data (b.getLsbD 1), .data (b.getLsbD 2), .data (b.getLsbD 3), .data (b.getLsbD 4),
      .data (b.getLsbD 5), .data (b.getLsbD 6), .data (b.getLsbD 7), .stop ] := rfl

/-- A byte takes ten bits on the line (R163). -/
@[simp] theorem byteBits_length (b : Byte) : (byteBits b).length = 10 := rfl

/-- A byte is read back from its bits (R163). -/
theorem byteBits_injective {a b : Byte} (h : byteBits a = byteBits b) : a = b := by
  apply BitVec.eq_of_getLsbD_eq
  intro i hi
  have e : (byteBits a)[i + 1]? = (byteBits b)[i + 1]? := by rw [h]
  match i, hi, e with
  | 0, _, e | 1, _, e | 2, _, e | 3, _, e | 4, _, e | 5, _, e | 6, _, e | 7, _, e =>
    exact LineBit.data.inj (Option.some.inj e)

@[simp] theorem lineBits_nil : lineBits [] = [] := rfl

@[simp] theorem lineBits_cons (b : Byte) (rest : List Byte) : lineBits (b :: rest) = byteBits b ++ lineBits rest := rfl

/-- Ten bits for each byte (R163). -/
@[simp] theorem lineBits_length (bytes : List Byte) : (lineBits bytes).length = 10 * bytes.length := by
  induction bytes with
  | nil => rfl
  | cons b rest ih => simp only [lineBits_cons, List.length_append, byteBits_length, ih, List.length_cons]; omega

/-- Under a held reset pin the cell link sends nothing (R183). -/
theorem State.cellLine_held {s : State} (h : s.setup.resetHeld = true) : s.cellLine = [] := by
  simp [State.cellLine, h]

/-- An idle cell link sends the idle byte (R163, R182). -/
theorem State.cellLine_idle {s : State} (h : s.setup.resetHeld = false) (e : s.live.cell.sending = none) :
    s.cellLine = [idleByte] := by
  simp [State.cellLine, h, e]

/-- A cell link in transmission sends the frame of its message (R163). -/
theorem State.cellLine_sending {s : State} {m : CellMsg} (h : s.setup.resetHeld = false)
    (e : s.live.cell.sending = some m) : s.cellLine = frameOf m.bytes := by
  simp [State.cellLine, h, e]

/-- Under a held reset pin (R183), or after a RESTART (R194), a head link sends nothing. -/
theorem State.headLine_held {slot : SlotId} {s : State} (h : s.setup.resetHeld = true ∨ s.setup.headHold.isSome = true) :
    s.headLine slot = [] := by
  simp only [State.headLine]
  rw [if_pos h]

/-- An idle head link sends the idle byte (R163, R182). -/
theorem State.headLine_idle {slot : SlotId} {s : State} (h : s.setup.resetHeld = false) (k : s.setup.headHold = none)
    (e : s.live.heads[slot].sending = none) : s.headLine slot = [idleByte] := by
  simp only [State.headLine, h, k, Option.isSome_none, Bool.false_eq_true, or_self, if_false, e]

/-- A head link in transmission sends the frame of its message (R163). -/
theorem State.headLine_sending {slot : SlotId} {s : State} {m : HeadMsg} (h : s.setup.resetHeld = false)
    (k : s.setup.headHold = none) (e : s.live.heads[slot].sending = some m) : s.headLine slot = frameOf (m.bytes slot) := by
  simp only [State.headLine, h, k, Option.isSome_none, Bool.false_eq_true, or_self, if_false, e]

end Sys2Proof.Machine
end

