-- ==== Sys2Proof/Laws/Examination.lean ====
section
/-!
SUPPORT. What an operation on the live state can do at most. `Forward`: the pool keeps its order and no order in it changes
its tag, kind, slot or target, messages for the cell are only added, and no hole entry comes or goes. `Examined`: besides,
no notice is posted, no zone changes state, and no slot record changes but for its state, work and timer. Every rail
examination and every examination of the gate is `Examined`.
-/

namespace Sys2Proof.Machine

/-- What no operation changes of an order in the pool. -/
def Order.fixed (o : Order) : Nat × OrderKind × SlotId × Target := (o.tag, o.kind, o.slot, o.target)

/-- What an examination changes of a slot record is its state, work and timer; the rest is this. -/
def Slot.identity (x : Slot) : Option Joined × Option Tool × Lever × Bool × LampSetting × Aspect × Option SlotFault :=
  (x.head, x.tool, x.lever, x.leverPending, x.lamp, x.aspect, x.fault)

/-- The pool keeps its order, the messages for the cell are only added to, the hole entries stay as many. -/
structure Live.Forward (l l' : Live) : Prop where
  orders : (l'.pool.map Order.fixed).Sublist (l.pool.map Order.fixed)
  bodies : l.cell.bodies <+: l'.cell.bodies
  holes : l'.holes.length = l.holes.length

/-- The bounds of an examination. -/
structure Live.Examined (l l' : Live) : Prop extends Live.Forward l l' where
  notices : l'.notices = l.notices
  zones : ∀ z : ZoneId, l'.zones[z].state = l.zones[z].state
  slots : ∀ s : SlotId, l'.slots[s].identity = l.slots[s].identity

namespace Live

theorem Forward.refl (l : Live) : Forward l l := ⟨List.Sublist.refl _, List.prefix_refl _, rfl⟩

theorem Forward.trans {a b c : Live} (h : Forward a b) (k : Forward b c) : Forward a c :=
  ⟨k.orders.trans h.orders, h.bodies.trans k.bodies, k.holes.trans h.holes⟩

theorem Examined.refl (l : Live) : Examined l l := ⟨Forward.refl l, rfl, fun _ => rfl, fun _ => rfl⟩

theorem Examined.trans {a b c : Live} (h : Examined a b) (k : Examined b c) : Examined a c :=
  ⟨h.toForward.trans k.toForward, k.notices.trans h.notices, fun z => (k.zones z).trans (h.zones z),
    fun s => (k.slots s).trans (h.slots s)⟩

/-- A change of fields that neither bound names. -/
theorem Examined.of_same {l l' : Live} (p : l'.pool = l.pool) (c : l'.cell = l.cell) (h : l'.holes = l.holes)
    (n : l'.notices = l.notices) (z : l'.zones = l.zones) (s : l'.slots = l.slots) : Examined l l' := by
  refine ⟨⟨by rw [p], by rw [c], by rw [h]⟩, n, ?_, ?_⟩
  · intro; rw [z]
  · intro; rw [s]

/-- A change of notices, zones or slots alone. -/
theorem Forward.of_same {l l' : Live} (p : l'.pool = l.pool) (c : l'.cell = l.cell) (h : l'.holes = l.holes) :
    Forward l l' := ⟨by rw [p], by rw [c], by rw [h]⟩

theorem map_fixed {pool : List Order} {f : Order → Order} {tag : Nat} (h : ∀ o, (f o).fixed = o.fixed) :
    (pool.map fun o => if o.tag = tag then f o else o).map Order.fixed = pool.map Order.fixed := by
  rw [List.map_map]
  apply List.map_congr_left
  intro o _
  simp only [Function.comp]
  split
  · exact h o
  · rfl

theorem Examined.updOrder {l : Live} {tag : Nat} {f : Order → Order} (h : ∀ o, (f o).fixed = o.fixed) :
    Examined l (l.updOrder tag f) := by
  refine ⟨⟨?_, List.prefix_refl _, rfl⟩, rfl, fun _ => rfl, fun _ => rfl⟩
  rw [updOrder_pool, map_fixed h]

theorem Examined.updSlot {l : Live} {s : SlotId} {f : Slot → Slot} (h : ∀ x, (f x).identity = x.identity) :
    Examined l (l.updSlot s f) := by
  refine ⟨⟨List.Sublist.refl _, List.prefix_refl _, rfl⟩, rfl, fun _ => rfl, ?_⟩
  intro j
  rw [updSlot_slots, vmod_get]
  split
  · rename_i e; rw [h, e]
  · rfl

theorem Forward.updSlot {l : Live} {s : SlotId} {f : Slot → Slot} : Forward l (l.updSlot s f) := Forward.of_same rfl rfl rfl

theorem Examined.updZone {l : Live} {z : ZoneId} {f : Zone → Zone} (h : ∀ x, (f x).state = x.state) :
    Examined l (l.updZone z f) := by
  refine ⟨⟨List.Sublist.refl _, List.prefix_refl _, rfl⟩, rfl, ?_, fun _ => rfl⟩
  intro j
  rw [updZone_zones, vmod_get]
  split
  · rename_i e; rw [h, e]
  · rfl

theorem Examined.updHead {l : Live} {s : SlotId} {f : HeadLink → HeadLink} : Examined l (l.updHead s f) :=
  Examined.of_same rfl rfl rfl rfl rfl rfl

theorem Examined.updLane {l : Live} {i : LaneId} {f : Lane → Lane} : Examined l (l.updLane i f) :=
  Examined.of_same rfl rfl rfl rfl rfl rfl

theorem Examined.setHolding {l : Live} {s : SlotId} {h : Option Holding} : Examined l (l.setHolding s h) :=
  Examined.of_same rfl rfl rfl rfl rfl rfl

theorem Examined.setTravel {l : Live} {s : SlotId} {h : Option Travel} : Examined l (l.setTravel s h) :=
  Examined.of_same rfl rfl rfl rfl rfl rfl

theorem Examined.setRequests {l : Live} {r : Rail} {q : List Request} : Examined l (l.setRequests r q) :=
  Examined.of_same (by simp) (by simp) (by simp) (by simp) (by simp) (by simp)

theorem Examined.updHole {l : Live} {n : Nat} {f : Hole → Hole} : Examined l (l.updHole n f) := by
  refine ⟨⟨by simp, by simp, ?_⟩, by simp, by simp, by simp⟩
  unfold Live.updHole
  split <;> simp

theorem Examined.place {l : Live} {c : Setup} {b : CellBody} : Examined l (l.place c b) := by
  refine ⟨⟨List.Sublist.refl _, ?_, rfl⟩, rfl, fun _ => rfl, fun _ => rfl⟩
  rw [Live.place_bodies]
  exact List.prefix_append _ _

theorem Forward.post {l : Live} {src : Fin 13} {code : NoticeCode} {d : Detail} : Forward l (l.post src code d) :=
  Forward.of_same rfl rfl rfl

theorem Forward.postSlot {l : Live} {s : SlotId} {code : NoticeCode} {d : Detail} : Forward l (l.postSlot s code d) :=
  Forward.of_same rfl rfl rfl

theorem Forward.updZone {l : Live} {z : ZoneId} {f : Zone → Zone} : Forward l (l.updZone z f) := Forward.of_same rfl rfl rfl

theorem sweepFrom_length (c : Setup) (z : ZoneId) (n : Nat) (x : List Hole) : (sweepFrom c z n x).length = x.length := by
  induction x generalizing n with
  | nil => rfl
  | cons y rest ih => simp [sweepFrom, ih]

theorem Forward.sweep {l : Live} {c : Setup} {z : ZoneId} : Forward l (l.sweep c z) :=
  ⟨List.Sublist.refl _, List.prefix_refl _, sweepFrom_length c z 1 l.holes⟩

theorem Examined.markSent {l : Live} {s : SlotId} {m : HeadMsg} : Examined l (l.markSent s m) := by
  unfold Live.markSent
  split
  · exact Examined.of_same rfl rfl rfl rfl rfl rfl
  · exact Examined.updOrder fun _ => rfl
  · exact Examined.updOrder fun _ => rfl
  · exact Examined.refl l

theorem Examined.beginHead {l : Live} {c : Setup} {s : SlotId} : Examined l (l.beginHead c s) := by
  unfold Live.beginHead
  split
  · exact Examined.updHead.trans Examined.markSent
  · exact Examined.refl l

theorem Examined.queue {l : Live} {c : Setup} {s : SlotId} {m : HeadMsg} : Examined l (l.queue c s m) :=
  Examined.updHead.trans Examined.beginHead

theorem Examined.unqueue {l : Live} {s : SlotId} {p : HeadMsg → Bool} : Examined l (l.unqueue s p) := Examined.updHead

theorem Examined.queueDiscard {l : Live} {c : Setup} {s : SlotId} {n : Nat} : Examined l (l.queueDiscard c s n) := by
  unfold Live.queueDiscard
  split
  · exact Examined.refl l
  · exact Examined.queue

theorem Examined.queueJoin {l : Live} {c : Setup} {s : SlotId} {m : HeadMsg} : Examined l (l.queueJoin c s m) := by
  unfold Live.queueJoin
  split
  · exact Examined.refl l
  · exact Examined.unqueue.trans Examined.queue

theorem Examined.queueToolSync {l : Live} {c : Setup} {s : SlotId} : Examined l (l.queueToolSync c s) := by
  unfold Live.queueToolSync
  split
  · exact Examined.refl l
  · exact Examined.queueJoin

theorem Examined.queueLamp {l : Live} {c : Setup} {s : SlotId} : Examined l (l.queueLamp c s) :=
  Examined.unqueue.trans Examined.queue

theorem Forward.syncLamp {l : Live} {c : Setup} {s : SlotId} : Forward l (l.syncLamp c s) := by
  unfold Live.syncLamp
  dsimp only
  split
  · exact Forward.refl l
  · split
    · exact Forward.updSlot
    · exact Forward.updSlot.trans Examined.queueLamp.toForward

theorem Examined.startStage {l : Live} {s : SlotId} {g : TimedStage} {n : Nat} : Examined l (l.startStage s g n) :=
  Examined.updSlot fun _ => rfl

theorem Examined.syncCadences {l : Live} {c : Setup} : Examined l (l.syncCadences c) :=
  Examined.updLane.trans Examined.updLane

theorem Examined.grant {l : Live} {c : Setup} {r : Rail} {q : Request} {v : Run} : Examined l (l.grant c r q v) := by
  unfold Live.grant
  refine Examined.trans ?_ Examined.queue
  refine Examined.trans ?_ Examined.startStage
  refine Examined.trans ?_ (Examined.updSlot fun _ => rfl)
  refine Examined.trans ?_ (Examined.updOrder fun _ => rfl)
  exact Examined.setRequests.trans (Examined.setHolding.trans Examined.setTravel)

theorem Examined.weighRequest {c : Setup} {r : Rail} {p : Live × List Run} {q : Request} :
    Examined p.1 (weighRequest c r p q).1 := by
  unfold Machine.weighRequest
  split
  · exact Examined.refl _
  · split
    · exact Examined.grant
    · exact Examined.refl _

theorem Examined.examineRail {l : Live} {c : Setup} {r : Rail} : Examined l (l.examineRail c r) := by
  unfold Live.examineRail
  generalize l.requests r = qs
  have : ∀ p : Live × List Run, Examined p.1 (qs.foldl (Machine.weighRequest c r) p).1 := by
    induction qs with
    | nil => exact fun p => Examined.refl _
    | cons q rest ih => exact fun p => Examined.weighRequest.trans (ih _)
  exact this (l, [])

theorem Examined.fileRequest {l : Live} {c : Setup} {s : SlotId} {tag target : Nat} {h : Holding} :
    Examined l (l.fileRequest c s tag target h) := Examined.setRequests

theorem Examined.openHeat {l : Live} {i : LaneId} {h : Heat} : Examined l (l.openHeat i h) := Examined.updLane

theorem Examined.closeHeat {l : Live} {s : SlotId} {i : LaneId} : Examined l (l.closeHeat s i) := Examined.updLane

theorem Examined.editHeat {l : Live} {s : SlotId} {i : LaneId} {f : Heat → Heat} : Examined l (l.editHeat s i f) :=
  Examined.updLane

theorem Examined.setExpected {l : Live} {z : ZoneId} {v : Bool} : Examined l (l.setExpected z v) :=
  Examined.updZone fun _ => rfl

theorem Examined.sendIssue {l : Live} {c : Setup} {o : Order} {b : Option HoleState} {v : Option AssignedRivet}
    {u : Option Nat} {body : IssueBody} : Examined l (l.sendIssue c o b v u body) := by
  unfold Live.sendIssue
  dsimp only
  refine Examined.trans ?_ Examined.queue
  refine Examined.trans ?_ Examined.startStage
  refine Examined.trans ?_ (Examined.updSlot fun _ => rfl)
  have first : Examined l (l.updOrder o.tag fun x =>
      { x with state := .issued, wait := none, before := b, rivet := v, units := u, issueMark := some .unsent }) :=
    Examined.updOrder fun _ => rfl
  refine first.trans ?_
  split
  · exact Examined.openHeat
  · split
    · exact Examined.refl _
    · exact Examined.setExpected
  · exact Examined.refl _

theorem Examined.takeIssue {l l' : Live} {c : Setup} {k : OrderKind} {hole : Nat} {b : HoleState}
    (h : l.takeIssue c k hole = some (b, l')) : Examined l l' := by
  unfold Live.takeIssue at h
  split at h
  · contradiction
  · split at h
    · simp only [Option.some.injEq, Prod.mk.injEq] at h
      rw [← h.2]
      exact Examined.updHole
    · contradiction

theorem Examined.takeForSet {l l' : Live} {c : Setup} {o : Order} {hole cls : Nat} {v : AssignedRivet}
    (h : l.takeForSet c o hole cls = some (v, l')) : Examined l l' := by
  unfold Live.takeForSet at h
  split at h
  · contradiction
  · simp only [Option.some.injEq, Prod.mk.injEq] at h
    rw [← h.2]
    exact Examined.of_same rfl rfl rfl rfl rfl rfl

end Live

namespace Taking

theorem withdrawClaim_examined (tag : Nat) (t : Taking) : Live.Examined t.live (t.withdrawClaim tag).live :=
  Live.Examined.of_same rfl rfl rfl rfl rfl rfl

theorem placeDone_examined (c : Setup) (d : OrderDone) (t : Taking) : Live.Examined t.live (t.placeDone c d).live := by
  unfold placeDone
  split
  · exact Live.Examined.refl _
  · exact Live.Examined.place

theorem leave_examined (c : Setup) (o : Order) (x : OrderOutcome) (y : Option DoneCause) (n : Option Nat) (t : Taking) :
    Live.Examined t.live (t.leave c o x y n).live := by
  unfold leave
  refine Live.Examined.trans ?_ (placeDone_examined c _ _)
  refine (withdrawClaim_examined o.tag t).trans ?_
  refine ⟨⟨?_, List.prefix_refl _, rfl⟩, rfl, fun _ => rfl, fun _ => rfl⟩
  exact List.Sublist.map _ List.filter_sublist

theorem withdraw_examined (c : Setup) (o : Order) (y : DoneCause) (t : Taking) :
    Live.Examined t.live (t.withdraw c o y).live := leave_examined c o _ _ _ t

theorem issue_examined (c : Setup) (o : Order) (t : Taking) : Live.Examined t.live (t.issue c o).live := by
  unfold issue
  split
  · split
    · exact withdraw_examined _ _ _ _
    · rename_i h1
      split
      · exact withdraw_examined _ _ _ _
      · split
        · exact withdraw_examined _ _ _ _
        · rename_i h2
          split
          · exact withdraw_examined _ _ _ _
          · exact (Live.Examined.takeIssue h1).trans ((Live.Examined.takeForSet h2).trans Live.Examined.sendIssue)
  · split
    · exact withdraw_examined _ _ _ _
    · rename_i h1
      split
      · exact withdraw_examined _ _ _ _
      · exact (Live.Examined.takeIssue h1).trans Live.Examined.sendIssue
  · split
    · exact withdraw_examined _ _ _ _
    · exact Live.Examined.sendIssue

theorem settleRails_examined (c : Setup) (t : Taking) : Live.Examined t.live (t.settleRails c).live := by
  unfold settleRails
  dsimp only
  split <;> split
  · exact Live.Examined.examineRail.trans Live.Examined.examineRail
  · exact Live.Examined.examineRail
  · exact Live.Examined.examineRail
  · exact Live.Examined.refl _

@[simp] theorem wakeRail_live (r : Rail) (t : Taking) : (t.wakeRail r).live = t.live := by cases r <;> rfl

@[simp] theorem wakeGate_live (t : Taking) : t.wakeGate.live = t.live := rfl

@[simp] theorem start_live (l : Live) : (start l).live = l := rfl

@[simp] theorem holding_live (l : Live) : (holding l).live = l := rfl

@[simp] theorem on_live (f : Live → Live) (t : Taking) : (t.on f).live = f t.live := rfl
@[simp] theorem on_holdDones (f : Live → Live) (t : Taking) : (t.on f).holdDones = t.holdDones := rfl
@[simp] theorem on_held (f : Live → Live) (t : Taking) : (t.on f).held = t.held := rfl
@[simp] theorem on_gateDue (f : Live → Live) (t : Taking) : (t.on f).gateDue = t.gateDue := rfl
@[simp] theorem on_railADue (f : Live → Live) (t : Taking) : (t.on f).railADue = t.railADue := rfl
@[simp] theorem on_railBDue (f : Live → Live) (t : Taking) : (t.on f).railBDue = t.railBDue := rfl
@[simp] theorem wakeGate_holdDones (t : Taking) : t.wakeGate.holdDones = t.holdDones := rfl
@[simp] theorem wakeGate_held (t : Taking) : t.wakeGate.held = t.held := rfl
@[simp] theorem wakeGate_gateDue (t : Taking) : t.wakeGate.gateDue = true := rfl
@[simp] theorem wakeRail_holdDones (r : Rail) (t : Taking) : (t.wakeRail r).holdDones = t.holdDones := by cases r <;> rfl
@[simp] theorem wakeRail_held (r : Rail) (t : Taking) : (t.wakeRail r).held = t.held := by cases r <;> rfl
@[simp] theorem wakeRail_gateDue (r : Rail) (t : Taking) : (t.wakeRail r).gateDue = t.gateDue := by cases r <;> rfl
@[simp] theorem start_holdDones (l : Live) : (start l).holdDones = false := rfl
@[simp] theorem start_held (l : Live) : (start l).held = [] := rfl
@[simp] theorem start_gateDue (l : Live) : (start l).gateDue = false := rfl
@[simp] theorem start_railADue (l : Live) : (start l).railADue = false := rfl
@[simp] theorem start_railBDue (l : Live) : (start l).railBDue = false := rfl
@[simp] theorem holding_holdDones (l : Live) : (holding l).holdDones = true := rfl
@[simp] theorem holding_held (l : Live) : (holding l).held = [] := rfl

theorem afterReason_examined (c : Setup) (o : Order) (r : WaitReason) (t : Taking) :
    Live.Examined t.live (t.afterReason c o r).live := by
  unfold afterReason
  split
  · exact withdrawClaim_examined _ _
  · split
    · split
      · rw [wakeRail_live]; exact Live.Examined.fileRequest
      · exact Live.Examined.refl _
    · exact Live.Examined.refl _

theorem weigh_examined (c : Setup) (f : Bool) (o : Order) (t : Taking) : Live.Examined t.live (t.weigh c f o).1.live := by
  unfold weigh
  split
  · exact withdraw_examined _ _ _ _
  · split
    · refine Live.Examined.trans ?_ (afterReason_examined _ _ _ _)
      exact Live.Examined.updOrder fun _ => rfl
    · split
      · exact leave_examined _ _ _ _ _ _
      · split
        · exact Live.Examined.updOrder fun _ => rfl
        · exact issue_examined _ _ _

theorem weighOrder_examined (c : Setup) (p : Taking × Bool) (tag : Nat) :
    Live.Examined p.1.live (weighOrder c p tag).1.live := by
  unfold weighOrder
  split
  · exact Live.Examined.refl _
  · split
    · exact (weigh_examined _ _ _ _).trans (settleRails_examined _ _)
    · exact Live.Examined.refl _

/-- An examination of the gate (R36). -/
theorem examine_examined (c : Setup) (t : Taking) : Live.Examined t.live (t.examine c).live := by
  unfold examine
  generalize t.live.pool.map Order.tag = tags
  have : ∀ p : Taking × Bool, Live.Examined p.1.live (tags.foldl (weighOrder c) p).1.live := by
    induction tags with
    | nil => exact fun p => Live.Examined.refl _
    | cons tag rest ih => exact fun p => (weighOrder_examined c p tag).trans (ih _)
  exact this (t, false)

/-- The examinations a taking has started. -/
theorem settle_examined (c : Setup) (t : Taking) : Live.Examined t.live (t.settle c).live := by
  unfold settle
  dsimp only
  split
  · exact (settleRails_examined _ _).trans (examine_examined _ _)
  · exact settleRails_examined _ _

theorem flush_examined (c : Setup) (t : Taking) : Live.Examined t.live (t.flush c).live := by
  unfold flush
  dsimp only
  generalize t.live = l
  generalize t.held = bs
  induction bs generalizing l with
  | nil => exact Live.Examined.refl _
  | cons b rest ih => exact Live.Examined.place.trans (ih _)

/-- The end of a taking. -/
theorem finish_examined (c : Setup) (t : Taking) : Live.Examined t.live (t.finish c) :=
  (settle_examined c t).trans ((flush_examined c _).trans Live.Examined.syncCadences)

end Taking

end Sys2Proof.Machine
end

