-- ==== Sys2Proof/Laws/Takings.lean ====
section
/-!
SUPPORT. Every step of a taking is `Forward`: the ends of work, aborts, completions, losses, zone reports, and what the
slots do. A prover of a law over the pool or over the messages for the cell cites these in place of unfolding them.
-/

namespace Sys2Proof.Machine

namespace Live

theorem Forward.updHole {l : Live} {n : Nat} {f : Hole → Hole} : Forward l (l.updHole n f) := Examined.updHole.toForward

theorem Examined.releaseRivetOf {l : Live} {c : Setup} {o : Order} : Examined l (l.releaseRivetOf c o) :=
  Examined.of_same (by simp) (by simp) (by simp) (by simp) (by simp) (by simp)

theorem Examined.dropRivetOf {l : Live} {o : Order} : Examined l (l.dropRivetOf o) :=
  Examined.of_same (by simp) (by simp) (by simp) (by simp) (by simp) (by simp)

theorem Examined.endHeat {l : Live} {o : Order} : Examined l (l.endHeat o) :=
  Examined.of_same (by simp) (by simp) (by simp) (by simp) (by simp) (by simp)

theorem Examined.endUnclamp {l : Live} {o : Order} : Examined l (l.endUnclamp o) := by
  unfold Live.endUnclamp
  split
  · exact Examined.setExpected
  · exact Examined.refl _

/-- The heat record found for a slot is one of the lane's, on that slot. -/
theorem heatOn_some {x : Lane} {s : SlotId} {h : Heat} (e : x.heatOn s = some h) : x.heat = some h ∧ h.slot = s := by
  simpa [Lane.heatOn, Option.filter_eq_some_iff] using e

/-- Closing the heat of one slot closes no other (R98). -/
theorem heatOff_some {x : Lane} {s : SlotId} {h : Heat} : x.heatOff s = some h ↔ x.heat = some h ∧ h.slot ≠ s := by
  simp [Lane.heatOff, Option.filter_eq_some_iff]

/-- The loss of slot `s` leaves a lane that has no heat on it (R90). -/
theorem failHeat_elsewhere {l : Live} {s : SlotId} {i : LaneId} {k : LossCause} {n : Option Nat}
    (e : l.lanes[i].heatOn s = none) : l.failHeat s i k n = l := by
  unfold Live.failHeat
  rw [e]

theorem loseHeat_elsewhere {l : Live} {s : SlotId} {i : LaneId} {k : LossCause} {n : Option Nat}
    (e : l.lanes[i].heatOn s = none) : l.loseHeat s i k n = l := by
  unfold Live.loseHeat
  rw [e]

theorem Forward.failHeat {l : Live} {s : SlotId} {i : LaneId} {k : LossCause} {n : Option Nat} :
    Forward l (l.failHeat s i k n) :=
  Forward.of_same (by simp) (by simp) (by simp)

theorem Forward.loseHeat {l : Live} {s : SlotId} {i : LaneId} {k : LossCause} {n : Option Nat} :
    Forward l (l.loseHeat s i k n) :=
  Forward.of_same (by simp) (by simp) (by simp)

theorem Examined.heaterLost {l : Live} {c : Setup} {s : SlotId} : Examined l (l.heaterLost c s) :=
  Examined.of_same (by simp) (by simp) (by simp) (by simp) (by simp) (by simp)

theorem Forward.scrap {l : Live} {c : Setup} {i : LaneId} {n : Nat} : Forward l (l.scrap c i n) := by
  have first : Forward l (match l.heaterLinked c i with
      | some s => l.queueDiscard c s n
      | none => l) := by
    split
    · exact Examined.queueDiscard.toForward
    · exact Forward.refl _
  have tail : ∀ l' : Live, Forward l l' → Forward l (match c.tables.lanes[i].slot with
      | some s => l'.postSlot s .rivetScrapped (.lane i)
      | none => l') := by
    intro l' h
    split
    · exact h.trans Forward.postSlot
    · exact h
  exact tail _ first

theorem Forward.emptyStock {l : Live} {c : Setup} {i : LaneId} : Forward l (l.emptyStock c i) := by
  unfold Live.emptyStock
  generalize l.lanes[i].stock = stock
  refine (Examined.updLane (i := i)
    (f := fun x : Lane => { x with stock := [], late := false })).toForward.trans ?_
  generalize Live.updLane i (fun x : Lane => { x with stock := [], late := false }) l = l'
  induction stock generalizing l' with
  | nil => exact Forward.refl _
  | cons r rest ih => exact Forward.scrap.trans (ih _)

theorem Examined.completeHole {l : Live} {c : Setup} {o : Order} {code value : Nat} :
    Examined l (l.completeHole c o code value) := by
  unfold Live.completeHole
  split
  · exact Examined.refl _
  · dsimp only
    split <;> split
    · exact Examined.updHole.trans Examined.updHead
    · exact Examined.updHole
    · exact Examined.updHole.trans Examined.updHead
    · exact Examined.updHole

theorem Forward.countTool {l : Live} {s : SlotId} {tag : Nat} : Forward l (l.countTool s tag).1 := by
  unfold Live.countTool
  split
  · exact Forward.refl _
  · dsimp only
    split
    · exact Forward.updSlot.trans Forward.postSlot
    · exact Forward.updSlot

theorem Examined.issueLaneHeat {l : Live} {c : Setup} {i : LaneId} {s : SlotId} : Examined l (l.issueLaneHeat c i s) := by
  unfold Live.issueLaneHeat
  refine Examined.trans ?_ Examined.queue
  refine Examined.trans ?_ Examined.startStage
  exact Examined.openHeat.trans (Examined.updSlot fun _ => rfl)

theorem Forward.cadenceExpired {l : Live} {c : Setup} {i : LaneId} : Forward l (l.cadenceExpired c i) := by
  unfold Live.cadenceExpired
  refine (Examined.updLane (i := i)
    (f := fun x : Lane => { x with cadence := some (c.acted Timing.cadence) })).toForward.trans ?_
  dsimp only
  split
  · split
    · exact Examined.updLane.toForward
    · exact Examined.updLane.toForward.trans Forward.postSlot
  · split
    · exact Examined.issueLaneHeat.toForward
    · exact Forward.refl _
  · exact Forward.refl _

theorem Forward.slowStage {l : Live} {c : Setup} {s : SlotId} {g : TimedStage} : Forward l (l.slowStage c s g) := by
  unfold Live.slowStage
  exact Forward.postSlot.trans Forward.updSlot

theorem Forward.linkUp {l : Live} {c : Setup} {s : SlotId} : Forward l (l.linkUp c s) := by
  unfold Live.linkUp
  refine Forward.trans ?_ Examined.queueLamp.toForward
  exact Examined.updHead.toForward.trans Forward.updSlot

theorem Forward.lineByte {l : Live} {c : Setup} {s : SlotId} : Forward l (l.lineByte c s) := by
  unfold Live.lineByte
  split
  · exact Examined.updHead.toForward
  · exact Forward.linkUp

theorem Forward.headFrame {l : Live} {s : SlotId} {hs : Nat} : Forward l (l.headFrame s hs) :=
  Forward.of_same (by simp) (by simp) (by simp)

theorem Forward.acceptHeat {l : Live} {c : Setup} {s : SlotId} {i : LaneId} {h : Heat} {n : Option Nat} :
    Forward l (l.acceptHeat c s i h n) := by
  unfold Live.acceptHeat
  split
  · exact Examined.editHeat.toForward.trans Examined.startStage.toForward
  · exact Forward.refl _

theorem Forward.acceptOrder {l : Live} {c : Setup} {o : Order} {n : Option Nat} : Forward l (l.acceptOrder c o n) := by
  unfold Live.acceptOrder
  dsimp only
  refine Forward.trans ?_ Examined.startStage.toForward
  have first : Forward l ((l.dropRivetOf o).updOrder o.tag fun x =>
      { x with state := .running, rivet := x.rivet.map fun r => { r with whereabouts := .carried } }) :=
    Forward.trans Examined.dropRivetOf.toForward (Examined.toForward (Examined.updOrder (by intro; rfl)))
  refine first.trans ?_
  split
  · exact Examined.updLane.toForward
  · exact Forward.refl _

theorem Forward.forgetZone {l : Live} {z : ZoneId} : Forward l (l.forgetZone z) := Forward.updZone

end Live

namespace Taking

/-- The end of work on a slot. -/
theorem workEnds_examined (s : SlotId) (t : Taking) : Live.Examined t.live (t.workEnds s).live := by
  have h : Live.Examined t.live ((t.live.updSlot s fun x =>
      { x with work := .idle, timer := none, state := if x.state = .busy then .ready else x.state }).unqueue s
        HeadMsg.isAbort) := by
    refine Live.Examined.trans ?_ Live.Examined.unqueue
    exact Live.Examined.updSlot fun _ => rfl
  unfold workEnds
  dsimp only
  split <;> exact h

theorem narrow_examined (s : SlotId) (r : Run) (t : Taking) : Live.Examined t.live (t.narrow s r).live := by
  unfold narrow
  split
  · exact Live.Examined.setTravel
  · dsimp only
    split
    · exact Live.Examined.setHolding.trans Live.Examined.setTravel
    · rw [wakeRail_live]; exact Live.Examined.setHolding.trans Live.Examined.setTravel

theorem restoreTravel_examined (s : SlotId) (t : Taking) : Live.Examined t.live (t.restoreTravel s).live := by
  unfold restoreTravel
  split
  · exact Live.Examined.refl _
  · exact narrow_examined _ _ _

theorem freeHolding_examined (s : SlotId) (t : Taking) : Live.Examined t.live (t.freeHolding s).live := by
  unfold freeHolding
  dsimp only
  split
  · exact Live.Examined.setHolding.trans Live.Examined.setTravel
  · rw [wakeRail_live]; exact Live.Examined.setHolding.trans Live.Examined.setTravel

theorem returnUnits_examined (o : Order) (t : Taking) : Live.Examined t.live (t.returnUnits o).live := by
  unfold returnUnits
  split
  · exact Live.Examined.refl _
  · exact Live.Examined.of_same rfl rfl rfl rfl rfl rfl

theorem undoOperation_examined (c : Setup) (o : Order) (t : Taking) :
    Live.Examined t.live (t.undoOperation c o).live := by
  unfold undoOperation
  dsimp only
  refine Live.Examined.trans ?_ (returnUnits_examined o _)
  rw [on_live]
  refine Live.Examined.trans ?_ Live.Examined.endUnclamp
  refine Live.Examined.trans ?_ Live.Examined.endHeat
  refine Live.Examined.trans ?_ Live.Examined.releaseRivetOf
  split
  · exact Live.Examined.updHole
  · exact Live.Examined.refl _

theorem settleOrder_examined (c : Setup) (o : Order) (t : Taking) : Live.Examined t.live (t.settleOrder c o).live := by
  unfold settleOrder
  split
  · exact leave_examined _ _ _ _ _ _
  · split
    · exact withdraw_examined _ _ _ _
    · exact Live.Examined.updOrder fun _ => rfl

theorem undoUnsent_examined (c : Setup) (o : Order) (t : Taking) : Live.Examined t.live (t.undoUnsent c o).live := by
  unfold undoUnsent
  dsimp only
  split
  · refine Live.Examined.trans ?_ (restoreTravel_examined _ _)
    exact Live.Examined.unqueue
  · refine Live.Examined.trans ?_ (undoOperation_examined _ _ _)
    exact Live.Examined.unqueue

/-- An abort (R46, R47). -/
theorem abort_examined (c : Setup) (o : Order) (k : AbortCause) (t : Taking) :
    Live.Examined t.live (t.abort c o k).live := by
  unfold abort
  split
  · exact (undoUnsent_examined c o t).trans ((workEnds_examined _ _).trans (settleOrder_examined _ _ _))
  · rw [on_live]
    dsimp only
    refine Live.Examined.trans ?_ Live.Examined.startStage
    refine Live.Examined.trans ?_ Live.Examined.queue
    exact Live.Examined.updOrder fun _ => rfl

theorem abortAll_examined (c : Setup) (k : AbortCause) (tags : List Nat) (t : Taking) :
    Live.Examined t.live (t.abortAll c k tags).live := by
  unfold abortAll
  induction tags generalizing t with
  | nil => exact Live.Examined.refl _
  | cons tag rest ih =>
    refine Live.Examined.trans ?_ (ih _)
    dsimp only
    split
    · split
      · exact abort_examined _ _ _ _
      · exact Live.Examined.refl _
    · exact Live.Examined.refl _

theorem withdrawAll_examined (c : Setup) (k : DoneCause) (os : List Order) (t : Taking) :
    Live.Examined t.live (os.foldl (fun t o => t.withdraw c o k) t).live := by
  induction os generalizing t with
  | nil => exact Live.Examined.refl _
  | cons o rest ih => exact (withdraw_examined c o k t).trans (ih _)

theorem withdrawWaiting_examined (c : Setup) (s : SlotId) (p : Order → Bool) (k : DoneCause) (t : Taking) :
    Live.Examined t.live (t.withdrawWaiting c s p k).live := withdrawAll_examined c k _ t

theorem joinRivet_forward (c : Setup) (s : SlotId) (i : LaneId) (n : Nat) (t : Taking) :
    Live.Forward t.live (t.joinRivet c s i n).live := by
  unfold joinRivet
  split
  · exact Live.Forward.refl _
  · dsimp only
    split
    · rw [on_live, on_live]
      exact Live.Examined.updLane.toForward.trans (Live.Examined.queueDiscard.toForward.trans Live.Forward.postSlot)
    · rw [wakeGate_live, on_live, on_live]
      exact Live.Examined.updLane.toForward.trans Live.Examined.updLane.toForward

/-- A completion (R41). -/
theorem complete_forward (c : Setup) (o : Order) (code value : Nat) (heat : Option Nat) (t : Taking) :
    Live.Forward t.live (t.complete c o code value heat).live := by
  unfold complete
  dsimp only
  refine Live.Forward.trans ?_ (workEnds_examined _ _).toForward
  have first : Live.Forward t.live ((t.on fun l => (l.completeHole c o code value).dropRivetOf o).returnUnits o).live := by
    refine Live.Forward.trans ?_ (returnUnits_examined o _).toForward
    exact (Live.Examined.completeHole.trans Live.Examined.dropRivetOf).toForward
  have cutoff : ∀ (b : Bool) (u : Taking),
      Live.Forward u.live (if b = true then
        u.withdrawWaiting c o.slot (fun x => x.kind == .drill || x.kind == .ream) .toolSpent else u).live := by
    intro b u
    split
    · exact (withdrawWaiting_examined _ _ _ _ _).toForward
    · exact Live.Forward.refl _
  refine Live.Forward.trans ?_ (cutoff _ _)
  refine Live.Forward.trans ?_ (leave_examined _ _ _ _ _ _).toForward
  rw [on_live]
  refine Live.Forward.trans ?_ Live.Examined.endUnclamp.toForward
  refine first.trans ?_
  generalize (t.on fun l => (l.completeHole c o code value).dropRivetOf o).returnUnits o = u
  have second : Live.Forward u.live
      ({ u with live := (if o.kind = .drill ∨ o.kind = .ream then u.live.countTool o.slot o.tag
          else (u.live, false)).1 } : Taking).live := by
    dsimp only
    split
    · exact Live.Forward.countTool
    · exact Live.Forward.refl _
  have third : ∀ v : Taking, Live.Forward u.live v.live → Live.Forward u.live (match o.kind, o.target, heat with
      | .heat, .lane i, some n => v.joinRivet c o.slot i n
      | _, _, _ => v).live := by
    intro v h
    split
    · exact h.trans (joinRivet_forward _ _ _ _ _)
    · exact h
  exact third _ second

/-- The end of a touched operation (R49). -/
theorem endPartial_examined (c : Setup) (o : Order) (t : Taking) : Live.Examined t.live (t.endPartial c o).live := by
  unfold endPartial
  dsimp only
  refine Live.Examined.trans ?_ (leave_examined _ _ _ _ _ _)
  refine Live.Examined.trans ?_ (workEnds_examined _ _)
  refine Live.Examined.trans ?_ (returnUnits_examined _ _)
  rw [on_live]
  refine Live.Examined.trans ?_ Live.Examined.endUnclamp
  refine Live.Examined.trans ?_ Live.Examined.endHeat
  refine Live.Examined.trans ?_ Live.Examined.dropRivetOf
  split
  · exact Live.Examined.updHole
  · exact Live.Examined.refl _

/-- The order in flight of a lost slot (R52). -/
theorem loseOrder_forward (c : Setup) (o : Order) (k : LossCause) (code : Option Nat) (w : DoneCause) (t : Taking) :
    Live.Forward t.live (t.loseOrder c o k code w).live := by
  unfold loseOrder
  split
  · exact ((undoUnsent_examined c o t).trans (withdraw_examined _ _ _ _)).toForward
  · refine Live.Forward.trans ?_ (leave_examined _ _ _ _ _ _).toForward
    split
    · refine Live.Forward.trans ?_ (returnUnits_examined _ _).toForward
      rw [on_live]
      dsimp only
      refine Live.Forward.trans ?_ Live.Examined.endUnclamp.toForward
      refine Live.Forward.trans ?_ Live.Examined.dropRivetOf.toForward
      have first : Live.Forward t.live (match o.hole? with
          | some h => t.live.updHole h (Hole.uncertain o)
          | none => t.live) := by
        split
        · exact Live.Forward.updHole
        · exact Live.Forward.refl _
      have tail : ∀ l : Live, Live.Forward t.live l → Live.Forward t.live (match o.kind, o.target with
          | .heat, .lane i => l.failHeat o.slot i k code
          | _, _ => l) := by
        intro l h
        split
        · exact h.trans Live.Forward.failHeat
        · exact h
      exact tail _ first
    · exact Live.Examined.setTravel.toForward

/-- One forward update for each element of a list is forward. -/
theorem foldl_forward {α : Type} {f : Live → α → Live} (h : ∀ l x, Live.Forward l (f l x)) :
    ∀ (xs : List α) (l : Live), Live.Forward l (xs.foldl f l)
  | [], l => Live.Forward.refl l
  | x :: rest, l => (h l x).trans (foldl_forward h rest _)

theorem postClampLost_forward {l : Live} {s : SlotId} {zones : List ZoneId} : Live.Forward l (l.postClampLost s zones) :=
  foldl_forward (fun _ _ => Live.Forward.postSlot) _ _

theorem sweepZones_forward {l : Live} {c : Setup} {zones : List ZoneId} : Live.Forward l (l.sweepZones c zones) := by
  unfold Live.sweepZones
  split
  · exact foldl_forward (fun _ _ => Live.Forward.sweep) _ _
  · exact Live.Forward.refl _

theorem leftClamped_forward (c : Setup) (z : ZoneId) (b : Bool) (s : SlotId) (t : Taking) :
    Live.Forward t.live (t.leftClamped c z b s).live := by
  unfold leftClamped
  dsimp only
  rw [wakeGate_live]
  refine Live.Forward.trans (b := (t.on (Live.sweepZones c [z])).live) sweepZones_forward ?_
  split
  · exact Live.Forward.refl _
  · rw [on_live]
    exact (abortAll_examined c .clampLost _ (t.on (Live.sweepZones c [z]))).toForward.trans postClampLost_forward

/-- A clamp report (R103). -/
theorem zoneReport_forward (c : Setup) (z : ZoneId) (s : SlotId) (x : ZoneState) (t : Taking) :
    Live.Forward t.live (t.zoneReport c z s x).live := by
  unfold zoneReport
  dsimp only
  split
  · exact Live.Forward.refl _
  · split
    · refine Live.Forward.trans ?_ (leftClamped_forward _ _ _ _ _)
      exact Live.Forward.updZone
    · exact Live.Forward.updZone

/-- The zones of a lost module (R109). -/
theorem zonesGone_forward {l : Live} {c : Setup} {zones : List (ZoneId × Zone)} : Live.Forward l (l.zonesGone c zones) :=
  Live.Forward.trans (foldl_forward (fun _ _ => Live.Forward.updZone) _ _) sweepZones_forward

/-- Where the lost slot's own order in flight went first, the others go in the order of arrival (R44). -/
theorem lossOrder_own {l : Live} {c : Setup} {s : SlotId} {zones : List ZoneId} :
    (l.lossOrder c s zones true).Sublist (l.pool.map Order.tag) :=
  List.filter_sublist.map _

/-- In every case one order at most goes ahead of its turn: one in flight (R44). -/
theorem lossOrder_first {l : Live} {c : Setup} {s : SlotId} {zones : List ZoneId} {b : Bool} :
    (l.lossOrder c s zones b).Sublist (l.pool.map Order.tag)
      ∨ ∃ tag ∈ l.workOfZones c zones, (l.lossOrder c s zones b).Sublist (tag :: l.pool.map Order.tag) := by
  unfold Live.lossOrder
  dsimp only
  split
  · next o e =>
    refine .inr ⟨o.tag, ?_, (List.filter_sublist.trans (List.filter_sublist.map _)).cons_cons _⟩
    cases b with
    | true => simp at e
    | false =>
      have h := List.find?_some e
      simp only [Bool.and_eq_true, List.contains_iff_mem] at h
      exact h.1
  · exact .inl (List.filter_sublist.map _)

theorem loseOrders_examined (c : Setup) (s : SlotId) (k : DoneCause) (tags : List Nat) (t : Taking) :
    Live.Examined t.live (t.loseOrders c s k tags).live := by
  unfold loseOrders
  induction tags generalizing t with
  | nil => exact Live.Examined.refl _
  | cons tag rest ih =>
    refine Live.Examined.trans ?_ (ih _)
    dsimp only
    split
    · split
      · exact withdraw_examined _ _ _ _
      · split
        · exact abort_examined _ _ _ _
        · exact Live.Examined.refl _
    · exact Live.Examined.refl _

/-- The orders of a lost slot and of its zones (R53, R108). -/
theorem ordersLost_forward (c : Setup) (s : SlotId) (zones : List (ZoneId × Zone)) (k : DoneCause) (b : Bool) (t : Taking) :
    Live.Forward t.live (t.ordersLost c s zones k b).live := by
  unfold ordersLost
  dsimp only
  refine Live.Forward.trans ?_ (loseOrders_examined _ _ _ _ _).toForward
  exact zonesGone_forward

/-- The loss of a module (R109). -/
theorem moduleLost_forward (s : SlotId) (zones : List (ZoneId × Zone)) (t : Taking) :
    Live.Forward t.live (t.moduleLost s zones).live := by
  unfold moduleLost
  dsimp only
  split
  · rw [wakeGate_live]; exact postClampLost_forward
  · exact postClampLost_forward

theorem stopHeat_examined (c : Setup) (i : LaneId) (t : Taking) : Live.Examined t.live (t.stopHeat c i).live := by
  unfold stopHeat
  split
  · exact Live.Examined.refl _
  · split
    · exact Live.Examined.refl _
    · split
      · refine Live.Examined.trans ?_ (workEnds_examined _ _)
        exact Live.Examined.unqueue.trans Live.Examined.closeHeat
      · rw [on_live]
        exact Live.Examined.editHeat.trans (Live.Examined.queue.trans Live.Examined.startStage)

theorem loseWork_forward (c : Setup) (s : SlotId) (w : Work) (k : LossCause) (code : Option Nat) (d : DoneCause)
    (t : Taking) : Live.Forward t.live (t.loseWork c s w k code d).live := by
  unfold loseWork
  split
  · exact Live.Forward.refl _
  · exact Live.Forward.loseHeat
  · split
    · exact Live.Forward.refl _
    · exact loseOrder_forward _ _ _ _ _ _

/-- A slot faults (R129). -/
theorem fault_forward (c : Setup) (s : SlotId) (k : LossCause) (code : Option Nat) (t : Taking) :
    Live.Forward t.live (t.fault c s k code).live := by
  unfold fault
  dsimp only
  split
  · exact Live.Forward.refl _
  · rw [on_live]
    refine Live.Forward.trans ?_ (Live.Forward.syncLamp.trans Live.Forward.postSlot)
    refine Live.Forward.trans ?_ (moduleLost_forward _ _ _)
    rw [on_live]
    refine Live.Forward.trans ?_
      (Live.Examined.unqueue.trans (Live.Examined.setTravel.trans Live.Examined.heaterLost)).toForward
    refine Live.Forward.trans ?_ (ordersLost_forward _ _ _ _ _ _)
    refine Live.Forward.trans ?_ (loseWork_forward _ _ _ _ _ _ _)
    exact Live.Forward.updSlot

/-- A link goes down (R127). -/
theorem linkLost_forward (c : Setup) (s : SlotId) (t : Taking) : Live.Forward t.live (t.linkLost c s).live := by
  unfold linkLost
  dsimp only
  split
  · exact Live.Examined.updHead.toForward
  · have tail : ∀ (u : Taking), Live.Forward t.live u.live →
        ∀ (d : Detail), Live.Forward t.live (if t.live.slots[s].state = .released then u
          else u.on (Live.postSlot s .linkLost d)).live := by
      intro u h d
      split
      · exact h
      · exact h.trans Live.Forward.postSlot
    refine tail _ ?_ _
    rw [on_live]
    refine Live.Forward.trans ?_ Live.Forward.updSlot
    refine Live.Forward.trans ?_ (moduleLost_forward _ _ _)
    rw [on_live]
    refine Live.Forward.trans ?_ Live.Examined.heaterLost.toForward
    refine Live.Forward.trans ?_ (freeHolding_examined _ _).toForward
    rw [on_live]
    refine Live.Forward.trans ?_ Live.Examined.updHead.toForward
    refine Live.Forward.trans ?_ (ordersLost_forward _ _ _ _ _ _)
    refine Live.Forward.trans ?_ (loseWork_forward _ _ _ _ _ _ _)
    exact Live.Forward.updSlot

theorem leaving_forward (c : Setup) (s : SlotId) (t : Taking) : Live.Forward t.live (t.leaving c s).live := by
  unfold leaving
  dsimp only
  rw [on_live]
  refine Live.Forward.trans ?_ (Live.Forward.syncLamp.trans Live.Forward.postSlot)
  refine Live.Forward.trans ?_ (withdrawWaiting_examined _ _ _ _ _).toForward
  exact Live.Forward.updSlot

theorem leverOpened_forward (c : Setup) (s : SlotId) (t : Taking) : Live.Forward t.live (t.leverOpened c s).live := by
  have first : Live.Forward t.live (t.on fun l => l.updSlot s fun x => { x with lever := .opened }).live :=
    Live.Forward.updSlot
  unfold leverOpened
  dsimp only
  split
  · split
    · exact first.trans (leaving_forward _ _ _)
    · exact first.trans Live.Forward.updSlot
  · exact first

theorem leverShut_forward (c : Setup) (s : SlotId) (t : Taking) : Live.Forward t.live (t.leverShut c s).live := by
  have first : Live.Forward t.live (t.on fun l => l.updSlot s fun x => { x with lever := .closed }).live :=
    Live.Forward.updSlot
  have back : ∀ (u : Taking) (st : SlotState),
      Live.Forward u.live (u.on fun l => (l.updSlot s fun x => { x with state := st }).syncLamp c s).live :=
    fun u st => Live.Forward.updSlot.trans Live.Forward.syncLamp
  unfold leverShut
  dsimp only
  split
  · exact first.trans Live.Forward.updSlot
  · exact first.trans Live.Forward.updSlot
  · refine first.trans ?_
    split
    · rw [if_pos rfl, wakeGate_live]; exact back _ _
    · rw [if_neg (by simp)]; exact back _ _
  · refine first.trans ?_
    split
    · rw [if_pos rfl, wakeGate_live]; exact back _ _
    · rw [if_neg (by simp)]; exact back _ _
  · exact first

theorem placeHead_examined (s : SlotId) (d : Declared) (t : Taking) : Live.Examined t.live (t.placeHead s d).live := by
  unfold placeHead
  split
  · dsimp only
    split
    · split
      · exact Live.Examined.setHolding
      · rw [wakeRail_live]; exact Live.Examined.setHolding
    · exact Live.Examined.setHolding
  · dsimp only
    split
    · split
      · exact Live.Examined.setHolding
      · rw [wakeRail_live]; exact Live.Examined.setHolding
    · exact Live.Examined.setHolding
  · exact Live.Examined.refl _

/-- An accepted HELLO (R118). -/
theorem welcome_forward (c : Setup) (s : SlotId) (n : Nat) (d : Declared) (x : Option Tool) (t : Taking) :
    Live.Forward t.live (t.welcome c s n d x).live := by
  unfold welcome
  dsimp only
  have tail : ∀ (u : Taking), Live.Forward t.live u.live → Live.Forward t.live (match x with
      | some y => if y.spent = true then u.on (Live.postSlot s .toolSpent .none) else u
      | none => u).live := by
    intro u h
    split
    · split
      · exact h.trans Live.Forward.postSlot
      · exact h
    · exact h
  refine tail _ ?_
  rw [wakeGate_live]
  have lever : ∀ (u : Taking), Live.Forward t.live u.live →
      Live.Forward t.live (if u.live.slots[s].lever = .opened then u.leverOpened c s else u).live := by
    intro u h
    split
    · exact h.trans (leverOpened_forward _ _ _)
    · exact h
  refine lever _ ?_
  rw [on_live, on_live]
  refine Live.Forward.trans ?_ (Live.Examined.queueJoin.toForward.trans Live.Forward.syncLamp)
  refine Live.Forward.trans ?_ Live.Forward.updSlot
  refine Live.Forward.trans ?_ (placeHead_examined _ _ _).toForward
  exact Live.Forward.updSlot

theorem starve_forward (r : Rail) (q : Request) (t : Taking) : Live.Forward t.live (t.starve r q).live := by
  unfold starve
  rw [wakeRail_live, on_live]
  exact Live.Examined.setRequests.toForward.trans Live.Forward.postSlot

theorem rivetCold_examined (c : Setup) (tag : Nat) (t : Taking) : Live.Examined t.live (t.rivetCold c tag).live := by
  have first : Live.Examined t.live (t.on (Live.updOrder tag Order.goesCold)).live := Live.Examined.updOrder fun _ => rfl
  unfold rivetCold
  dsimp only
  split
  · exact first
  · split
    · exact first.trans (abort_examined _ _ _ _)
    · exact first

end Taking

end Sys2Proof.Machine
end

