-- ==== Sys2Proof/Laws/Envelope.lean ====
section
/-! SUPPORT. The three envelopes a command goes through: every way a message, a report or an event can come out of its
envelope, and the conditions under which it reaches the block that takes it. -/

namespace Sys2Proof.Machine

/-- What a cell message comes to: nothing, a frame discarded, a refusal, or what `take` does with it. -/
theorem cellMessage_ends (form : ReplyForm) (h : Header) (exempt selOk lenOk lockable : Bool) (take : State → State)
    (s : State) :
    ∃ t, cellMessage form h exempt selOk lenOk lockable take s = .next t
      ∧ (t = s ∨ t = { s with live := s.live.closeFrame } ∨ t = { s with live := s.live.closeFrame.cellError .overrun }
        ∨ (∃ b, t = ({ s with live := s.live.closeFrame } : State).place b)
        ∨ t = take { s with live := s.live.closeFrame }) := by
  unfold cellMessage
  dsimp only
  split
  · exact ⟨_, rfl, .inl rfl⟩
  · split
    · exact ⟨_, rfl, .inr (.inl rfl)⟩
    · split
      · exact ⟨_, rfl, .inr (.inr (.inl rfl))⟩
      · split
        · exact ⟨_, rfl, .inr (.inr (.inr (.inl ⟨_, rfl⟩)))⟩
        · split
          · exact ⟨_, rfl, .inr (.inr (.inr (.inl ⟨_, rfl⟩)))⟩
          · split
            · exact ⟨_, rfl, .inr (.inr (.inr (.inl ⟨_, rfl⟩)))⟩
            · split
              · exact ⟨_, rfl, .inr (.inr (.inr (.inl ⟨_, rfl⟩)))⟩
              · exact ⟨_, rfl, .inr (.inr (.inr (.inr rfl)))⟩

/-- A cell message that is weighed: the selector and the length, then the lockout, then `take`. -/
theorem cellMessage_weighed {form : ReplyForm} {h : Header} {exempt selOk lenOk lockable : Bool} {take : State → State}
    {s : State} (held : s.setup.resetHeld = false) (restart : s.setup.restart = .idle)
    (holdoff : s.live.cell.underHoldoff = false) (preload : s.setup.preload ≠ .running) :
    cellMessage form h exempt selOk lenOk lockable take s =
      .next (if selOk = false ∨ lenOk = false then
          ({ s with live := s.live.closeFrame } : State).place (refusal form h.tag .badValue)
        else if lockable = true ∧ s.setup.lockout = true then
          ({ s with live := s.live.closeFrame } : State).place (refusal form h.tag .locked)
        else take { s with live := s.live.closeFrame }) := by
  unfold cellMessage
  cases selOk <;> cases lenOk <;> cases lockable <;> cases hl : s.setup.lockout <;> simp [held, restart, holdoff, preload, hl]

/-- What a head report comes to: nothing, a frame set aside, or what `take` does with it. -/
theorem headReport_ends (slot : SlotId) (hs : Nat) (take : State → State) (s : State) :
    ∃ t, headReport slot hs take s = .next t
      ∧ (t = s ∨ t = { s with live := (s.live.headFrame slot hs).headError slot .protocol }
        ∨ t = take { s with live := s.live.headFrame slot hs }) := by
  unfold headReport
  dsimp only
  split
  · exact ⟨_, rfl, .inl rfl⟩
  · split
    · exact ⟨_, rfl, .inr (.inl rfl)⟩
    · exact ⟨_, rfl, .inr (.inr rfl)⟩

/-- A head report from a slot that is not EMPTY reaches its block. -/
theorem headReport_taken {slot : SlotId} {hs : Nat} {take : State → State} {s : State}
    (held : s.setup.resetHeld = false) (joined : s.live.slots[slot].state ≠ .empty) :
    headReport slot hs take s = .next (take { s with live := s.live.headFrame slot hs }) := by
  unfold headReport
  dsimp only
  rw [if_neg (by simp [held]), Live.headFrame_slots, if_neg joined]

/-- What an event comes to. -/
theorem event_ends (take : State → State) (s : State) : ∃ t, event take s = .next t ∧ (t = s ∨ t = take s) := by
  unfold event
  split
  · exact ⟨_, rfl, .inl rfl⟩
  · exact ⟨_, rfl, .inr rfl⟩

/-- An event is taken while the reset pin is not held. -/
theorem event_taken {take : State → State} {s : State} (held : s.setup.resetHeld = false) :
    event take s = .next (take s) := by simp [event, held]

end Sys2Proof.Machine
end

