-- ==== Sys2Proof/Laws/Rails.lean ====
section
/-!
SUPPORT. What a rail examination leaves alone (it grants travels and does nothing else), the examination of an empty pool,
and the sweep of a claim.
-/

namespace Sys2Proof.Machine

namespace Live

/-- A fold of weighings keeps whatever one grant keeps. -/
theorem examineRail_keeps {α : Type} (f : Live → α) (h : ∀ (c : Setup) (r : Rail) (q : Request) (v : Run) (l : Live),
    f (l.grant c r q v) = f l) (c : Setup) (r : Rail) (l : Live) : f (l.examineRail c r) = f l := by
  unfold Live.examineRail
  generalize l.requests r = qs
  have step : ∀ (p : Live × List Run) (q : Request), f (weighRequest c r p q).1 = f p.1 := by
    intro p q
    unfold weighRequest
    split
    · rfl
    · split
      · exact h _ _ _ _ _
      · rfl
  have : ∀ p : Live × List Run, f (qs.foldl (weighRequest c r) p).1 = f p.1 := by
    induction qs with
    | nil => exact fun p => rfl
    | cons q rest ih => exact fun p => (ih _).trans (step p q)
  exact this (l, [])

@[simp] theorem examineRail_slow (c : Setup) (r : Rail) (l : Live) : (l.examineRail c r).slow = l.slow :=
  examineRail_keeps Live.slow (by simp) c r l
@[simp] theorem examineRail_holes (c : Setup) (r : Rail) (l : Live) : (l.examineRail c r).holes = l.holes :=
  examineRail_keeps Live.holes (by simp) c r l
@[simp] theorem examineRail_unitsInUse (c : Setup) (r : Rail) (l : Live) :
    (l.examineRail c r).unitsInUse = l.unitsInUse := examineRail_keeps Live.unitsInUse (by simp) c r l
@[simp] theorem examineRail_zones (c : Setup) (r : Rail) (l : Live) : (l.examineRail c r).zones = l.zones :=
  examineRail_keeps Live.zones (by simp) c r l
@[simp] theorem examineRail_notices (c : Setup) (r : Rail) (l : Live) : (l.examineRail c r).notices = l.notices :=
  examineRail_keeps Live.notices (by simp) c r l
@[simp] theorem examineRail_cell (c : Setup) (r : Rail) (l : Live) : (l.examineRail c r).cell = l.cell :=
  examineRail_keeps Live.cell (by simp) c r l

end Live

namespace Taking

theorem settleRails_keeps {α : Type} (f : Live → α) (h : ∀ (c : Setup) (r : Rail) (l : Live),
    f (l.examineRail c r) = f l) (c : Setup) (t : Taking) : f (t.settleRails c).live = f t.live := by
  unfold settleRails
  dsimp only
  split <;> split <;> simp [h]

@[simp] theorem settleRails_slow (c : Setup) (t : Taking) : (t.settleRails c).live.slow = t.live.slow :=
  settleRails_keeps Live.slow (by simp) c t
@[simp] theorem settleRails_holes (c : Setup) (t : Taking) : (t.settleRails c).live.holes = t.live.holes :=
  settleRails_keeps Live.holes (by simp) c t
@[simp] theorem settleRails_unitsInUse (c : Setup) (t : Taking) :
    (t.settleRails c).live.unitsInUse = t.live.unitsInUse := settleRails_keeps Live.unitsInUse (by simp) c t
@[simp] theorem settleRails_zones (c : Setup) (t : Taking) : (t.settleRails c).live.zones = t.live.zones :=
  settleRails_keeps Live.zones (by simp) c t
@[simp] theorem settleRails_notices (c : Setup) (t : Taking) : (t.settleRails c).live.notices = t.live.notices :=
  settleRails_keeps Live.notices (by simp) c t
@[simp] theorem settleRails_cell (c : Setup) (t : Taking) : (t.settleRails c).live.cell = t.live.cell :=
  settleRails_keeps Live.cell (by simp) c t

@[simp] theorem settleRails_held (c : Setup) (t : Taking) : (t.settleRails c).held = t.held := rfl
@[simp] theorem settleRails_holdDones (c : Setup) (t : Taking) : (t.settleRails c).holdDones = t.holdDones := rfl

/-- No rail due, no rail examined. -/
theorem settleRails_idle {c : Setup} {t : Taking} (a : t.railADue = false) (b : t.railBDue = false) :
    t.settleRails c = t := by
  unfold settleRails
  cases t
  simp_all

/-- Outside RUN and STANDBY no rail is examined (R63). -/
theorem settleRails_still {c : Setup} {t : Taking} (h : c.progresses = false) :
    (t.settleRails c).live = t.live := by
  unfold settleRails
  simp [h]

/-- The examination of an empty pool changes nothing. -/
theorem examine_empty {c : Setup} {t : Taking} (h : t.live.pool = []) : t.examine c = { t with gateDue := false } := by
  unfold examine
  rw [h]
  rfl

/-- With an empty pool the examinations of a taking are the rails'. -/
theorem settle_empty {c : Setup} {t : Taking} (h : t.live.pool = []) : (t.settle c).live = (t.settleRails c).live := by
  have e : (t.settleRails c).live.pool = [] := by
    have := (settleRails_examined c t).orders
    rw [h] at this
    simpa using this
  unfold settle
  dsimp only
  split
  · rw [examine_empty e]
  · rfl

/-- With nothing due, a taking ends as it stands, but for the cadence timers and what was held. -/
theorem settle_idle {c : Setup} {t : Taking} (g : t.gateDue = false) (a : t.railADue = false) (b : t.railBDue = false) :
    t.settle c = t := by
  unfold settle
  dsimp only
  rw [settleRails_idle a b, if_neg (by simp [g])]

/-- With nothing held, flushing does nothing to the live state. -/
theorem flush_nothing {c : Setup} {t : Taking} (h : t.held = []) : (t.flush c).live = t.live := by
  unfold flush
  simp [h]

end Taking

end Sys2Proof.Machine
end

