-- ==== Sys2Proof/Laws/Leaving.lean ====
section
/-!
SUPPORT. What an order's leaving does (R44): the pool without it, its claim gone, its ORDER DONE placed or held, and every
other field as before.
-/

namespace Sys2Proof.Machine

namespace Taking

section

variable (c : Setup) (o : Order) (x : OrderOutcome) (y : Option DoneCause) (n : Option Nat) (t : Taking)

@[simp] theorem placeDone_holes (d : OrderDone) : (t.placeDone c d).live.holes = t.live.holes := by
  unfold placeDone; split <;> rfl
@[simp] theorem placeDone_holdings (d : OrderDone) : (t.placeDone c d).live.holdings = t.live.holdings := by
  unfold placeDone; split <;> rfl
@[simp] theorem placeDone_travels (d : OrderDone) : (t.placeDone c d).live.travels = t.live.travels := by
  unfold placeDone; split <;> rfl
@[simp] theorem placeDone_unitsInUse (d : OrderDone) : (t.placeDone c d).live.unitsInUse = t.live.unitsInUse := by
  unfold placeDone; split <;> rfl
@[simp] theorem placeDone_lanes (d : OrderDone) : (t.placeDone c d).live.lanes = t.live.lanes := by
  unfold placeDone; split <;> rfl
@[simp] theorem placeDone_zones (d : OrderDone) : (t.placeDone c d).live.zones = t.live.zones := by
  unfold placeDone; split <;> rfl
@[simp] theorem placeDone_slots (d : OrderDone) : (t.placeDone c d).live.slots = t.live.slots := by
  unfold placeDone; split <;> rfl
@[simp] theorem placeDone_notices (d : OrderDone) : (t.placeDone c d).live.notices = t.live.notices := by
  unfold placeDone; split <;> rfl
@[simp] theorem placeDone_heads (d : OrderDone) : (t.placeDone c d).live.heads = t.live.heads := by
  unfold placeDone; split <;> rfl
@[simp] theorem placeDone_pool (d : OrderDone) : (t.placeDone c d).live.pool = t.live.pool := by
  unfold placeDone; split <;> rfl
@[simp] theorem placeDone_slow (d : OrderDone) : (t.placeDone c d).live.slow = t.live.slow := by
  unfold placeDone; split <;> rfl
@[simp] theorem placeDone_requestsA (d : OrderDone) : (t.placeDone c d).live.requestsA = t.live.requestsA := by
  unfold placeDone; split <;> rfl
@[simp] theorem placeDone_requestsB (d : OrderDone) : (t.placeDone c d).live.requestsB = t.live.requestsB := by
  unfold placeDone; split <;> rfl
@[simp] theorem placeDone_holdDones (d : OrderDone) : (t.placeDone c d).holdDones = t.holdDones := by
  unfold placeDone; split <;> rfl

@[simp] theorem leave_holes : (t.leave c o x y n).live.holes = t.live.holes := by
  simp [leave, withdrawClaim]
@[simp] theorem leave_holdings : (t.leave c o x y n).live.holdings = t.live.holdings := by
  simp [leave, withdrawClaim]
@[simp] theorem leave_travels : (t.leave c o x y n).live.travels = t.live.travels := by
  simp [leave, withdrawClaim]
@[simp] theorem leave_unitsInUse : (t.leave c o x y n).live.unitsInUse = t.live.unitsInUse := by
  simp [leave, withdrawClaim]
@[simp] theorem leave_lanes : (t.leave c o x y n).live.lanes = t.live.lanes := by
  simp [leave, withdrawClaim]
@[simp] theorem leave_zones : (t.leave c o x y n).live.zones = t.live.zones := by
  simp [leave, withdrawClaim]
@[simp] theorem leave_slots : (t.leave c o x y n).live.slots = t.live.slots := by
  simp [leave, withdrawClaim]
@[simp] theorem leave_notices : (t.leave c o x y n).live.notices = t.live.notices := by
  simp [leave, withdrawClaim]
@[simp] theorem leave_heads : (t.leave c o x y n).live.heads = t.live.heads := by
  simp [leave, withdrawClaim]

/-- The pool without the order. -/
@[simp] theorem leave_pool : (t.leave c o x y n).live.pool = t.live.pool.filter (fun z => z.tag != o.tag) := by
  simp [leave, withdrawClaim]

@[simp] theorem leave_requestsA :
    (t.leave c o x y n).live.requestsA = t.live.requestsA.filter (fun q => q.tag != o.tag) := by
  simp [leave, withdrawClaim]

@[simp] theorem leave_requestsB :
    (t.leave c o x y n).live.requestsB = t.live.requestsB.filter (fun q => q.tag != o.tag) := by
  simp [leave, withdrawClaim]

@[simp] theorem leave_gateDue : (t.leave c o x y n).gateDue = true := rfl

@[simp] theorem leave_holdDones : (t.leave c o x y n).holdDones = t.holdDones := by simp [leave, withdrawClaim]

/-- The ORDER DONE reads the hole as it stands, which nothing of the leaving changes. -/
theorem orderDoneOf_congr {l l' : Live} (h : l'.holes = l.holes) : orderDoneOf l' o x y n = orderDoneOf l o x y n := by
  unfold orderDoneOf Live.hole?
  rw [h]

/-- An order that leaves is in the pool no more. -/
theorem leave_order? : (t.leave c o x y n).live.order? o.tag = none := by
  unfold Live.order?
  rw [leave_pool, List.find?_eq_none]
  intro z hz
  simp at hz
  simp [hz.2]

/-- An order that leaves takes its claim with it. -/
theorem leave_request? : (t.leave c o x y n).live.request? o.tag = none := by
  unfold Live.request?
  rw [leave_requestsA, leave_requestsB, List.find?_eq_none]
  intro q hq
  simp at hq
  rcases hq with h | h <;> simp [h.2]

/-- The messages for the cell after a leaving whose ORDER DONE is placed at once. -/
theorem leave_bodies (h : t.holdDones = false) :
    (t.leave c o x y n).live.cell.bodies = t.live.cell.bodies ++ [.orderDone (orderDoneOf t.live o x y n)] := by
  have e : ∀ (u : Taking) (d : OrderDone), u.holdDones = false →
      (u.placeDone c d).live.cell.bodies = u.live.cell.bodies ++ [.orderDone d] := by
    intro u d hu
    unfold placeDone
    rw [hu]
    exact Live.place_bodies _ _ _
  unfold leave
  dsimp only
  rw [wakeGate_live, e _ _ (by simpa [withdrawClaim] using h)]
  rfl

/-- A leaving whose ORDER DONE is held for the reply. -/
theorem leave_held (h : t.holdDones = true) :
    (t.leave c o x y n).live.cell = t.live.cell
      ∧ (t.leave c o x y n).held = t.held ++ [.orderDone (orderDoneOf t.live o x y n)] := by
  have e : ∀ (u : Taking) (d : OrderDone), u.holdDones = true →
      (u.placeDone c d).live.cell = u.live.cell ∧ (u.placeDone c d).held = u.held ++ [.orderDone d] := by
    intro u d hu
    unfold placeDone
    rw [hu]
    exact ⟨rfl, rfl⟩
  unfold leave
  dsimp only
  exact e _ _ (by simpa [withdrawClaim] using h)

end

/-- Several withdrawals one after another: every field an order's leaving does not name is as before. -/
theorem withdrawAll_keeps {α : Type} (f : Live → α) (c : Setup) (k : DoneCause)
    (h : ∀ (o : Order) (t : Taking), f (t.withdraw c o k).live = f t.live) (os : List Order) (t : Taking) :
    f (os.foldl (fun t o => t.withdraw c o k) t).live = f t.live := by
  induction os generalizing t with
  | nil => rfl
  | cons o rest ih => rw [List.foldl_cons, ih, h]

theorem withdrawAll_holdDones (c : Setup) (k : DoneCause) (os : List Order) (t : Taking) :
    (os.foldl (fun t o => t.withdraw c o k) t).holdDones = t.holdDones := by
  induction os generalizing t with
  | nil => rfl
  | cons o rest ih => rw [List.foldl_cons, ih]; simp [withdraw]

/-- The pool after several withdrawals. -/
theorem withdrawAll_pool (c : Setup) (k : DoneCause) (os : List Order) (t : Taking) :
    (os.foldl (fun t o => t.withdraw c o k) t).live.pool =
      t.live.pool.filter fun z => os.all fun o => z.tag != o.tag := by
  induction os generalizing t with
  | nil => simp
  | cons o rest ih =>
    rw [List.foldl_cons, ih]
    simp only [withdraw, leave_pool, List.filter_filter, List.all_cons]
    congr 1
    funext z
    exact Bool.and_comm _ _

/-- Orders withdrawn are in the pool no more. -/
theorem withdrawAll_order? (c : Setup) (k : DoneCause) (os : List Order) (t : Taking) {o : Order} (h : o ∈ os) :
    (os.foldl (fun t o => t.withdraw c o k) t).live.order? o.tag = none := by
  unfold Live.order?
  rw [withdrawAll_pool, List.find?_eq_none]
  intro z hz
  simp only [List.mem_filter, List.all_eq_true, bne_iff_ne, ne_eq] at hz
  simpa using hz.2 o h

/-- The claims on rail A after several withdrawals. -/
theorem withdrawAll_requestsA (c : Setup) (k : DoneCause) (os : List Order) (t : Taking) :
    (os.foldl (fun t o => t.withdraw c o k) t).live.requestsA =
      t.live.requestsA.filter fun q => os.all fun o => q.tag != o.tag := by
  induction os generalizing t with
  | nil => simp
  | cons o rest ih =>
    rw [List.foldl_cons, ih]
    simp only [withdraw, leave_requestsA, List.filter_filter, List.all_cons]
    congr 1
    funext q
    exact Bool.and_comm _ _

/-- The claims on rail B after several withdrawals. -/
theorem withdrawAll_requestsB (c : Setup) (k : DoneCause) (os : List Order) (t : Taking) :
    (os.foldl (fun t o => t.withdraw c o k) t).live.requestsB =
      t.live.requestsB.filter fun q => os.all fun o => q.tag != o.tag := by
  induction os generalizing t with
  | nil => simp
  | cons o rest ih =>
    rw [List.foldl_cons, ih]
    simp only [withdraw, leave_requestsB, List.filter_filter, List.all_cons]
    congr 1
    funext q
    exact Bool.and_comm _ _

/-- Orders withdrawn take their claims with them (R61). -/
theorem withdrawAll_request? (c : Setup) (k : DoneCause) (os : List Order) (t : Taking) {o : Order} (h : o ∈ os) :
    (os.foldl (fun t o => t.withdraw c o k) t).live.request? o.tag = none := by
  unfold Live.request?
  rw [withdrawAll_requestsA, withdrawAll_requestsB, List.find?_eq_none]
  intro q hq
  simp only [List.mem_append, List.mem_filter, List.all_eq_true, bne_iff_ne, ne_eq] at hq
  rcases hq with hq | hq <;> simpa using hq.2 o h

@[simp] theorem withdrawWaiting_heads (c : Setup) (s : SlotId) (p : Order → Bool) (k : DoneCause) (t : Taking) :
    (t.withdrawWaiting c s p k).live.heads = t.live.heads := withdrawAll_keeps Live.heads c k (by simp [withdraw]) _ t
@[simp] theorem withdrawWaiting_slots (c : Setup) (s : SlotId) (p : Order → Bool) (k : DoneCause) (t : Taking) :
    (t.withdrawWaiting c s p k).live.slots = t.live.slots := withdrawAll_keeps Live.slots c k (by simp [withdraw]) _ t
@[simp] theorem withdrawWaiting_notices (c : Setup) (s : SlotId) (p : Order → Bool) (k : DoneCause) (t : Taking) :
    (t.withdrawWaiting c s p k).live.notices = t.live.notices :=
  withdrawAll_keeps Live.notices c k (by simp [withdraw]) _ t

/-- The messages for the cell after several withdrawals. -/
theorem withdrawAll_bodies (c : Setup) (k : DoneCause) (os : List Order) (t : Taking) (h : t.holdDones = false) :
    (os.foldl (fun t o => t.withdraw c o k) t).live.cell.bodies =
      t.live.cell.bodies ++ os.map fun o => .orderDone (orderDoneOf t.live o .withdrawn (some k) none) := by
  induction os generalizing t with
  | nil => simp
  | cons o rest ih =>
    rw [List.foldl_cons, ih _ (by simp [withdraw, h])]
    have e : ∀ z, orderDoneOf (t.leave c o .withdrawn (some k) none).live z .withdrawn (some k) none =
        orderDoneOf t.live z .withdrawn (some k) none := fun z => orderDoneOf_congr _ _ _ _ (by simp)
    simp only [withdraw, e, leave_bodies c o _ _ _ t h, List.map_cons, List.append_assoc, List.cons_append, List.nil_append]

end Taking

end Sys2Proof.Machine
end

