-- ==== Sys2Proof/Laws/Losses.lean ====
section
/-!
SUPPORT. What a slot's LEAVING, its fault and its link down do to the head links: the outbound list and the transmission are
all that the ends of orders change of a head link, and only of the link of the order's own slot.
-/

namespace Sys2Proof.Machine

/-- What of a head link is neither its outbound list nor its transmission. -/
def HeadLink.line (k : HeadLink) : Bool × Option Nat × Receiver × HeadStatus := (k.up, k.silence, k.rx, k.status)

/-- At most the outbound lists and transmissions of the head links have changed, and not those of the slots `kept` holds of. -/
structure Live.LinesKept (kept : SlotId → Prop) (l l' : Live) : Prop where
  line : ∀ j : SlotId, l'.heads[j].line = l.heads[j].line
  other : ∀ j : SlotId, kept j → l'.heads[j] = l.heads[j]

namespace Live

/-- The head links after a transmission may have begun. -/
theorem beginHead_heads (c : Setup) (s : SlotId) (l : Live) : (l.beginHead c s).heads =
    match c.headHold, l.heads[s].sending, chooseHead l.heads[s].list with
    | none, none, some (m, rest) => vmod l.heads s fun k => { k with list := rest, sending := some m }
    | _, _, _ => l.heads := by
  unfold Live.beginHead
  split <;> simp_all

/-- What a queued message does to the head links depends on them alone. -/
theorem queue_heads_congr {c : Setup} {s : SlotId} {m : HeadMsg} {l l' : Live} (h : l'.heads = l.heads) :
    (l'.queue c s m).heads = (l.queue c s m).heads := by
  simp only [Live.queue, beginHead_heads, updHead_heads, h]

/-- A lamp queued depends on the slots and the head links alone. -/
theorem queueLamp_heads_congr {c : Setup} {s : SlotId} {l l' : Live} (h : l'.heads = l.heads) (k : l'.slots = l.slots) :
    (l'.queueLamp c s).heads = (l.queueLamp c s).heads := by
  unfold Live.queueLamp
  rw [k]
  exact queue_heads_congr (by simp [h])

/-- The lamp depends on the slots and the head links alone (R125). -/
theorem syncLamp_heads_congr {c : Setup} {s : SlotId} {l l' : Live} (h : l'.heads = l.heads) (k : l'.slots = l.slots) :
    (l'.syncLamp c s).heads = (l.syncLamp c s).heads := by
  unfold Live.syncLamp
  dsimp only
  rw [k]
  by_cases e : aspectOf l.slots[s].lamp l.slots[s].state = l.slots[s].aspect
  · rw [if_pos e, if_pos e, h]
  · rw [if_neg e, if_neg e]
    have a : (l'.updSlot s fun x => { x with aspect := aspectOf l.slots[s].lamp l.slots[s].state }).slots =
        (l.updSlot s fun x => { x with aspect := aspectOf l.slots[s].lamp l.slots[s].state }).slots := by simp [k]
    rw [a]
    by_cases f : (l.updSlot s fun x =>
        { x with aspect := aspectOf l.slots[s].lamp l.slots[s].state }).slots[s].state = .empty
    · rw [if_pos f, if_pos f]; exact h
    · rw [if_neg f, if_neg f]; exact queueLamp_heads_congr h a

/-- One head link after a transmission on it may have begun. -/
theorem beginHead_head (c : Setup) (s : SlotId) (l : Live) : (l.beginHead c s).heads[s] =
    match c.headHold, l.heads[s].sending, chooseHead l.heads[s].list with
    | none, none, some (m, rest) => { l.heads[s] with list := rest, sending := some m }
    | _, _, _ => l.heads[s] := by
  rw [beginHead_heads]
  split
  · exact vmod_get_self _ _ _
  · rfl

/-- What a link has to send after a message has been queued to it depends on what it had to send. -/
theorem queue_head {c : Setup} {s : SlotId} {m : HeadMsg} {l l' : Live} (h : l'.heads[s].list = l.heads[s].list)
    (k : l'.heads[s].sending = l.heads[s].sending) :
    (l'.queue c s m).heads[s].list = (l.queue c s m).heads[s].list
      ∧ (l'.queue c s m).heads[s].sending = (l.queue c s m).heads[s].sending := by
  have e : ∀ x : Live, (x.updHead s fun k => { k with list := k.list ++ [m] }).heads[s] =
      { x.heads[s] with list := x.heads[s].list ++ [m] } := fun x => vmod_get_self _ _ _
  unfold Live.queue
  rw [beginHead_head, beginHead_head, e, e]
  dsimp only
  rw [h, k]
  split <;> exact ⟨rfl, rfl⟩

/-- One slot's lamp depends on its setting, its state, its aspect and what its link has to send (R125). -/
theorem syncLamp_head {c : Setup} {s : SlotId} {l l' : Live} (h : l'.heads[s].list = l.heads[s].list)
    (k : l'.heads[s].sending = l.heads[s].sending) (lamp : l'.slots[s].lamp = l.slots[s].lamp)
    (state : l'.slots[s].state = l.slots[s].state) (aspect : l'.slots[s].aspect = l.slots[s].aspect) :
    (l'.syncLamp c s).heads[s].list = (l.syncLamp c s).heads[s].list
      ∧ (l'.syncLamp c s).heads[s].sending = (l.syncLamp c s).heads[s].sending := by
  have e : ∀ (x : Live) (a : Aspect), (x.updSlot s fun y => { y with aspect := a }).slots[s] =
      { x.slots[s] with aspect := a } := fun x a => vmod_get_self _ _ _
  have u : ∀ (x : Live) (a : Aspect),
      ((x.updSlot s fun y => { y with aspect := a }).unqueue s HeadMsg.isLamp).heads[s] =
        { x.heads[s] with list := x.heads[s].list.filter fun m => !m.isLamp } := fun x a => vmod_get_self _ _ _
  unfold Live.syncLamp
  dsimp only
  rw [lamp, state, aspect]
  by_cases f : aspectOf l.slots[s].lamp l.slots[s].state = l.slots[s].aspect
  · rw [if_pos f, if_pos f]; exact ⟨h, k⟩
  · rw [if_neg f, if_neg f, e, e]
    dsimp only
    rw [state]
    by_cases g : l.slots[s].state = .empty
    · rw [if_pos g, if_pos g]; exact ⟨h, k⟩
    · rw [if_neg g, if_neg g]
      unfold Live.queueLamp
      rw [e, e]
      apply queue_head
      · rw [u, u]; dsimp only; rw [h]
      · rw [u, u]; exact k

/-- The oldest message of a class was in the list, and so was what it leaves. -/
theorem takeClass_mem {k : Nat} {list rest : List HeadMsg} {x m : HeadMsg} (h : takeClass k list = some (x, rest))
    (hm : m ∈ rest) : m ∈ list := by
  induction list generalizing rest with
  | nil => cases h
  | cons y ys ih =>
    unfold takeClass at h
    split at h
    · cases h; exact List.mem_cons_of_mem _ hm
    · split at h
      · cases h
      · next e =>
        cases h
        rcases List.mem_cons.mp hm with hm | hm
        · exact hm ▸ List.mem_cons_self
        · exact List.mem_cons_of_mem _ (ih e hm)

theorem chooseHead_mem {list rest : List HeadMsg} {x m : HeadMsg} (h : chooseHead list = some (x, rest)) (hm : m ∈ rest) :
    m ∈ list := by
  unfold chooseHead at h
  split at h
  · next e => cases h; exact takeClass_mem e hm
  · split at h
    · next e => cases h; exact takeClass_mem e hm
    · exact takeClass_mem h hm

theorem takeClass_cls {k : Nat} {list rest : List HeadMsg} {x : HeadMsg} (h : takeClass k list = some (x, rest)) :
    x.cls = k := by
  induction list generalizing rest with
  | nil => cases h
  | cons y ys ih =>
    unfold takeClass at h
    split at h
    · next e => cases h; exact e
    · split at h
      · cases h
      · next e => cases h; exact ih e

/-- With a message of a class on the list one of it is found. -/
theorem takeClass_isSome {k : Nat} {list : List HeadMsg} {x : HeadMsg} (h : x ∈ list) (e : x.cls = k) :
    (takeClass k list).isSome = true := by
  induction list with
  | nil => cases h
  | cons y ys ih =>
    unfold takeClass
    split
    · rfl
    · next n =>
      rcases List.mem_cons.mp h with h | h
      · exact absurd (h ▸ e) n
      · have := ih h
        split
        · next q => rw [q] at this; cases this
        · rfl

/-- With a message of class 1 on the list one of class 1 is chosen (R176). -/
theorem chooseHead_first {list rest : List HeadMsg} {x m : HeadMsg} (h : x ∈ list) (e : x.cls = 1)
    (c : chooseHead list = some (m, rest)) : m.cls = 1 := by
  have s := takeClass_isSome h e
  unfold chooseHead at c
  split at c
  · next q => cases c; exact takeClass_cls q
  · next q => rw [q] at s; cases s

/-- A transmission of class 1 turns no mark to sent (R176). -/
theorem markSent_first {s : SlotId} {m : HeadMsg} {l : Live} (h : m.cls = 1) : l.markSent s m = l := by
  cases m <;> first | rfl | simp [HeadMsg.cls] at h

/-- A lamp queued changes no order. -/
@[simp] theorem queueLamp_pool (c : Setup) (s : SlotId) (l : Live) : (l.queueLamp c s).pool = l.pool := by
  unfold Live.queueLamp Live.queue Live.beginHead
  split
  · next m rest _ _ q =>
    have e : ∀ l' : Live, (l'.updHead s fun k => { k with list := k.list ++ [.lamp l.slots[s].aspect] }).heads[s] =
        { l'.heads[s] with list := l'.heads[s].list ++ [.lamp l.slots[s].aspect] } := fun _ => vmod_get_self _ _ _
    rw [e] at q
    rw [markSent_first (chooseHead_first (List.mem_append_right _ List.mem_cons_self) rfl q)]
    rfl
  · rfl

/-- Working out the lamp changes no order (R125). -/
@[simp] theorem syncLamp_pool (c : Setup) (s : SlotId) (l : Live) : (l.syncLamp c s).pool = l.pool := by
  unfold Live.syncLamp
  dsimp only
  split
  · rfl
  · split
    · rfl
    · rw [queueLamp_pool]; rfl

/-- What stands unsent after a message has been queued. -/
theorem queue_list {c : Setup} {s : SlotId} {m x : HeadMsg} {l : Live} (h : x ∈ (l.queue c s m).heads[s].list) :
    x ∈ l.heads[s].list ∨ x = m := by
  have e : (l.updHead s fun k => { k with list := k.list ++ [m] }).heads[s] =
      { l.heads[s] with list := l.heads[s].list ++ [m] } := vmod_get_self _ _ _
  unfold Live.queue at h
  rw [beginHead_head, e] at h
  split at h
  · next q => simpa using chooseHead_mem q h
  · simpa using h

/-- What stands unsent after the lamp has been worked out (R125). -/
theorem syncLamp_list {c : Setup} {s : SlotId} {x : HeadMsg} {l : Live} (h : x ∈ (l.syncLamp c s).heads[s].list) :
    x ∈ l.heads[s].list ∨ ∃ a, x = .lamp a := by
  unfold Live.syncLamp at h
  dsimp only at h
  split at h
  · exact .inl h
  · split at h
    · exact .inl h
    · unfold Live.queueLamp at h
      rcases queue_list h with h | h
      · have e : ∀ l : Live, (l.unqueue s HeadMsg.isLamp).heads[s] =
            { l.heads[s] with list := l.heads[s].list.filter fun m => !m.isLamp } := fun _ => vmod_get_self _ _ _
        rw [e] at h
        exact .inl (List.mem_filter.mp h).1
      · exact .inr ⟨_, h⟩

/-- The slots after the lamp has been worked out (R125). -/
theorem syncLamp_slots (c : Setup) (s : SlotId) (l : Live) :
    (l.syncLamp c s).slots = vmod l.slots s fun x => { x with aspect := aspectOf x.lamp x.state } := by
  unfold Live.syncLamp
  dsimp only
  split
  · rename_i h
    exact (vmod_id _ _ _ (by rw [h])).symm
  · split <;> simp [vmod, Live.queueLamp]

/-! ### The links that the ends of orders leave alone -/

theorem LinesKept.refl (p : SlotId → Prop) (l : Live) : LinesKept p l l := ⟨fun _ => rfl, fun _ _ => rfl⟩

theorem LinesKept.trans {p : SlotId → Prop} {a b c : Live} (h : LinesKept p a b) (k : LinesKept p b c) : LinesKept p a c :=
  ⟨fun j => (k.line j).trans (h.line j), fun j e => (k.other j e).trans (h.other j e)⟩

/-- A change of anything but the head links. -/
theorem LinesKept.of_heads {p : SlotId → Prop} {l l' : Live} (h : l'.heads = l.heads) : LinesKept p l l' :=
  ⟨fun j => by rw [h], fun j _ => by rw [h]⟩

/-- A change of one outbound list and its transmission. -/
theorem LinesKept.updHead {p : SlotId → Prop} {j : SlotId} {f : HeadLink → HeadLink} {l : Live}
    (h : ∀ k, (f k).line = k.line) (e : ¬ p j) : LinesKept p l (l.updHead j f) := by
  refine ⟨fun i => ?_, fun i hi => ?_⟩
  · rw [updHead_heads, vmod_get]
    split
    · next q => rw [h, q]
    · rfl
  · rw [updHead_heads, vmod_get_ne]
    intro q
    exact e (q ▸ hi)

theorem LinesKept.unqueue {p : SlotId → Prop} {j : SlotId} {q : HeadMsg → Bool} {l : Live} (e : ¬ p j) :
    LinesKept p l (l.unqueue j q) :=
  LinesKept.updHead (fun _ => rfl) e

theorem LinesKept.beginHead {p : SlotId → Prop} {j : SlotId} {c : Setup} {l : Live} (e : ¬ p j) :
    LinesKept p l (l.beginHead c j) := by
  unfold Live.beginHead
  split
  · next m rest _ _ _ =>
      refine LinesKept.trans (b := l.updHead j fun k => { k with list := rest, sending := some m }) ?_
        (LinesKept.of_heads (by simp))
      exact LinesKept.updHead (fun _ => rfl) e
  · exact LinesKept.refl _ _

theorem LinesKept.queue {p : SlotId → Prop} {j : SlotId} {m : HeadMsg} {c : Setup} {l : Live} (e : ¬ p j) :
    LinesKept p l (l.queue c j m) := by
  unfold Live.queue
  refine LinesKept.trans ?_ (LinesKept.beginHead e)
  exact LinesKept.updHead (fun _ => rfl) e

end Live

namespace Taking

open Live

variable {p : SlotId → Prop} {c : Setup} {t : Taking}

theorem workEnds_lines {s : SlotId} (e : ¬ p s) : LinesKept p t.live (t.workEnds s).live := by
  unfold workEnds
  dsimp only
  have h : LinesKept p t.live ((t.live.updSlot s fun x =>
      { x with work := .idle, timer := none, state := if x.state = .busy then .ready else x.state }).unqueue s
        HeadMsg.isAbort) := (LinesKept.of_heads (by simp)).trans (LinesKept.unqueue e)
  split <;> exact h

theorem narrow_heads {s : SlotId} {r : Run} : (t.narrow s r).live.heads = t.live.heads := by
  unfold narrow
  split
  · rfl
  · dsimp only
    split <;> simp

theorem restoreTravel_heads {s : SlotId} : (t.restoreTravel s).live.heads = t.live.heads := by
  unfold restoreTravel
  split
  · rfl
  · exact narrow_heads

theorem returnUnits_heads {o : Order} : (t.returnUnits o).live.heads = t.live.heads := by
  unfold returnUnits
  split <;> rfl

theorem undoOperation_heads {o : Order} : (t.undoOperation c o).live.heads = t.live.heads := by
  unfold undoOperation
  dsimp only
  rw [returnUnits_heads]
  split <;> simp

theorem undoUnsent_lines {o : Order} (e : ¬ p o.slot) : LinesKept p t.live (t.undoUnsent c o).live := by
  unfold undoUnsent
  dsimp only
  refine LinesKept.trans (b := t.live.unqueue o.slot fun m => m.cls == 3) (LinesKept.unqueue e) (LinesKept.of_heads ?_)
  split
  · exact restoreTravel_heads
  · exact undoOperation_heads

theorem settleOrder_heads {o : Order} : (t.settleOrder c o).live.heads = t.live.heads := by
  unfold settleOrder withdraw
  split
  · simp
  · split <;> simp

/-- An abort changes the link of the order's own slot alone (R46, R47). -/
theorem abort_lines {o : Order} {k : AbortCause} (e : ¬ p o.slot) : LinesKept p t.live (t.abort c o k).live := by
  unfold abort
  split
  · exact (undoUnsent_lines e).trans ((workEnds_lines e).trans (LinesKept.of_heads settleOrder_heads))
  · rw [on_live]
    dsimp only
    refine LinesKept.trans (b := t.live.updOrder o.tag fun x =>
      { x with state := .aborting, cause := some k, step := some o.stepNow }) (LinesKept.of_heads (by simp)) ?_
    exact LinesKept.trans (LinesKept.queue (c := c) (m := .abort o.tag) e) (LinesKept.of_heads (by simp))

/-- What the end of the slot's order in flight changes of its link: nothing, or with the message unsent every message of class
3 goes (R52, R47). -/
theorem loseOrder_heads {o : Order} {k : LossCause} {code : Option Nat} {w : DoneCause} :
    (t.loseOrder c o k code w).live.heads =
      if o.unsent then (t.live.unqueue o.slot fun m => m.cls == 3).heads else t.live.heads := by
  unfold loseOrder
  split
  · unfold withdraw undoUnsent
    dsimp only
    rw [leave_heads]
    split
    · exact restoreTravel_heads
    · exact undoOperation_heads
  · dsimp only
    rw [leave_heads]
    split
    · rw [returnUnits_heads]
      simp only [on_live, endUnclamp_heads, dropRivetOf_heads]
      split <;> split <;> simp
    · simp

/-! ### The orders that an abort may still find -/

/-- No order has become abortable: each that is, is one that was, of the same tag and slot. -/
def NoneAwakes (l l' : Live) : Prop :=
  ∀ o ∈ l'.pool, o.abortable = true → ∃ q ∈ l.pool, q.tag = o.tag ∧ q.slot = o.slot ∧ q.abortable = true

namespace NoneAwakes

theorem of_pool {l l' : Live} (h : l'.pool = l.pool) : NoneAwakes l l' := fun o ho a => ⟨o, h ▸ ho, rfl, rfl, a⟩

theorem trans {a b c : Live} (h : NoneAwakes a b) (k : NoneAwakes b c) : NoneAwakes a c := by
  intro o ho ha
  obtain ⟨q, hq, t, s, a⟩ := k o ho ha
  obtain ⟨r, hr, t', s', a'⟩ := h q hq a
  exact ⟨r, hr, t'.trans t, s'.trans s, a'⟩

/-- Orders that leave. -/
theorem filter {l l' : Live} {q : Order → Bool} (h : l'.pool = l.pool.filter q) : NoneAwakes l l' := by
  intro o ho a
  rw [h] at ho
  exact ⟨o, (List.mem_filter.mp ho).1, rfl, rfl, a⟩

/-- A change of the order of a tag. -/
theorem updOrder {l : Live} {tag : Nat} {f : Order → Order} (ht : ∀ o, (f o).tag = o.tag) (hs : ∀ o, (f o).slot = o.slot)
    (ha : ∀ o, (f o).abortable = true → o.abortable = true) : NoneAwakes l (l.updOrder tag f) := by
  intro o ho a
  rw [updOrder_pool, List.mem_map] at ho
  obtain ⟨q, hq, e⟩ := ho
  refine ⟨q, hq, ?_⟩
  split at e
  · subst e; exact ⟨(ht q).symm, (hs q).symm, ha q a⟩
  · subst e; exact ⟨rfl, rfl, a⟩

theorem queue {l : Live} {j : SlotId} {m : HeadMsg} : NoneAwakes l (l.queue c j m) := by
  unfold Live.queue
  refine (of_pool (l' := l.updHead j fun k => { k with list := k.list ++ [m] }) rfl).trans ?_
  generalize l.updHead j _ = l
  unfold Live.beginHead
  split
  · next m rest _ _ _ =>
    refine (of_pool (l' := l.updHead j fun k => { k with list := rest, sending := some m }) rfl).trans ?_
    unfold Live.markSent
    split
    · exact of_pool rfl
    · exact updOrder (fun _ => rfl) (fun _ => rfl) (fun _ h => h)
    · exact updOrder (fun _ => rfl) (fun _ => rfl) (fun _ h => h)
    · exact of_pool rfl
  · exact of_pool rfl

end NoneAwakes

theorem workEnds_pool {s : SlotId} : (t.workEnds s).live.pool = t.live.pool := by
  unfold workEnds
  dsimp only
  split <;> simp

theorem undoUnsent_pool {o : Order} : (t.undoUnsent c o).live.pool = t.live.pool := by
  unfold undoUnsent restoreTravel narrow undoOperation returnUnits
  dsimp only
  split
  · split
    · rfl
    · split
      · rfl
      · split <;> simp
  · split <;> split <;> simp

theorem abort_awakes {o : Order} {k : AbortCause} : NoneAwakes t.live (t.abort c o k).live := by
  unfold abort
  split
  · refine (NoneAwakes.of_pool (undoUnsent_pool (c := c) (o := o))).trans ?_
    refine (NoneAwakes.of_pool (workEnds_pool (s := o.slot))).trans ?_
    unfold settleOrder withdraw
    split
    · exact NoneAwakes.filter (leave_pool ..)
    · split
      · exact NoneAwakes.filter (leave_pool ..)
      · exact NoneAwakes.updOrder (fun _ => rfl) (fun _ => rfl) (fun _ h => by simp [Order.requeued, Order.abortable] at h)
  · rw [on_live]
    dsimp only
    refine NoneAwakes.trans (b := t.live.updOrder o.tag fun x =>
      { x with state := .aborting, cause := some k, step := some o.stepNow }) ?_ ?_
    · exact NoneAwakes.updOrder (fun _ => rfl) (fun _ => rfl) (fun _ h => by simp [Order.abortable] at h)
    · exact NoneAwakes.trans (NoneAwakes.queue (c := c) (j := o.slot) (m := .abort o.tag)) (NoneAwakes.of_pool (by simp))

/-- The orders that a loss ends or aborts change the links of their own slots alone (R53, R108). -/
theorem loseOrders_lines {s : SlotId} {k : DoneCause} {tags : List Nat}
    (h : ∀ o ∈ t.live.pool, o.tag ∈ tags → o.abortable = true → ¬ p o.slot) :
    LinesKept p t.live (t.loseOrders c s k tags).live := by
  unfold loseOrders
  induction tags generalizing t with
  | nil => exact LinesKept.refl _ _
  | cons tag rest ih =>
    rw [List.foldl_cons]
    have next : ∀ u : Taking, LinesKept p t.live u.live → NoneAwakes t.live u.live →
        LinesKept p t.live (rest.foldl (fun t tag =>
          match t.live.order? tag with
          | some o =>
            if o.slot = s ∧ o.state = .waiting then t.withdraw c o k
            else if o.abortable then t.abort c o .clampLost
            else t
          | none => t) u).live := by
      intro u a b
      refine a.trans (ih ?_)
      intro o ho ht ha
      obtain ⟨q, hq, e, f, g⟩ := b o ho ha
      exact f ▸ h q hq (List.mem_cons_of_mem _ (e ▸ ht)) g
    apply next
    · split
      · next o e =>
        have hm : o ∈ t.live.pool := List.mem_of_find?_eq_some e
        have ht : o.tag = tag := by simpa using List.find?_some e
        split
        · exact LinesKept.of_heads (leave_heads ..)
        · split
          · next a => exact abort_lines (h o hm (ht ▸ List.mem_cons_self) a)
          · exact LinesKept.refl _ _
      · exact LinesKept.refl _ _
    · split
      · split
        · exact NoneAwakes.filter (leave_pool ..)
        · split
          · exact abort_awakes
          · exact NoneAwakes.of_pool rfl
      · exact NoneAwakes.of_pool rfl

/-! ### The loss of a slot -/

theorem sweepZones_keeps {α : Type} (f : Live → α) (h : ∀ (l : Live) (z : ZoneId), f (l.sweep c z) = f l) (zones : List ZoneId)
    (l : Live) : f (l.sweepZones c zones) = f l := by
  unfold Live.sweepZones
  split
  · induction zones generalizing l with
    | nil => rfl
    | cons z rest ih => rw [List.foldl_cons, ih, h]
  · rfl

theorem zonesGone_keeps {α : Type} (f : Live → α) (h : ∀ (l : Live) (z : ZoneId), f (l.sweep c z) = f l)
    (k : ∀ (l : Live) (z : ZoneId) (g : Zone → Zone), f (l.updZone z g) = f l) (zones : List (ZoneId × Zone)) (l : Live) :
    f (l.zonesGone c zones) = f l := by
  unfold Live.zonesGone
  rw [sweepZones_keeps f h]
  generalize hz : zones = zs
  clear hz
  induction zs generalizing l with
  | nil => rfl
  | cons z rest ih => rw [List.foldl_cons, ih, k]

@[simp] theorem zonesGone_heads (zones : List (ZoneId × Zone)) (l : Live) : (l.zonesGone c zones).heads = l.heads :=
  zonesGone_keeps Live.heads (by simp) (by simp) zones l

@[simp] theorem zonesGone_pool (zones : List (ZoneId × Zone)) (l : Live) : (l.zonesGone c zones).pool = l.pool :=
  zonesGone_keeps Live.pool (by simp) (by simp) zones l

@[simp] theorem postClampLost_heads (s : SlotId) (zones : List ZoneId) (l : Live) :
    (l.postClampLost s zones).heads = l.heads := by
  unfold Live.postClampLost
  induction zones generalizing l with
  | nil => rfl
  | cons z rest ih => rw [List.foldl_cons, ih, postSlot_heads]

@[simp] theorem moduleLost_heads (s : SlotId) (zones : List (ZoneId × Zone)) :
    (t.moduleLost s zones).live.heads = t.live.heads := by
  unfold moduleLost
  dsimp only
  split <;> simp

@[simp] theorem freeHolding_heads (s : SlotId) : (t.freeHolding s).live.heads = t.live.heads := by
  unfold freeHolding
  dsimp only
  split <;> simp

/-- What the end of its work in flight changes of a lost slot's link: nothing, or every message of class 3 goes (R52, R90). -/
theorem loseWork_heads {s : SlotId} {w : Work} {k : LossCause} {code : Option Nat} {d : DoneCause} :
    ∃ b : Bool, (t.loseWork c s w k code d).live.heads = (t.live.unqueue s fun m => b && m.cls == 3).heads := by
  have same : t.live.heads = (t.live.unqueue s fun m => false && m.cls == 3).heads := by
    rw [unqueue_heads, vmod_id _ _ _ (by simp)]
  unfold loseWork
  split
  · exact ⟨false, same⟩
  · exact ⟨false, by rw [on_live, loseHeat_heads]; exact same⟩
  · next tag =>
    split
    · exact ⟨false, same⟩
    · next o e =>
      have hs : o.slot = s := by
        have := List.find?_some e
        simp only [Bool.and_eq_true, beq_iff_eq] at this
        exact this.2
      refine ⟨o.unsent, ?_⟩
      rw [loseOrder_heads]
      cases o.unsent with
      | true => rw [if_pos rfl, hs]; rfl
      | false => rw [if_neg (by simp)]; exact same

/-- The end of a lost slot's work takes no order out but its own. -/
theorem loseWork_pool {s : SlotId} {w : Work} {k : LossCause} {code : Option Nat} {d : DoneCause} :
    (t.loseWork c s w k code d).live.pool.Sublist t.live.pool := by
  unfold loseWork
  split
  · exact List.Sublist.refl _
  · rw [on_live, loseHeat_pool]
  · split
    · exact List.Sublist.refl _
    · next o e =>
      unfold loseOrder withdraw
      split
      · rw [leave_pool, undoUnsent_pool]
        exact List.filter_sublist
      · dsimp only
        rw [leave_pool]
        refine List.filter_sublist.trans ?_
        split
        · unfold returnUnits
          split <;> simp <;> split <;> split <;> simp
        · simp

/-- The orders that a loss takes: the slot's WAITING ones, and those at work in the zones that lose their clamp. -/
theorem mem_lossOrder {l : Live} {s : SlotId} {zones : List ZoneId} {b : Bool} {tag : Nat}
    (h : tag ∈ l.lossOrder c s zones b) :
    ∃ o ∈ l.pool, o.tag = tag ∧ (o.state = .waiting ∨ tag ∈ l.workOfZones c zones) := by
  have others : ∀ o, o ∈ (l.pool.filter fun o =>
      (o.slot == s && o.state == .waiting) || (l.workOfZones c zones).contains o.tag) →
      ∃ q ∈ l.pool, q.tag = o.tag ∧ (q.state = .waiting ∨ o.tag ∈ l.workOfZones c zones) := by
    intro o ho
    simp only [List.mem_filter, Bool.or_eq_true, Bool.and_eq_true, beq_iff_eq, List.contains_iff_mem] at ho
    exact ⟨o, ho.1, rfl, ho.2.imp And.right id⟩
  unfold Live.lossOrder at h
  dsimp only at h
  split at h
  · next o e =>
    split at e
    · cases e
    · rcases List.mem_cons.mp h with h | h
      · subst h
        exact others o (List.mem_of_find?_eq_some e)
      · obtain ⟨q, hq, rfl⟩ := List.mem_map.mp (List.mem_filter.mp h).1
        exact others q hq
  · obtain ⟨q, hq, rfl⟩ := List.mem_map.mp h
    exact others q hq

/-- The orders of a lost slot and of its zones change the links of other slots alone, where none of the slot's own is aborted
(R53, R108). -/
theorem ordersLost_lines {s : SlotId} {zones : List (ZoneId × Zone)} {k : DoneCause} {b : Bool}
    (unique : (t.live.pool.map Order.tag).Nodup)
    (apart : ∀ o ∈ t.live.pool, o.tag ∈ t.live.workOfZones c (clampLostOf zones) → ¬ p o.slot) :
    LinesKept p t.live (t.ordersLost c s zones k b).live := by
  unfold ordersLost
  dsimp only
  refine LinesKept.trans (b := t.live.zonesGone c zones) (LinesKept.of_heads (by simp)) ?_
  refine loseOrders_lines (t := t.on (Live.zonesGone c zones)) ?_
  intro o ho ht ha
  rw [on_live, zonesGone_pool] at ho
  obtain ⟨q, hq, e, h⟩ := mem_lossOrder ht
  rw [on_live, zonesGone_pool] at hq
  have same : q = o := List.inj_on_of_nodup_map unique hq ho e
  subst same
  refine apart q ho ?_
  rcases h with h | h
  · simp [Order.abortable, h] at ha
  · unfold Live.workOfZones at h ⊢
    rw [on_live, zonesGone_pool] at h
    exact h

theorem undoUnsent_slots {o : Order} : (t.undoUnsent c o).live.slots = t.live.slots := by
  unfold undoUnsent restoreTravel narrow undoOperation returnUnits
  dsimp only
  split
  · split
    · rfl
    · split
      · rfl
      · split <;> simp
  · split <;> split <;> simp

/-- An abort changes the state of no slot but a BUSY one (R46, R47). -/
theorem abort_state {o : Order} {k : AbortCause} {j : SlotId} (h : t.live.slots[j].state ≠ .busy) :
    (t.abort c o k).live.slots[j].state = t.live.slots[j].state := by
  have ends : ∀ u : Taking, u.live.slots = t.live.slots →
      (u.workEnds o.slot).live.slots[j].state = t.live.slots[j].state := by
    intro u e
    have : (u.workEnds o.slot).live.slots = vmod u.live.slots o.slot fun x =>
        { x with work := .idle, timer := none, state := if x.state = .busy then .ready else x.state } := by
      unfold workEnds
      dsimp only
      split <;> simp
    rw [this, e, vmod_get]
    split
    · next q => subst q; exact if_neg h
    · rfl
  have settled : ∀ u : Taking, (u.settleOrder c o).live.slots = u.live.slots := by
    intro u
    unfold settleOrder withdraw
    split
    · simp
    · split <;> simp
  have at_ : ∀ v w : Vector Slot 12, v = w → v[j].state = w[j].state := fun v w e => by rw [e]
  unfold abort
  split
  · exact (at_ _ _ (settled _)).trans (ends _ undoUnsent_slots)
  · have e : ∀ l : Live, (l.startStage o.slot .abort (c.acted Timing.acceptLimit)).slots[j].state = l.slots[j].state := by
      intro l
      rw [startStage_slots, vmod_get]
      split
      · next q => rw [q]
      · rfl
    exact (e _).trans (at_ _ _ (by simp))

theorem loseOrders_state {s j : SlotId} {k : DoneCause} {tags : List Nat} (h : t.live.slots[j].state ≠ .busy) :
    (t.loseOrders c s k tags).live.slots[j].state = t.live.slots[j].state := by
  unfold loseOrders
  induction tags generalizing t with
  | nil => rfl
  | cons tag rest ih =>
    rw [List.foldl_cons]
    have next : ∀ u : Taking, u.live.slots[j].state = t.live.slots[j].state →
        (rest.foldl (fun t tag =>
          match t.live.order? tag with
          | some o =>
            if o.slot = s ∧ o.state = .waiting then t.withdraw c o k
            else if o.abortable then t.abort c o .clampLost
            else t
          | none => t) u).live.slots[j].state = t.live.slots[j].state := fun u e => (ih (e ▸ h)).trans e
    apply next
    split
    · split
      · exact congrArg (fun v : Vector Slot 12 => v[j].state) (leave_slots ..)
      · split
        · exact abort_state h
        · rfl
    · rfl

@[simp] theorem zonesGone_slots (zones : List (ZoneId × Zone)) (l : Live) : (l.zonesGone c zones).slots = l.slots :=
  zonesGone_keeps Live.slots (by simp) (by simp) zones l

@[simp] theorem postClampLost_slots (s : SlotId) (zones : List ZoneId) (l : Live) :
    (l.postClampLost s zones).slots = l.slots := by
  unfold Live.postClampLost
  induction zones generalizing l with
  | nil => rfl
  | cons z rest ih => rw [List.foldl_cons, ih, postSlot_slots]

@[simp] theorem moduleLost_slots (s : SlotId) (zones : List (ZoneId × Zone)) :
    (t.moduleLost s zones).live.slots = t.live.slots := by
  unfold moduleLost
  dsimp only
  split <;> simp

theorem loseWork_slots {s : SlotId} {w : Work} {k : LossCause} {code : Option Nat} {d : DoneCause} :
    (t.loseWork c s w k code d).live.slots = t.live.slots := by
  unfold loseWork
  split
  · rfl
  · rw [on_live, loseHeat_slots]
  · split
    · rfl
    · unfold loseOrder withdraw
      split
      · rw [leave_slots, undoUnsent_slots]
      · dsimp only
        rw [leave_slots]
        split
        · unfold returnUnits
          split <;> simp <;> split <;> split <;> simp
        · simp

/-- What a fault leaves of the messages queued to its slot, before the LAMP of its aspect (R129 step 5). -/
theorem unqueue_atFault {l : Live} {s : SlotId} {b : Bool} :
    ((l.unqueue s fun m => b && m.cls == 3).unqueue s HeadMsg.goesAtFault).heads = (l.unqueue s HeadMsg.goesAtFault).heads := by
  simp only [unqueue_heads, vmod_vmod, List.filter_filter]
  congr 2
  funext k
  congr 1
  congr 1
  funext m
  cases m <;> simp [HeadMsg.goesAtFault, HeadMsg.cls]

/-- A smaller pool has fewer orders at work in some zones. -/
theorem workOfZones_sublist {l l' : Live} {zones : List ZoneId} (h : l'.pool.Sublist l.pool) :
    (l'.workOfZones c zones).Sublist (l.workOfZones c zones) :=
  (h.filter _).map _

/-- The loss of a slot changes its link no more than the end of its work does, where none of its own orders is aborted by the
loss of its zones (R52, R53, R108). -/
theorem lossOf_head {s : SlotId} {w : Work} {zones : List (ZoneId × Zone)} {k : LossCause} {code : Option Nat} {d e : DoneCause}
    {b : Bool} (unique : (t.live.pool.map Order.tag).Nodup)
    (apart : ∀ o ∈ t.live.pool, o.tag ∈ t.live.workOfZones c (clampLostOf zones) → o.slot ≠ s) :
    ∃ x : Bool, ((t.loseWork c s w k code d).ordersLost c s zones e b).live.heads[s] =
      (t.live.unqueue s fun m => x && m.cls == 3).heads[s] := by
  obtain ⟨x, hx⟩ := loseWork_heads (c := c) (t := t) (s := s) (w := w) (k := k) (code := code) (d := d)
  have sub := loseWork_pool (c := c) (t := t) (s := s) (w := w) (k := k) (code := code) (d := d)
  have lines := ordersLost_lines (p := (· = s)) (c := c) (t := t.loseWork c s w k code d) (s := s) (zones := zones) (k := e)
    (b := b) (unique.sublist (sub.map _))
    (fun o ho h => apart o (sub.subset ho) ((workOfZones_sublist sub).subset h))
  exact ⟨x, (lines.other s rfl).trans (congrArg (fun v : Vector HeadLink 12 => v[s]) hx)⟩

/-- The loss of a slot changes nothing of any link but what it has to send (R52, R53, R108). -/
theorem lossOf_line {s j : SlotId} {w : Work} {zones : List (ZoneId × Zone)} {k : LossCause} {code : Option Nat}
    {d e : DoneCause} {b : Bool} (unique : (t.live.pool.map Order.tag).Nodup) :
    ((t.loseWork c s w k code d).ordersLost c s zones e b).live.heads[j].line = t.live.heads[j].line := by
  obtain ⟨x, hx⟩ := loseWork_heads (c := c) (t := t) (s := s) (w := w) (k := k) (code := code) (d := d)
  have sub := loseWork_pool (c := c) (t := t) (s := s) (w := w) (k := k) (code := code) (d := d)
  have lines := ordersLost_lines (p := fun _ => False) (c := c) (t := t.loseWork c s w k code d) (s := s) (zones := zones)
    (k := e) (b := b) (unique.sublist (sub.map _)) (fun _ _ _ h => h)
  refine (lines.line j).trans ?_
  rw [hx]
  exact (LinesKept.unqueue (p := fun _ => False) id).line j

/-- A fault before its slot's aspect is worked out: the slot is FAULTED with lamp setting and aspect as before, its list holds
what a fault keeps, and where none of its own orders is aborted by the loss of its zones nothing else of its link has changed
(R129 steps 1 to 6). -/
theorem fault_unlit {s : SlotId} {k : LossCause} {code : Option Nat} (joined : t.live.slots[s].state.joined = true) :
    ∃ l : Live, (t.fault c s k code).live = (l.syncLamp c s).postSlot s .slotFault (faultDetail k code)
      ∧ l.slots[s].state = .faulted ∧ l.slots[s].lamp = t.live.slots[s].lamp ∧ l.slots[s].aspect = t.live.slots[s].aspect
      ∧ (∀ m ∈ l.heads[s].list, m.goesAtFault = false)
      ∧ ((t.live.pool.map Order.tag).Nodup →
        (∀ o ∈ t.live.pool, o.tag ∈ t.live.workOfZones c (clampLostOf (t.live.zonesOf c s)) → o.slot ≠ s) →
        l.heads[s] = (t.live.unqueue s HeadMsg.goesAtFault).heads[s]) := by
  let f : Slot → Slot := fun x =>
    { x with state := .faulted, fault := some { cause := k, code, tag := t.live.slots[s].work.tag? }, timer := none
             leverPending := false, work := .idle }
  let t1 := t.on fun l => l.updSlot s f
  let zones := t.live.zonesOf c s
  let t2 := t1.loseWork c s t.live.slots[s].work k code .slotFaulted
  let t3 := t2.ordersLost c s zones .slotFaulted (t.live.ownOrder s t.live.slots[s].work)
  let t4 := (t3.on fun l => ((l.unqueue s HeadMsg.goesAtFault).setTravel s none).heaterLost c s).moduleLost s zones
  have d : ∀ l : Live, (l.unqueue s HeadMsg.goesAtFault).heads[s] =
      { l.heads[s] with list := l.heads[s].list.filter fun m => !m.goesAtFault } := fun _ => vmod_get_self _ _ _
  have head : t4.live.heads[s] = (t3.live.unqueue s HeadMsg.goesAtFault).heads[s] :=
    congrArg (fun v : Vector HeadLink 12 => v[s])
      (show t4.live.heads = (t3.live.unqueue s HeadMsg.goesAtFault).heads by simp [t4])
  have slot : t4.live.slots[s] = t3.live.slots[s] :=
    congrArg (fun v : Vector Slot 12 => v[s]) (show t4.live.slots = t3.live.slots by simp [t4])
  have kept : t2.live.slots[s] = f t.live.slots[s] :=
    (congrArg (fun v : Vector Slot 12 => v[s]) (loseWork_slots (t := t1))).trans (vmod_get_self _ _ _)
  have gone : (t2.on (Live.zonesGone c zones)).live.slots[s] = f t.live.slots[s] :=
    (congrArg (fun v : Vector Slot 12 => v[s]) (zonesGone_slots (c := c) zones t2.live)).trans kept
  have state : t3.live.slots[s].state = .faulted :=
    (loseOrders_state (by rw [gone]; exact nofun)).trans (by rw [gone])
  have ident := (loseOrders_examined c s .slotFaulted
    ((t2.on (Live.zonesGone c zones)).live.lossOrder c s (clampLostOf zones) (t.live.ownOrder s t.live.slots[s].work))
    (t2.on (Live.zonesGone c zones))).slots s
  rw [gone] at ident
  simp only [Slot.identity, Prod.mk.injEq] at ident
  refine ⟨t4.live, ?_, ?_, ?_, ?_, ?_, ?_⟩
  · unfold fault
    rw [if_neg (fun h => by rw [joined] at h; cases h)]
    rfl
  · rw [slot]; exact state
  · rw [slot]; exact ident.2.2.2.2.1
  · rw [slot]; exact ident.2.2.2.2.2.1
  · rw [head, d]
    intro m hm
    simpa using (List.mem_filter.mp hm).2
  · intro unique apart
    obtain ⟨x, hx⟩ := lossOf_head (c := c) (t := t1) (s := s) (w := t.live.slots[s].work) (zones := zones) (k := k)
      (code := code) (d := .slotFaulted) (e := .slotFaulted) (b := t.live.ownOrder s t.live.slots[s].work) unique apart
    have both : ((t1.live.unqueue s fun m => x && m.cls == 3).unqueue s HeadMsg.goesAtFault).heads[s] =
        (t.live.unqueue s HeadMsg.goesAtFault).heads[s] :=
      congrArg (fun v : Vector HeadLink 12 => v[s]) (unqueue_atFault (l := t1.live))
    rw [head, ← both, d, d, hx]

/-- What a fault leaves of its slot's lamp setting and aspect (R129 step 7, R125). -/
theorem fault_aspect {s : SlotId} {k : LossCause} {code : Option Nat} (joined : t.live.slots[s].state.joined = true) :
    (t.fault c s k code).live.slots[s].lamp = t.live.slots[s].lamp
      ∧ (t.fault c s k code).live.slots[s].aspect = if t.live.slots[s].lamp = .forceOn then .steady else .off := by
  obtain ⟨l, e, state, lamp, -⟩ := fault_unlit (c := c) (k := k) (code := code) joined
  have : (t.fault c s k code).live.slots[s] =
      { l.slots[s] with aspect := aspectOf l.slots[s].lamp l.slots[s].state } := by
    rw [e, postSlot_slots, syncLamp_slots]
    exact vmod_get_self _ _ _
  rw [this]
  refine ⟨lamp, ?_⟩
  dsimp only
  rw [state, lamp]
  cases t.live.slots[s].lamp <;> rfl

/-- A fault leaves no message but LAMP and REJOIN unsent to its slot (R129 step 5). -/
theorem fault_unsent {s : SlotId} {k : LossCause} {code : Option Nat} (joined : t.live.slots[s].state.joined = true) :
    ∀ m ∈ (t.fault c s k code).live.heads[s].list, m.goesAtFault = false := by
  obtain ⟨l, e, -, -, -, list, -⟩ := fault_unlit (c := c) (k := k) (code := code) joined
  rw [e]
  intro m hm
  rcases syncLamp_list (show m ∈ (l.syncLamp c s).heads[s].list from hm) with h | h
  · exact list m h
  · obtain ⟨a, rfl⟩ := h; rfl

/-- What a fault leaves of what its slot's link has to send (R129 steps 5 and 7, R125), where none of its own orders is aborted
by the loss of its zones. -/
theorem fault_head {s : SlotId} {k : LossCause} {code : Option Nat} (joined : t.live.slots[s].state.joined = true)
    (unique : (t.live.pool.map Order.tag).Nodup)
    (apart : ∀ o ∈ t.live.pool, o.tag ∈ t.live.workOfZones c (clampLostOf (t.live.zonesOf c s)) → o.slot ≠ s) :
    let left : Live := (t.live.unqueue s HeadMsg.goesAtFault).updSlot s fun x => { x with state := .faulted }
    (t.fault c s k code).live.heads[s].list = (left.syncLamp c s).heads[s].list
      ∧ (t.fault c s k code).live.heads[s].sending = (left.syncLamp c s).heads[s].sending := by
  obtain ⟨l, e, state, lamp, aspect, -, head⟩ := fault_unlit (c := c) (k := k) (code := code) joined
  intro left
  have own : left.slots[s] = { t.live.slots[s] with state := .faulted } := vmod_get_self _ _ _
  rw [e]
  exact syncLamp_head (c := c) (s := s) (l := left) (l' := l) (congrArg HeadLink.list (head unique apart))
    (congrArg HeadLink.sending (head unique apart)) (by rw [own]; exact lamp) (by rw [own]; exact state)
    (by rw [own]; exact aspect)

/-- What a link down leaves of its link (R173), where no order of the slot's own is aborted by the loss of its zones for what
is in transmission. -/
theorem linkLost_head {s : SlotId} (was : t.live.slots[s].state ≠ .empty) (unique : (t.live.pool.map Order.tag).Nodup) :
    (t.linkLost c s).live.heads[s] =
        { t.live.heads[s].wentDown with sending := (t.linkLost c s).live.heads[s].sending }
      ∧ ((∀ o ∈ t.live.pool, o.tag ∈ t.live.workOfZones c (clampLostOf (t.live.zonesOf c s)) → o.slot ≠ s) →
        (t.linkLost c s).live.heads[s] = t.live.heads[s].wentDown) := by
  let t1 := t.on fun l => l.updSlot s fun x => { x with state := .empty, timer := none, work := .idle }
  let zones := t.live.zonesOf c s
  let t3 := (t1.loseWork c s t.live.slots[s].work .linkLost none .slotLost).ordersLost c s zones .slotLost
    (t.live.ownOrder s t.live.slots[s].work)
  have after : (t.linkLost c s).live.heads = (t3.live.updHead s HeadLink.wentDown).heads := by
    unfold linkLost
    rw [if_neg was]
    dsimp only
    split <;> simp [t3, t1, zones]
  have down : (t.linkLost c s).live.heads[s] = t3.live.heads[s].wentDown :=
    (congrArg (fun v : Vector HeadLink 12 => v[s]) after).trans (vmod_get_self _ _ _)
  have line : t3.live.heads[s].line = t.live.heads[s].line := lossOf_line (t := t1) unique
  simp only [HeadLink.line, Prod.mk.injEq] at line
  have form : ∀ k k' : HeadLink, k'.line = k.line → k'.wentDown = { k.wentDown with sending := k'.sending } := by
    intro k k' h
    simp only [HeadLink.line, Prod.mk.injEq] at h
    simp [HeadLink.wentDown, h.2.2.2]
  refine ⟨?_, fun apart => ?_⟩
  · rw [down]; exact form _ _ (lossOf_line (t := t1) unique)
  · obtain ⟨x, hx⟩ := lossOf_head (c := c) (t := t1) (s := s) (w := t.live.slots[s].work) (zones := zones) (k := .linkLost)
      (code := none) (d := .slotLost) (e := .slotLost) (b := t.live.ownOrder s t.live.slots[s].work) unique apart
    have u : (t1.live.unqueue s fun m => x && m.cls == 3).heads[s] =
        { t.live.heads[s] with list := t.live.heads[s].list.filter fun m => !(x && m.cls == 3) } := vmod_get_self _ _ _
    rw [down, show t3.live.heads[s] = _ from hx, u]
    rfl

/-! ### A slot becomes LEAVING (R121) -/

/-- Its record. -/
theorem leaving_slots {s : SlotId} : (t.leaving c s).live.slots =
    ((t.live.updSlot s fun x => { x with state := .leaving, leverPending := false }).syncLamp c s).slots := by
  unfold leaving
  simp [syncLamp_slots]

/-- The links: LAMP where the aspect has changed (R125). -/
theorem leaving_heads {s : SlotId} : (t.leaving c s).live.heads =
    ((t.live.updSlot s fun x => { x with state := .leaving, leverPending := false }).syncLamp c s).heads := by
  unfold leaving
  simp only [on_live, postSlot_heads]
  exact syncLamp_heads_congr (by simp) (by simp)

/-- The notices: LEVER_OPEN is posted. -/
theorem leaving_notices {s : SlotId} : (t.leaving c s).live.notices = (t.live.postSlot s .leverOpen .none).notices := by
  unfold leaving
  simp

/-- The pool: its WAITING orders are withdrawn, and nothing else of it changes (R53). -/
theorem leaving_pool {s : SlotId} : (t.leaving c s).live.pool = t.live.pool.filter fun o =>
    (t.live.pool.filter fun q => q.slot == s && q.state == .waiting && true).all fun q => o.tag != q.tag := by
  unfold leaving withdrawWaiting
  simp only [on_live, postSlot_pool, syncLamp_pool, withdrawAll_pool, updSlot_pool]

/-- Its WAITING orders take their claims with them (R53, R61). -/
theorem leaving_withdrawn {s : SlotId} {o : Order} (h : o ∈ t.live.pool) (hs : o.slot = s) (hw : o.state = .waiting) :
    (t.leaving c s).live.request? o.tag = none := by
  have m : o ∈ (t.on fun l => l.updSlot s fun x => { x with state := .leaving, leverPending := false }).live.pool.filter
      (fun o => o.slot == s && o.state == .waiting && true) := by simp [h, hs, hw]
  have := withdrawAll_request? c .slotLeaving _
    (t.on fun l => l.updSlot s fun x => { x with state := .leaving, leverPending := false }) m
  unfold leaving withdrawWaiting
  simp only [Live.request?, on_live, postSlot_requestsA, postSlot_requestsB, syncLamp_requestsA, syncLamp_requestsB] at this ⊢
  exact this

end Taking
end Sys2Proof.Machine
end

