-- ==== Sys2Proof/Laws/Memory.lean ====
section
/-! SUPPORT. The store's contents: every operation keeps the canonical form, and what a read gives after a write. -/

namespace Sys2Proof.Machine.Memory

theorem wfFrom_mono {low low' : Nat} (h : low' ≤ low) {m : List Host.Cell} (w : wfFrom low m = true) :
    wfFrom low' m = true := by
  cases m with
  | nil => rfl
  | cons x rest =>
    simp only [wfFrom, Bool.and_eq_true, decide_eq_true_eq] at w ⊢
    exact ⟨⟨⟨by omega, w.1.1.2⟩, w.1.2⟩, w.2⟩

/-- An address below a canonical list reads as blank. -/
theorem read_below {a low : Nat} (h : a < low) {m : List Host.Cell} (w : wfFrom low m = true) : read m a = blank := by
  induction m generalizing low with
  | nil => rfl
  | cons x rest ih =>
    simp only [wfFrom, Bool.and_eq_true, decide_eq_true_eq] at w
    simp only [read]
    rw [if_neg (by omega)]
    exact ih (by omega) w.2

theorem wfFrom_insert {a low : Nat} {v : Byte} {m : List Host.Cell} (w : wfFrom low m = true) (h : low ≤ a)
    (ha : a < Config.storeSize) (hv : v ≠ blank) : wfFrom low (insert a v m) = true := by
  induction m generalizing low with
  | nil => simp [insert, wfFrom, h, hv]; exact ha
  | cons x rest ih =>
    have w0 := w
    simp only [wfFrom, Bool.and_eq_true, decide_eq_true_eq] at w
    simp only [insert]
    split
    · rename_i lt
      simp only [wfFrom, Bool.and_eq_true, decide_eq_true_eq]
      exact ⟨⟨⟨h, ha⟩, by simpa using hv⟩, ⟨⟨⟨by omega, w.1.1.2⟩, w.1.2⟩, w.2⟩⟩
    · split
      · rename_i e
        subst e
        simp only [wfFrom, Bool.and_eq_true, decide_eq_true_eq]
        exact ⟨⟨⟨h, ha⟩, by simpa using hv⟩, w.2⟩
      · simp only [wfFrom, Bool.and_eq_true, decide_eq_true_eq]
        exact ⟨w.1, ih w.2 (by omega)⟩

theorem wfFrom_erase {a low : Nat} {m : List Host.Cell} (w : wfFrom low m = true) : wfFrom low (erase a m) = true := by
  induction m generalizing low with
  | nil => rfl
  | cons x rest ih =>
    simp only [wfFrom, Bool.and_eq_true, decide_eq_true_eq] at w
    simp only [erase]
    split
    · exact wfFrom_mono (by omega) w.2
    · simp only [wfFrom, Bool.and_eq_true, decide_eq_true_eq]
      exact ⟨w.1, ih w.2⟩

/-- A write inside the store keeps the canonical form. -/
theorem wf_write {m : List Host.Cell} {a : Nat} {v : Byte} (w : wf m = true) (ha : a < Config.storeSize) :
    wf (write m a v) = true := by
  unfold write
  split
  · exact wfFrom_erase w
  · rename_i hv
    exact wfFrom_insert w (Nat.zero_le a) ha hv

/-- A block write inside the store keeps the canonical form. -/
theorem wf_writeAll {m : List Host.Cell} {a : Nat} {bytes : List Byte} (w : wf m = true)
    (h : a + bytes.length ≤ Config.storeSize) : wf (writeAll m a bytes) = true := by
  induction bytes generalizing m a with
  | nil => exact w
  | cons v rest ih =>
    simp only [writeAll, List.length_cons] at h ⊢
    exact ih (wf_write w (by omega)) (by omega)

theorem read_insert {m : List Host.Cell} {a b : Nat} {v : Byte} : read (insert a v m) b = if b = a then v else read m b := by
  induction m with
  | nil =>
    simp only [insert, read]
    by_cases e : a = b
    · simp [e]
    · rw [if_neg e, if_neg (Ne.symm e)]
  | cons x rest ih =>
    simp only [insert]
    split
    · simp only [read]
      by_cases e : a = b
      · simp [e]
      · rw [if_neg e, if_neg (Ne.symm e)]
    · split
      · rename_i e
        simp only [read, ← e]
        by_cases e : a = b
        · simp [e]
        · rw [if_neg e, if_neg (Ne.symm e), if_neg e]
      · rename_i ne
        simp only [read, ih]
        by_cases e : x.1 = b
        · rw [if_pos e, if_neg (by omega), if_pos e]
        · rw [if_neg e, if_neg e]

theorem read_erase {m : List Host.Cell} {low a b : Nat} (w : wfFrom low m = true) :
    read (erase a m) b = if b = a then blank else read m b := by
  induction m generalizing low with
  | nil => simp [erase, read]
  | cons x rest ih =>
    simp only [wfFrom, Bool.and_eq_true, decide_eq_true_eq] at w
    simp only [erase]
    split
    · rename_i e
      subst e
      simp only [read]
      by_cases e : b = x.1
      · rw [if_pos e]; subst e; exact read_below (Nat.lt_succ_self _) w.2
      · rw [if_neg e, if_neg (Ne.symm e)]
    · rename_i ne
      simp only [read, ih w.2]
      by_cases e : x.1 = b
      · rw [if_pos e, if_neg (by omega), if_pos e]
      · rw [if_neg e, if_neg e]

/-- What a read gives after a write. -/
theorem read_write {m : List Host.Cell} {a b : Nat} {v : Byte} (w : wf m = true) :
    read (write m a v) b = if b = a then v else read m b := by
  unfold write
  split
  · rename_i hv; rw [read_erase w, hv]
  · exact read_insert

/-- What a read gives after a block write. -/
theorem read_writeAll {m : List Host.Cell} {a b : Nat} {bytes : List Byte} (w : wf m = true)
    (h : a + bytes.length ≤ Config.storeSize) :
    read (writeAll m a bytes) b = if a ≤ b ∧ b < a + bytes.length then bytes.getD (b - a) 0 else read m b := by
  induction bytes generalizing m a with
  | nil => simp only [writeAll, List.length_nil]; rw [if_neg (by omega)]
  | cons v rest ih =>
    simp only [writeAll, List.length_cons] at h ⊢
    rw [ih (wf_write w (by omega)) (by omega), read_write w]
    by_cases e : b = a
    · subst e
      rw [if_neg (by omega), if_pos rfl, if_pos (by omega)]
      simp
    · by_cases r : a + 1 ≤ b ∧ b < a + 1 + rest.length
      · rw [if_pos r, if_pos (by omega)]
        obtain ⟨k, rfl⟩ : ∃ k, b = a + 1 + k := ⟨b - (a + 1), by omega⟩
        have e1 : a + 1 + k - (a + 1) = k := by omega
        have e2 : a + 1 + k - a = k + 1 := by omega
        rw [e1, e2, List.getD_cons_succ]
      · rw [if_neg r, if_neg e, if_neg (by omega)]

/-- Canonical contents that read the same are the same. -/
theorem read_inj {m m' : List Host.Cell} {low : Nat} (w : wfFrom low m = true) (w' : wfFrom low m' = true)
    (h : ∀ a, read m a = read m' a) : m = m' := by
  induction m generalizing low m' with
  | nil =>
    cases m' with
    | nil => rfl
    | cons y rest =>
      have := h y.1
      simp only [wfFrom, Bool.and_eq_true, Bool.not_eq_true', beq_eq_false_iff_ne] at w'
      simp [read] at this
      exact absurd this.symm w'.1.2
  | cons x rest ih =>
    have wx := w
    simp only [wfFrom, Bool.and_eq_true, decide_eq_true_eq, Bool.not_eq_true', beq_eq_false_iff_ne] at w
    cases m' with
    | nil =>
      have := h x.1
      simp [read] at this
      exact absurd this w.1.2
    | cons y rest' =>
      have wy := w'
      simp only [wfFrom, Bool.and_eq_true, decide_eq_true_eq, Bool.not_eq_true', beq_eq_false_iff_ne] at w'
      have key : x.1 = y.1 := by
        rcases Nat.lt_trichotomy x.1 y.1 with lt | e | lt
        · have a := h x.1
          simp only [read, if_true, if_neg (Ne.symm (Nat.ne_of_lt lt))] at a
          rw [read_below (low := y.1 + 1) (by omega) w'.2] at a
          exact absurd a w.1.2
        · exact e
        · have a := h y.1
          simp only [read, if_true, if_neg (Ne.symm (Nat.ne_of_lt lt))] at a
          rw [read_below (low := x.1 + 1) (by omega) w.2] at a
          exact absurd a.symm w'.1.2
      have val : x.2 = y.2 := by
        have a := h x.1
        simpa [read, key] using a
      have tail : rest = rest' := by
        apply ih w.2 (by rw [key]; exact w'.2)
        intro a
        have b := h a
        simp only [read, key] at b
        by_cases e : y.1 = a
        · subst e
          rw [read_below (Nat.lt_succ_self _) (by rw [← key] ; exact w.2), read_below (Nat.lt_succ_self _) w'.2]
        · simpa [e] using b
      obtain ⟨x1, x2⟩ := x
      obtain ⟨y1, y2⟩ := y
      simp only at key val
      rw [key, val, tail]

theorem wf_nil : wf [] = true := rfl

end Sys2Proof.Machine.Memory

namespace Sys2Proof.Machine

/-- The end of a write keeps the canonical form. -/
theorem Store.finishWrite_wf {m : Store} (w : Memory.wf m.cells = true)
    (h : ∀ x, m.writing = some x → x.addr + x.data.length ≤ Config.storeSize) : Memory.wf m.finishWrite.cells = true := by
  unfold Store.finishWrite
  split
  · exact w
  · rename_i x e
    dsimp only
    split
    · exact Memory.wf_writeAll w (h x e)
    · exact w

@[simp] theorem Store.finishWrite_writing (m : Store) : m.finishWrite.writing = none := by
  unfold Store.finishWrite
  split
  · assumption
  · rfl

@[simp] theorem Store.finishWrite_present (m : Store) : m.finishWrite.present = m.present := by
  unfold Store.finishWrite; split <;> rfl

theorem Store.bytes_length (m : Store) (a n : Nat) : (m.bytes a n).length = n := by
  induction n generalizing a with
  | zero => rfl
  | succ n ih => simp [Store.bytes, ih]

theorem Store.bytes_get (m : Store) (a n i : Nat) (h : i < n) : (m.bytes a n)[i]? = some (m.byte (a + i)) := by
  induction n generalizing a i with
  | zero => omega
  | succ n ih =>
    cases i with
    | zero => simp [Store.bytes]
    | succ i =>
      simp only [Store.bytes, List.getElem?_cons_succ]
      rw [ih (a + 1) i (by omega)]
      congr 2
      omega

end Sys2Proof.Machine
end

