-- ==== Sys2Proof/WellFormed.lean ====
section
/-!
DEFINITION. Which commands the links and inputs can carry: header and operand fields within their widths, operand lists
as long as the body length says, and a selector that no other row of the table claims. A meaning does not rely on it.
-/

namespace Sys2Proof

/-- A field of one byte. -/
def fitsByte (n : Nat) : Bool := decide (n < 256)

/-- A field of two bytes. -/
def fitsHalf (n : Nat) : Bool := decide (n < 65536)

/-- A field of four bytes. -/
def fitsWord (n : Nat) : Bool := decide (n < 4294967296)

/-- The header of a good frame: bytes 2 and 3 are bytes, and the body is 4..64 bytes long (R163). -/
def Header.wf (h : Header) : Bool :=
  fitsByte h.tag && fitsByte h.selector && decide (4 ≤ h.length) && decide (h.length ≤ 64)

/-- A message of a kind with selectors 1..`top` stands for the row of selector `own`, or for a refused message whose
selector is no row's (R168 step 2). -/
def Header.wfSelector (h : Header) (own top : Nat) : Bool :=
  h.wf && (h.selector == own || h.selector == 0 || decide (top < h.selector))

/-- The fields of a row within their widths (section 9.6, Pattern row). -/
def RawRow.wf (r : RawRow) : Bool :=
  fitsHalf r.hole && decide (r.zone < 32) && fitsByte r.centre && fitsHalf r.offset && fitsByte r.plies && fitsByte r.grip
    && fitsByte r.diameter && fitsByte r.force && decide (r.predCount < 4) && fitsHalf r.pred1 && fitsHalf r.pred2

/-- The fields of a HELLO within their widths (section 9.5). -/
def HelloBody.wf : HelloBody → Bool
  | .malformed => true
  | .drill _ centre toolId limit count => fitsByte centre && fitsWord toolId && fitsHalf limit && fitsHalf count
  | .set _ centre => fitsByte centre
  | .heat lane => fitsByte lane
  | .clamp channels => fitsByte channels

/-- The fields of a DONE within their widths (section 9.6). -/
def DoneBody.wf : DoneBody → Bool
  | .bare => true
  | .serial n => fitsHalf n
  | .result code value => fitsByte code && fitsHalf value
  | .other length => decide (4 < length) && decide (length ≤ 64) && !(length == 6) && !(length == 7)

/-- The kind codes of cell messages (section 9.5). -/
def cellKinds : List Nat :=
  [0x10, 0x11, 0x12, 0x13, 0x14, 0x15, 0x16, 0x1F, 0x20, 0x21, 0x22, 0x28, 0x30, 0x31, 0x32, 0x34, 0x38, 0x40, 0x41, 0x42,
    0x50, 0x51, 0x60, 0x61, 0x68, 0x69, 0x6A]

/-- The kind codes of head messages (section 9.5). -/
def headKinds : List Nat := [0xC0, 0xC1, 0xC2, 0xC3, 0xC4, 0xC5, 0xC6, 0xC7]

/-- A command the links and inputs can carry. -/
def Instr.wf : Instr → Bool
  | .drill h slot hole feed => h.wf && fitsByte slot && fitsHalf hole && fitsByte feed
  | .ream h slot hole feed => h.wf && fitsByte slot && fitsHalf hole && fitsByte feed
  | .setRivet h slot hole => h.wf && fitsByte slot && fitsHalf hole
  | .heat h slot lane => h.wf && fitsByte slot && fitsByte lane
  | .clamp h slot zone => h.wf && fitsByte slot && fitsByte zone
  | .unclamp h slot zone => h.wf && fitsByte slot && fitsByte zone
  | .park h slot => h.wf && fitsByte slot
  | .cancel h => h.wf
  | .patternOpen h p n => h.wf && fitsByte p && fitsHalf n
  | .patternRows h p k rows =>
    h.wf && fitsByte p && fitsByte k && rows.length == (h.length - 6) / 14 && rows.all RawRow.wf
  | .patternDelete h p => h.wf && fitsByte p
  | .tableWriteTiming h entry value => h.wfSelector 1 5 && fitsByte entry && fitsWord value
  | .tableWriteSlot h slot kind home => h.wfSelector 2 5 && fitsByte slot && fitsByte kind && fitsByte home
  | .tableWriteZone h zone slot channel => h.wfSelector 3 5 && fitsByte zone && fitsByte slot && fitsByte channel
  | .tableWriteLane h lane slot cls mode target =>
    h.wfSelector 4 5 && fitsByte lane && fitsByte slot && fitsByte cls && fitsByte mode && fitsByte target
  | .tableWritePump h value => h.wfSelector 5 5 && fitsByte value
  | .frameBegin h p serial => h.wf && fitsByte p && fitsHalf serial
  | .frameEnd h => h.wf
  | .frameAbandon h => h.wf
  | .modeRun h => h.wfSelector 1 3
  | .modeHold h => h.wfSelector 2 3
  | .modeResume h => h.wfSelector 3 3
  | .holeRework h hole => h.wf && fitsHalf hole
  | .slotClear h slot => h.wf && fitsByte slot
  | .slotRelease h slot => h.wf && fitsByte slot
  | .lampSet h slot setting => h.wf && fitsByte slot && fitsByte setting
  | .queryStatus h => h.wfSelector 1 11
  | .queryHole h hole => h.wfSelector 2 11 && fitsHalf hole
  | .queryOrder h form arg => h.wfSelector 3 11 && fitsByte form && fitsByte arg
  | .querySlot h slot => h.wfSelector 4 11 && fitsByte slot
  | .queryRail h rail part start => h.wfSelector 5 11 && fitsByte rail && fitsByte part && fitsByte start
  | .queryLane h lane => h.wfSelector 6 11 && fitsByte lane
  | .queryZone h zone => h.wfSelector 7 11 && fitsByte zone
  | .queryPump h => h.wfSelector 8 11
  | .queryLink h => h.wfSelector 9 11
  | .queryTable h table index => h.wfSelector 10 11 && fitsByte table && fitsByte index
  | .queryPattern h p hole => h.wfSelector 11 11 && fitsByte p && hole.all fitsHalf
  | .noticeTake h => h.wf
  | .storeRead h addr count => h.wf && fitsHalf addr && fitsByte count
  | .storeWrite h addr data => h.wf && fitsHalf addr && data.length == h.length - 6
  | .storeWriteEnd => true
  | .reload h => h.wf
  | .restart h => h.wf
  | .unlock h => h.wf
  | .unknownKind h kind => h.wf && fitsByte kind && !cellKinds.contains kind
  | .damagedFrame _ bytes => !bytes.isEmpty
  | .holdoffDiscard => true
  | .restartDiscardedFrame => true
  | .cellSentEvent => true
  | .powerUp => true
  | .resetPinHeld => true
  | .resetPinRelease => true
  | .preloadHeaderRead => true
  | .preloadRecord => true
  | .preloadEnd => true
  | .headLinkHoldEnd => true
  | .linkUp _ => true
  | .linkDown _ => true
  | .hello _ hs revision body => fitsByte hs && fitsByte revision && body.wf
  | .accept _ hs tag serial => fitsByte hs && fitsByte tag && serial.all fitsHalf
  | .done _ hs tag body => fitsByte hs && fitsByte tag && body.wf
  | .abortedNone _ hs tag => fitsByte hs && fitsByte tag
  | .abortedPartial _ hs tag => fitsByte hs && fitsByte tag
  | .arrived _ hs tag centre => fitsByte hs && fitsByte tag && fitsByte centre
  | .fault _ hs code => fitsByte hs && fitsByte code
  | .leverOpen _ hs => fitsByte hs
  | .leverClosed _ hs => fitsByte hs
  | .clampState _ hs channel state => fitsByte hs && fitsByte channel && fitsByte state
  | .headMessageSetAside _ hs (.unknownKind code) => fitsByte hs && fitsByte code && !headKinds.contains code
  | .headMessageSetAside _ hs _ => fitsByte hs
  | .headSentEvent _ => true
  | .acceptStageExpiry _ => true
  | .runStageExpiry _ => true
  | .travelStageExpiry _ => true
  | .graceStageExpiry _ => true
  | .abortStageExpiry _ => true
  | .rivetExpiryUnassigned _ place => decide (place < 4)
  | .rivetExpiryAssigned _ place => decide (place < 4)
  | .cadenceExpiry _ => true
  | .claimStarved _ => true
  | .guardChannelChange _ _ => true
  | .discrepancyExpiry => true
  | .startDelimiter => true
  | .lineActivity _ => true

end Sys2Proof
end

