-- ==== Sys2Proof/Laws/PerInstr.lean ====
section
/-!
SUPPORT. The per-instruction family of LAWS.json: a well-formed cell message has a header a good frame can carry
(R163).
-/

namespace Sys2Proof.Laws.CellKind

open Sys2Proof Sys2Proof.Safety

/-- Bytes 2 and 3 of a well-formed cell message are bytes, and its body is 4 to 64 bytes long. -/
def Statement (i : Instr) : Prop :=
  i.wf = true → ∀ h, headerOf i = some h → h.tag < 256 ∧ h.selector < 256 ∧ 4 ≤ h.length ∧ h.length ≤ 64

theorem Header.bounds (h : Header) (wf : h.wf = true) :
    h.tag < 256 ∧ h.selector < 256 ∧ 4 ≤ h.length ∧ h.length ≤ 64 := by
  simp only [Header.wf, fitsByte, Bool.and_eq_true, decide_eq_true_eq] at wf
  omega

theorem of_wf (i : Instr) (h : Header) (e : headerOf i = some h)
    (wf : i.wf = true → h.wf = true) : Statement i := by
  intro hi g hg
  obtain rfl : h = g := Option.some.inj (e.symm.trans hg)
  exact Header.bounds h (wf hi)

theorem left {a b : Bool} (h : (a && b) = true) : a = true := (Bool.and_eq_true_iff.mp h).1

theorem of_none (i : Instr) (e : headerOf i = none) : Statement i := by
  intro _ h eh
  rw [e] at eh
  contradiction

theorem drill (h : Header) (slot hole feed : Nat) : Statement (.drill h slot hole feed) :=
  of_wf _ h rfl fun w => left (left (left w))

theorem ream (h : Header) (slot hole feed : Nat) : Statement (.ream h slot hole feed) :=
  of_wf _ h rfl fun w => left (left (left w))

theorem setRivet (h : Header) (slot hole : Nat) : Statement (.setRivet h slot hole) :=
  of_wf _ h rfl fun w => left (left w)

theorem heat (h : Header) (slot lane : Nat) : Statement (.heat h slot lane) :=
  of_wf _ h rfl fun w => left (left w)

theorem clamp (h : Header) (slot zone : Nat) : Statement (.clamp h slot zone) :=
  of_wf _ h rfl fun w => left (left w)

theorem unclamp (h : Header) (slot zone : Nat) : Statement (.unclamp h slot zone) :=
  of_wf _ h rfl fun w => left (left w)

theorem park (h : Header) (slot : Nat) : Statement (.park h slot) :=
  of_wf _ h rfl fun w => left w

theorem cancel (h : Header) : Statement (.cancel h) :=
  of_wf _ h rfl fun w => w

theorem patternOpen (h : Header) (p n : Nat) : Statement (.patternOpen h p n) :=
  of_wf _ h rfl fun w => left (left w)

theorem patternRows (h : Header) (p k : Nat) (rows : List RawRow) : Statement (.patternRows h p k rows) :=
  of_wf _ h rfl fun w => left (left (left (left w)))

theorem patternDelete (h : Header) (p : Nat) : Statement (.patternDelete h p) :=
  of_wf _ h rfl fun w => left w

theorem tableWriteTiming (h : Header) (entry value : Nat) : Statement (.tableWriteTiming h entry value) :=
  of_wf _ h rfl fun w => left (left (left w))

theorem tableWriteSlot (h : Header) (slot kind home : Nat) : Statement (.tableWriteSlot h slot kind home) :=
  of_wf _ h rfl fun w => left (left (left (left w)))

theorem tableWriteZone (h : Header) (zone slot channel : Nat) : Statement (.tableWriteZone h zone slot channel) :=
  of_wf _ h rfl fun w => left (left (left (left w)))

theorem tableWriteLane (h : Header) (lane slot cls mode target : Nat) :
    Statement (.tableWriteLane h lane slot cls mode target) :=
  of_wf _ h rfl fun w => left (left (left (left (left (left w)))))

theorem tableWritePump (h : Header) (value : Nat) : Statement (.tableWritePump h value) :=
  of_wf _ h rfl fun w => left (left w)

theorem frameBegin (h : Header) (p serial : Nat) : Statement (.frameBegin h p serial) :=
  of_wf _ h rfl fun w => left (left w)

theorem frameEnd (h : Header) : Statement (.frameEnd h) :=
  of_wf _ h rfl fun w => w

theorem frameAbandon (h : Header) : Statement (.frameAbandon h) :=
  of_wf _ h rfl fun w => w

theorem modeRun (h : Header) : Statement (.modeRun h) :=
  of_wf _ h rfl fun w => left w

theorem modeHold (h : Header) : Statement (.modeHold h) :=
  of_wf _ h rfl fun w => left w

theorem modeResume (h : Header) : Statement (.modeResume h) :=
  of_wf _ h rfl fun w => left w

theorem holeRework (h : Header) (hole : Nat) : Statement (.holeRework h hole) :=
  of_wf _ h rfl fun w => left w

theorem slotClear (h : Header) (slot : Nat) : Statement (.slotClear h slot) :=
  of_wf _ h rfl fun w => left w

theorem slotRelease (h : Header) (slot : Nat) : Statement (.slotRelease h slot) :=
  of_wf _ h rfl fun w => left w

theorem lampSet (h : Header) (slot setting : Nat) : Statement (.lampSet h slot setting) :=
  of_wf _ h rfl fun w => left (left w)

theorem queryStatus (h : Header) : Statement (.queryStatus h) :=
  of_wf _ h rfl fun w => left w

theorem queryHole (h : Header) (hole : Nat) : Statement (.queryHole h hole) :=
  of_wf _ h rfl fun w => left (left w)

theorem queryOrder (h : Header) (form arg : Nat) : Statement (.queryOrder h form arg) :=
  of_wf _ h rfl fun w => left (left (left w))

theorem querySlot (h : Header) (slot : Nat) : Statement (.querySlot h slot) :=
  of_wf _ h rfl fun w => left (left w)

theorem queryRail (h : Header) (rail part start : Nat) : Statement (.queryRail h rail part start) :=
  of_wf _ h rfl fun w => left (left (left (left w)))

theorem queryLane (h : Header) (lane : Nat) : Statement (.queryLane h lane) :=
  of_wf _ h rfl fun w => left (left w)

theorem queryZone (h : Header) (zone : Nat) : Statement (.queryZone h zone) :=
  of_wf _ h rfl fun w => left (left w)

theorem queryPump (h : Header) : Statement (.queryPump h) :=
  of_wf _ h rfl fun w => left w

theorem queryLink (h : Header) : Statement (.queryLink h) :=
  of_wf _ h rfl fun w => left w

theorem queryTable (h : Header) (table index : Nat) : Statement (.queryTable h table index) :=
  of_wf _ h rfl fun w => left (left (left w))

theorem queryPattern (h : Header) (p : Nat) (hole : Option Nat) : Statement (.queryPattern h p hole) :=
  of_wf _ h rfl fun w => left (left (left w))

theorem noticeTake (h : Header) : Statement (.noticeTake h) :=
  of_wf _ h rfl fun w => w

theorem storeRead (h : Header) (addr count : Nat) : Statement (.storeRead h addr count) :=
  of_wf _ h rfl fun w => left (left w)

theorem storeWrite (h : Header) (addr : Nat) (data : List Byte) : Statement (.storeWrite h addr data) :=
  of_wf _ h rfl fun w => left (left w)

theorem storeWriteEnd : Statement .storeWriteEnd := of_none _ rfl

theorem reload (h : Header) : Statement (.reload h) :=
  of_wf _ h rfl fun w => w

theorem restart (h : Header) : Statement (.restart h) :=
  of_wf _ h rfl fun w => w

theorem unlock (h : Header) : Statement (.unlock h) :=
  of_wf _ h rfl fun w => w

theorem unknownKind (h : Header) (kind : Nat) : Statement (.unknownKind h kind) :=
  of_wf _ h rfl fun w => left (left w)

theorem damagedFrame (link : LinkId) (bytes : List Byte) : Statement (.damagedFrame link bytes) := of_none _ rfl

theorem holdoffDiscard : Statement .holdoffDiscard := of_none _ rfl

theorem restartDiscardedFrame : Statement .restartDiscardedFrame := of_none _ rfl

theorem cellSentEvent : Statement .cellSentEvent := of_none _ rfl

theorem powerUp : Statement .powerUp := of_none _ rfl

theorem resetPinHeld : Statement .resetPinHeld := of_none _ rfl

theorem resetPinRelease : Statement .resetPinRelease := of_none _ rfl

theorem preloadHeaderRead : Statement .preloadHeaderRead := of_none _ rfl

theorem preloadRecord : Statement .preloadRecord := of_none _ rfl

theorem preloadEnd : Statement .preloadEnd := of_none _ rfl

theorem headLinkHoldEnd : Statement .headLinkHoldEnd := of_none _ rfl

theorem linkUp (slot : SlotId) : Statement (.linkUp slot) := of_none _ rfl

theorem linkDown (slot : SlotId) : Statement (.linkDown slot) := of_none _ rfl

theorem hello (slot : SlotId) (hs revision : Nat) (body : HelloBody) :
    Statement (.hello slot hs revision body) := of_none _ rfl

theorem accept (slot : SlotId) (hs tag : Nat) (serial : Option Nat) :
    Statement (.accept slot hs tag serial) := of_none _ rfl

theorem done (slot : SlotId) (hs tag : Nat) (body : DoneBody) : Statement (.done slot hs tag body) := of_none _ rfl

theorem abortedNone (slot : SlotId) (hs tag : Nat) : Statement (.abortedNone slot hs tag) := of_none _ rfl

theorem abortedPartial (slot : SlotId) (hs tag : Nat) : Statement (.abortedPartial slot hs tag) := of_none _ rfl

theorem arrived (slot : SlotId) (hs tag centre : Nat) : Statement (.arrived slot hs tag centre) := of_none _ rfl

theorem fault (slot : SlotId) (hs code : Nat) : Statement (.fault slot hs code) := of_none _ rfl

theorem leverOpen (slot : SlotId) (hs : Nat) : Statement (.leverOpen slot hs) := of_none _ rfl

theorem leverClosed (slot : SlotId) (hs : Nat) : Statement (.leverClosed slot hs) := of_none _ rfl

theorem clampState (slot : SlotId) (hs channel state : Nat) :
    Statement (.clampState slot hs channel state) := of_none _ rfl

theorem headMessageSetAside (slot : SlotId) (hs : Nat) (cause : SetAsideCause) :
    Statement (.headMessageSetAside slot hs cause) := of_none _ rfl

theorem headSentEvent (slot : SlotId) : Statement (.headSentEvent slot) := of_none _ rfl

theorem acceptStageExpiry (slot : SlotId) : Statement (.acceptStageExpiry slot) := of_none _ rfl

theorem runStageExpiry (slot : SlotId) : Statement (.runStageExpiry slot) := of_none _ rfl

theorem travelStageExpiry (slot : SlotId) : Statement (.travelStageExpiry slot) := of_none _ rfl

theorem graceStageExpiry (slot : SlotId) : Statement (.graceStageExpiry slot) := of_none _ rfl

theorem abortStageExpiry (slot : SlotId) : Statement (.abortStageExpiry slot) := of_none _ rfl

theorem rivetExpiryUnassigned (lane : LaneId) (place : Nat) :
    Statement (.rivetExpiryUnassigned lane place) := of_none _ rfl

theorem rivetExpiryAssigned (lane : LaneId) (place : Nat) :
    Statement (.rivetExpiryAssigned lane place) := of_none _ rfl

theorem cadenceExpiry (lane : LaneId) : Statement (.cadenceExpiry lane) := of_none _ rfl

theorem claimStarved (slot : SlotId) : Statement (.claimStarved slot) := of_none _ rfl

theorem guardChannelChange (channel : Channel) (level : Level) :
    Statement (.guardChannelChange channel level) := of_none _ rfl

theorem discrepancyExpiry : Statement .discrepancyExpiry := of_none _ rfl

theorem startDelimiter : Statement .startDelimiter := of_none _ rfl

theorem lineActivity (slot : SlotId) : Statement (.lineActivity slot) := of_none _ rfl

end Sys2Proof.Laws.CellKind
end

