-- ==== Sys2Proof/Laws/Tables.lean ====
section
/-! SUPPORT. The table entries within their ranges, spelled by their codes (R178, R114 check 1, R80 check 1, R101 check 1). -/

namespace Sys2Proof.Machine

theorem within_eq_true {low high n : Nat} : within low high n = true ↔ low ≤ n ∧ n ≤ high := by
  simp [within]

/-- The codes of an expected kind. -/
theorem expectedOf_eq_some {n : Nat} {k : Option HeadKind} : expectedOf n = some k ↔
    (n = 0 ∧ k = none) ∨ (n = 1 ∧ k = some .drill) ∨ (n = 2 ∧ k = some .set) ∨ (n = 3 ∧ k = some .heat)
      ∨ (n = 4 ∧ k = some .clamp) := by
  unfold expectedOf
  split <;> simp_all [eq_comm]

/-- The codes of a lane mode. -/
theorem laneModeOf_eq_some {n : Nat} {m : LaneMode} :
    laneModeOf n = some m ↔ (n = 1 ∧ m = .manual) ∨ (n = 2 ∧ m = .auto) := by
  unfold laneModeOf
  split <;> simp_all [eq_comm]

/-- A slot number in which 0 stands for no slot. -/
theorem mapped_eq_some {n : Nat} {x : Option SlotId} :
    (if n = 0 then some none else (slotOf n).map some) = some x ↔
      (n = 0 ∧ x = none) ∨ ∃ j : SlotId, n = j.val + 1 ∧ x = some j := by
  split
  · rename_i h
    simp [h, eq_comm]
  · rename_i h
    simp only [Option.map_eq_some_iff, slotOf_eq_some, h, false_and, false_or, eq_comm (b := x)]

theorem slotEntryOf_eq_some {a b c : Nat} {i : SlotId} {e : SlotEntry} : slotEntryOf a b c = some (i, e) ↔
    a = i.val + 1 ∧ c ≤ 15 ∧ e.home = c
      ∧ ((b = 0 ∧ e.expected = none) ∨ (b = 1 ∧ e.expected = some .drill) ∨ (b = 2 ∧ e.expected = some .set)
        ∨ (b = 3 ∧ e.expected = some .heat) ∨ (b = 4 ∧ e.expected = some .clamp)) := by
  rw [← expectedOf_eq_some, ← slotOf_eq_some]
  obtain ⟨expected, home⟩ := e
  unfold slotEntryOf
  cases slotOf a <;> cases expectedOf b <;> simp
  grind

theorem laneEntryOf_eq_some {a b c d f : Nat} {i : LaneId} {e : LaneEntry} :
    laneEntryOf a b c d f = some (i, e) ↔
      a = i.val + 1 ∧ ((b = 0 ∧ e.slot = none) ∨ ∃ j : SlotId, b = j.val + 1 ∧ e.slot = some j)
        ∧ 1 ≤ c ∧ c ≤ 6 ∧ e.cls = c ∧ ((d = 1 ∧ e.mode = .manual) ∨ (d = 2 ∧ e.mode = .auto)) ∧ f ≤ 4 ∧ e.target = f := by
  rw [← laneModeOf_eq_some, ← laneOf_eq_some, ← mapped_eq_some]
  obtain ⟨slot, cls, mode, target⟩ := e
  unfold laneEntryOf
  cases laneOf a <;> cases laneModeOf d <;> cases slotOf b <;> simp [within_eq_true] <;> grind

theorem zoneEntryOf_eq_some {zone slot channel : Nat} {z : ZoneId} {e : Option ZoneMap} :
    zoneEntryOf zone slot channel = some (z, e) ↔
      zone = z.val + 1 ∧ ((slot = 0 ∧ e = none)
        ∨ ∃ j : SlotId, slot = j.val + 1 ∧ 1 ≤ channel ∧ channel ≤ 4 ∧ e = some { slot := j, channel }) := by
  simp only [← zoneOf_eq_some, ← slotOf_eq_some]
  have zero : slotOf 0 = none := rfl
  unfold zoneEntryOf
  cases zoneOf zone with
  | none => simp
  | some y =>
    by_cases h : slot = 0
    · subst h; simp [zero, eq_comm]
    · cases slotOf slot <;> simp [h, within_eq_true]
      grind

end Sys2Proof.Machine
end

