-- ==== Sys2Proof/Laws/Words.lean ====
section
/-!
SUPPORT. The words of the statements (Sys2Proof/Safety.lean) at the envelopes: a weighed message is taken, refused LOCKED or
refused BAD_VALUE; a report is taken; and what `closed`, `replied`, `framed` and `settled` leave as it was.
-/

namespace Sys2Proof.Safety

open Sys2Proof.Machine

@[simp] theorem closed_setup (s : State) : (closed s).setup = s.setup := rfl
@[simp] theorem closed_live (s : State) : (closed s).live = s.live.closeFrame := rfl
@[simp] theorem closed_pending (s : State) : (closed s).pending = s.pending := rfl
@[simp] theorem replied_setup (s : State) (b : CellBody) : (replied s b).setup = s.setup := rfl
@[simp] theorem replied_pending (s : State) (b : CellBody) : (replied s b).pending = s.pending := rfl
@[simp] theorem settled_setup (s : State) (u : Taking) : (settled s u).setup = s.setup := rfl
@[simp] theorem settled_live (s : State) (u : Taking) : (settled s u).live = u.finish s.setup := rfl
@[simp] theorem settled_pending (s : State) (u : Taking) : (settled s u).pending = s.pending := rfl

theorem Plain.holds {h : Header} {n : Nat} (p : Plain h n) : (h.selector == 0) = true ∧ (h.length == n) = true := by
  simp [p.1, p.2]

theorem Selects.holds {h : Header} {k n : Nat} (p : Selects h k n) : (h.selector == k) = true ∧ (h.length == n) = true := by
  simp [p.1, p.2]

section

variable {form : ReplyForm} {h : Header} {exempt selOk lenOk lockable : Bool} {take : State → State} {s : State}

/-- A weighed message with its selector, its length and no lockout against it is taken. -/
theorem Weighed.taken (w : Weighed s) (a : selOk = true) (b : lenOk = true)
    (k : lockable = true → s.setup.lockout = false) :
    cellMessage form h exempt selOk lenOk lockable take s = .next (take (closed s)) := by
  obtain ⟨w1, w2, w3, w4⟩ := w
  rw [cellMessage_weighed w1 w2 w3 w4, if_neg (by simp [a, b]), if_neg]
  · rfl
  · intro e
    rw [k e.1] at e
    exact absurd e.2 (by simp)

/-- A weighed message that the lockout turns away. -/
theorem Weighed.locked (w : Weighed s) (a : selOk = true) (b : lenOk = true) (k : s.setup.lockout = true) :
    cellMessage form h exempt selOk lenOk true take s = .next (replied s (refusal form h.tag .locked)) := by
  obtain ⟨w1, w2, w3, w4⟩ := w
  rw [cellMessage_weighed w1 w2 w3 w4, if_neg (by simp [a, b]), if_pos ⟨rfl, k⟩]
  rfl

/-- A weighed message whose selector or length is wrong. -/
theorem Weighed.misshapen (w : Weighed s) (a : selOk = false ∨ lenOk = false) :
    cellMessage form h exempt selOk lenOk lockable take s = .next (replied s (refusal form h.tag .badValue)) := by
  obtain ⟨w1, w2, w3, w4⟩ := w
  rw [cellMessage_weighed w1 w2 w3 w4, if_pos a]
  rfl

end

/-- A report of a head is taken on the framed state. -/
theorem Reports.taken {slot : SlotId} {hs : Nat} {take : State → State} {s : State} (r : Reports s slot) :
    headReport slot hs take s = .next (take { s with live := framed s slot hs }) := headReport_taken r.1 r.2

/-- A taking begun on the live state of `s`. -/
theorem taking_settled (s : State) (f : Setup → Taking → Taking) :
    s.taking f = settled s (f s.setup (Taking.start s.live)) := rfl

/-- What the frame of a report leaves as it was: all but the head's link. -/
theorem framed_eq (s : State) (slot : SlotId) (hs : Nat) :
    framed s slot hs = { s.live with heads := (framed s slot hs).heads } := by
  unfold framed Live.headFrame
  split <;> rfl

end Sys2Proof.Safety
end

