-- ==== Sys2Proof/Tests/Slice0.lean ====
section
/-!
SUPPORT. Tests of the model on small states: the well-formedness checks, one or two steps of each family of commands, and
for each statement with hypotheses a state and operands that meet them (`witness_<statement>`).
-/

namespace Sys2Proof.Tests

set_option Elab.async false

open Sys2Proof Sys2Proof.Machine Sys2Proof.Safety

/-! ### Well-formed commands -/

/-- A header with selector 0. -/
def hd (n : Nat) : Header := { tag := 9, selector := 0, length := n }

/-- A header with a selector. -/
def sel (k n : Nat) : Header := { tag := 9, selector := k, length := n }

/-- A row that passes every check for hole 1. -/
def raw : RawRow :=
  { hole := 1, zone := 1, rail := .a, centre := 4, offset := 10, plies := 2, grip := 20, diameter := 2, force := 2
    predCount := 0, pred1 := 0, pred2 := 0 }

theorem test_wf_accepts :
    (Instr.drill (hd 8) 1 2 3).wf = true ∧ (Instr.patternRows (hd 20) 1 1 [raw]).wf = true
      ∧ (Instr.tableWriteZone (sel 3 7) 1 2 1).wf = true ∧ (Instr.queryPattern (sel 11 7) 1 (some 3)).wf = true
      ∧ (Instr.storeWrite (hd 7) 512 [0x55]).wf = true ∧ (Instr.unknownKind (hd 4) 0x70).wf = true
      ∧ (Instr.hello 0 1 1 (.drill (some .a) 4 7 100 0)).wf = true ∧ (Instr.done 0 1 9 (.result 1 250)).wf = true := by
  decide

theorem test_wf_header :
    (Instr.cancel { tag := 256, selector := 0, length := 4 }).wf = false
      ∧ (Instr.cancel { tag := 0, selector := 256, length := 4 }).wf = false ∧ (Instr.cancel (hd 3)).wf = false
      ∧ (Instr.cancel (hd 65)).wf = false ∧ (Instr.modeRun (sel 2 4)).wf = false
      ∧ (Instr.queryPump (sel 9 4)).wf = false := by
  decide

theorem test_wf_operands :
    (Instr.drill (hd 8) 256 1 1).wf = false ∧ (Instr.drill (hd 8) 1 65536 1).wf = false
      ∧ (Instr.ream (hd 8) 1 1 256).wf = false ∧ (Instr.setRivet (hd 7) 256 1).wf = false
      ∧ (Instr.heat (hd 6) 1 256).wf = false ∧ (Instr.clamp (hd 6) 0 256).wf = false
      ∧ (Instr.unclamp (hd 6) 256 1).wf = false ∧ (Instr.park (hd 5) 256).wf = false
      ∧ (Instr.patternOpen (hd 7) 1 65536).wf = false ∧ (Instr.patternDelete (hd 5) 256).wf = false
      ∧ (Instr.tableWriteTiming (sel 1 9) 1 4294967296).wf = false ∧ (Instr.tableWriteSlot (sel 2 7) 1 256 0).wf = false
      ∧ (Instr.tableWriteZone (sel 3 7) 1 1 256).wf = false ∧ (Instr.tableWriteLane (sel 4 9) 1 1 1 1 256).wf = false
      ∧ (Instr.tableWritePump (sel 5 5) 256).wf = false ∧ (Instr.frameBegin (hd 7) 1 65536).wf = false
      ∧ (Instr.holeRework (hd 6) 65536).wf = false ∧ (Instr.slotClear (hd 5) 256).wf = false
      ∧ (Instr.slotRelease (hd 5) 256).wf = false ∧ (Instr.lampSet (hd 6) 1 256).wf = false := by
  decide

theorem test_wf_queries :
    (Instr.queryHole (sel 2 6) 65536).wf = false ∧ (Instr.queryOrder (sel 3 6) 256 1).wf = false
      ∧ (Instr.querySlot (sel 4 5) 256).wf = false ∧ (Instr.queryRail (sel 5 7) 1 2 256).wf = false
      ∧ (Instr.queryLane (sel 6 5) 256).wf = false ∧ (Instr.queryZone (sel 7 5) 256).wf = false
      ∧ (Instr.queryTable (sel 10 6) 1 256).wf = false ∧ (Instr.queryPattern (sel 11 7) 1 (some 65536)).wf = false
      ∧ (Instr.storeRead (hd 7) 65536 1).wf = false ∧ (Instr.storeRead (hd 7) 1 256).wf = false
      ∧ (Instr.storeWrite (hd 8) 512 [0x55]).wf = false ∧ (Instr.unknownKind (hd 4) 0x10).wf = false
      ∧ (Instr.damagedFrame .cell []).wf = false := by
  decide

theorem test_wf_rows :
    ([ { raw with hole := 65536 }, { raw with zone := 32 }, { raw with centre := 256 }, { raw with offset := 65536 },
       { raw with plies := 256 }, { raw with grip := 256 }, { raw with diameter := 256 }, { raw with force := 256 },
       { raw with predCount := 4 }, { raw with pred1 := 65536 }, { raw with pred2 := 65536 } ] : List RawRow).all
        (fun r => !r.wf) = true
      ∧ (Instr.patternRows (hd 20) 1 1 []).wf = false := by
  decide

theorem test_wf_reports :
    (Instr.hello 0 256 1 .malformed).wf = false ∧ (Instr.hello 0 1 256 .malformed).wf = false
      ∧ (Instr.hello 0 1 1 (.drill none 256 0 1 0)).wf = false ∧ (Instr.hello 0 1 1 (.drill none 0 4294967296 1 0)).wf = false
      ∧ (Instr.hello 0 1 1 (.drill none 0 0 65536 0)).wf = false ∧ (Instr.hello 0 1 1 (.drill none 0 0 1 65536)).wf = false
      ∧ (Instr.hello 0 1 1 (.set none 256)).wf = false ∧ (Instr.hello 0 1 1 (.heat 256)).wf = false
      ∧ (Instr.hello 0 1 1 (.clamp 256)).wf = false ∧ (Instr.accept 0 1 1 (some 65536)).wf = false
      ∧ (Instr.done 0 1 1 (.serial 65536)).wf = false ∧ (Instr.done 0 1 1 (.result 256 0)).wf = false
      ∧ (Instr.done 0 1 1 (.result 1 65536)).wf = false ∧ (Instr.done 0 1 1 (.other 4)).wf = false
      ∧ (Instr.done 0 1 1 (.other 65)).wf = false ∧ (Instr.done 0 1 1 (.other 6)).wf = false
      ∧ (Instr.done 0 1 1 (.other 7)).wf = false := by
  decide

theorem test_wf_events :
    (Instr.abortedNone 0 1 256).wf = false ∧ (Instr.abortedPartial 0 256 1).wf = false
      ∧ (Instr.arrived 0 1 1 256).wf = false ∧ (Instr.fault 0 1 256).wf = false ∧ (Instr.leverOpen 0 256).wf = false
      ∧ (Instr.leverClosed 0 256).wf = false ∧ (Instr.clampState 0 1 256 1).wf = false
      ∧ (Instr.clampState 0 1 1 256).wf = false ∧ (Instr.headMessageSetAside 0 1 (.unknownKind 0xC0)).wf = false
      ∧ (Instr.headMessageSetAside 0 1 (.unknownKind 256)).wf = false
      ∧ (Instr.headMessageSetAside 0 256 .badLength).wf = false ∧ (Instr.rivetExpiryUnassigned 0 4).wf = false
      ∧ (Instr.rivetExpiryAssigned 0 4).wf = false := by
  decide

/-- The table gives no bits: a word spells no command, and a state takes none from it. -/
theorem test_no_word : decodeTableWord 32 0 = none ∧ State.reset.withFetchWord 32 0 = State.reset := ⟨rfl, rfl⟩

/-! ### The bench: a small line in RUN -/

/-- The rows of the bench pattern: two drill rows on rail A and B, and a third with both as predecessors. -/
def rows : List PatternRow :=
  [ { zone := 0, rail := .a, centre := 4, offset := 10, plies := 2, grip := 20, diameter := 2, force := 2, preds := [] },
    { zone := 0, rail := .b, centre := 10, offset := 10, plies := 2, grip := 20, diameter := 2, force := 2, preds := [] },
    { zone := 0, rail := .b, centre := 10, offset := 20, plies := 2, grip := 20, diameter := 2, force := 2
      preds := [1, 2] } ]

/-- A slot joined by a head. -/
def joined (d : Declared) : Slot := { Slot.reset with state := .ready, head := some { revision := 1, declared := d } }

/-- A hole of class 2 in a state. -/
def hole (st : HoleState) : Hole := { Hole.planned 2 with state := st }

/-- A rivet of class 2 heated at the start. -/
def rivet (serial : Nat) : Rivet := { serial, cls := 2, heatEnd := 0, window := 20000, tag := none }

/-- DRILL in slot 1, SET in slot 2, HEAT of lane 1 in slot 3, CLAMP in slot 4; zone 1 CLAMPED; pattern 1 bound with its
holes PLANNED, DRILLED and DEFECT; one rivet in lane 1. -/
def bench : State :=
  { State.reset with
    setup := { State.reset.setup with
      patterns := (Vector.replicate 4 none).set 0 (some { complete := true, count := 3, rows := rows.map some })
      freeRows := 2045
      frame := some { pattern := 0, serial := 7, count := 3 }
      tables := { Tables.defaults with
        zones := Tables.defaults.zones.set 0 (some { slot := 3, channel := 1 })
        lanes := Tables.defaults.lanes.set 0 { slot := some 2, cls := 2, mode := .manual, target := 2 } }
      mode := .run, preload := .done, engine := none, lockout := false }
    live := { Live.reset .power with
      holes := [hole .planned, hole .drilled, hole .defect]
      holdings := #v[some ⟨.a, ⟨3, 5⟩⟩, some ⟨.b, ⟨9, 11⟩⟩, none, none, none, none, none, none, none, none, none, none]
      lanes := (Vector.replicate 2 Lane.reset).set 0 { Lane.reset with stock := [rivet 5] }
      zones := (Vector.replicate 8 Zone.reset).set 0 { state := .clamped, expected := false }
      slots := #v[joined (.drill .a 4), joined (.set .b 10), joined (.heat 0), joined (.clamp 2), Slot.reset, Slot.reset,
        Slot.reset, Slot.reset, Slot.reset, Slot.reset, Slot.reset, Slot.reset]
      heads := Vector.replicate 12 { HeadLink.reset with up := true, silence := some 250 }
      notices := Vector.replicate 52 none } }

/-- The bench without a frame, in STANDBY. -/
def unbound : State := { bench with setup := { bench.setup with frame := none, mode := .standby } }

/-- The state after a command. -/
def after (i : Instr) (s : State) : State :=
  match exec i s with
  | .next t => t
  | _ => s

/-- The messages for the cell after a command. -/
def said (i : Instr) (s : State) : List CellBody := (after i s).live.cell.bodies

/-- The messages of a head link, the one in transmission first. -/
def sent (s : State) (slot : SlotId) : List HeadMsg := (s.live.heads[slot]).sending.toList ++ s.live.heads[slot].list

/-- An order record. -/
def order (tag : Nat) (kind : OrderKind) (slot : SlotId) (target : Target) (state : OrderState) : Order :=
  { tag, kind, slot, target, channel := none, centre := none, feed := none, state, wait := none, before := none
    rivet := none, units := none, cause := none, step := none, cancel := false, travelMark := none, issueMark := none }

/-- A state with orders in the pool. -/
def pooled (os : List Order) (s : State) : State := { s with live := { s.live with pool := os } }

/-- A state with a slot record changed. -/
def slotted (i : SlotId) (f : Slot → Slot) (s : State) : State := { s with live := s.live.updSlot i f }

/-- A state with the setup changed. -/
def setup (f : Setup → Setup) (s : State) : State := { s with setup := f s.setup }

/-- A slot busy with an order in a stage. -/
def busy (tag : Nat) (stage : TimedStage) (x : Slot) : Slot :=
  { x with state := .busy, work := .order tag, timer := some { stage, left := 500 } }

/-- The bench with a DRILL of hole 1 in flight in slot 1. -/
def drilling (st : OrderState) (step : Option AbortStep) (stage : TimedStage) : State :=
  slotted 0 (busy 9 stage) <| pooled
    [{ order 9 .drill 0 (.hole 1) st with
       centre := some 4, before := some .planned, issueMark := some .sent, step, cause := step.map fun _ => .guard }]
    { bench with live := { bench.live with holes := [hole .drilling, hole .drilled, hole .defect] } }

/-- The bench with a DRILL of slot 1 on its way to centre 8. -/
def travelling (st : OrderState) (step : Option AbortStep) : State :=
  let v : Travel := { tag := 9, target := 8, sweep := ⟨3, 9⟩, former := ⟨3, 5⟩ }
  let l := (bench.live.setHolding 0 (some ⟨.a, ⟨3, 9⟩⟩)).setTravel 0 (some v)
  slotted 0 (busy 9 .travel) <| pooled
    [{ order 9 .drill 0 (.hole 1) st with
       centre := some 8, travelMark := some .sent, step, cause := step.map fun _ => .guard }] { bench with live := l }

/-- The bench with a heat of lane 1's own in a step. -/
def heating (st : HeatStep) : State :=
  let g : Heat := { tag := 0, origin := .lane, slot := 2, cls := 2, serial := none, step := some st, mark := some .sent }
  slotted 2 (fun x => { x with state := .busy, work := .heat 0 }) { bench with live := bench.live.openHeat 0 g }

/-! ### One or two steps of each family -/

theorem test_patterns :
    said (.patternOpen (hd 7) 2 5) bench = [.answer 9 (.patternOpened 2040 5)]
      ∧ said (.patternRows (hd 20) 2 1 [raw]) (after (.patternOpen (hd 7) 2 1) bench) =
        [.answer 9 (.patternOpened 2044 1), .answer 9 (.patternRows true 1)]
      ∧ said (.patternDelete (hd 5) 1) bench = [.answer 9 (.refused .patternInUse)]
      ∧ said (.patternDelete (hd 5) 1) unbound = [.answer 9 (.patternDeleted 2048)] := by
  decide +kernel

theorem test_tables :
    said (.tableWriteTiming (sel 1 9) 1 0) bench = [.answer 9 (.timingWritten 1 0 4000)]
      ∧ said (.tableWriteSlot (sel 2 7) 1 2 0) bench = [.answer 9 (.refused .wrongKind)]
      ∧ said (.tableWriteZone (sel 3 7) 2 4 3) unbound = [.answer 9 (.refused .channels)]
      ∧ said (.tableWriteZone (sel 3 7) 2 4 2) unbound = [.answer 9 (.zoneWritten .unknown)]
      ∧ said (.tableWriteLane (sel 4 9) 1 3 2 2 4) bench = [.answer 9 (.laneWritten .ready)]
      ∧ said (.tableWritePump (sel 5 5) 15) bench = [.answer 9 (.pumpWritten 15 0)] := by
  decide +kernel

theorem test_frames :
    said (.frameBegin (hd 7) 1 8) unbound = [.answer 9 (.frameBegun 3)]
      ∧ said (.frameEnd (hd 4)) bench = [.answer 9 (.refused .zoneClamped)]
      ∧ said (.frameAbandon (hd 4)) bench = [.answer 9 (.frameReleased 7 [1, 0, 1, 0, 0, 0, 0, 0, 1, 0])]
      ∧ (after (.holeRework (hd 6) 3) bench).live.hole? 3 = some { hole .suspect with reworks := 1, cls := 3 } := by
  decide +kernel

theorem test_orders :
    said (.drill (hd 8) 1 1 1) bench = [.taken 9 .issued]
      ∧ sent (after (.drill (hd 8) 1 1 1) bench) 0 = [.issue 9 (.drill .drill 1 4 10 2 20 2 2 1)]
      ∧ said (.ream (hd 8) 1 1 1) bench = [.refused 9 .holeState]
      ∧ said (.drill (hd 8) 1 2 1) bench = [.refused 9 .wrongRail] := by
  decide +kernel

theorem test_orders_other :
    said (.setRivet (hd 7) 2 2) bench = [.taken 9 .issued]
      ∧ (after (.setRivet (hd 7) 2 2) bench).live.unitsInUse = 2
      ∧ said (.heat (hd 6) 3 1) bench = [.taken 9 .issued]
      ∧ said (.clamp (hd 6) 0 1) bench = [.taken 9 .issued]
      ∧ (after (.unclamp (hd 6) 0 1) bench).live.zones[0] = { state := .clamped, expected := true }
      ∧ said (.park (hd 5) 1) bench = [.taken 9 .travelling]
      ∧ said (.cancel (hd 4)) (pooled [order 9 .park 0 .home .waiting] bench) =
        [.taken 9 .left, orderDone bench.live (order 9 .park 0 .home .waiting) .cancelled none] := by
  decide +kernel

theorem test_modes :
    said (.modeRun (sel 1 4)) bench = [.answer 9 (.mode .run)] ∧ said (.modeHold (sel 2 4)) bench = [.answer 9 (.mode .hold)]
      ∧ said (.modeResume (sel 3 4)) bench = [.answer 9 (.refused .wrongMode)]
      ∧ (after (.guardChannelChange .one .opened) bench).setup.mode = .stop
      ∧ (after (.guardChannelChange .one .opened) bench).setup.guard.timer = some 50
      ∧ (after .discrepancyExpiry (after (.guardChannelChange .one .opened) bench)).setup.guard.state = .latched := by
  decide +kernel

theorem test_slots :
    said (.slotClear (hd 5) 1) (slotted 0 (fun x => { x with state := .faulted }) bench) = [.answer 9 .ok]
      ∧ said (.slotRelease (hd 5) 1) bench = [.answer 9 (.refused .slotState)]
      ∧ said (.lampSet (hd 6) 1 1) bench = [.answer 9 (.lamp .forceOn .steady false)]
      ∧ (after (.leverOpen 0 0) bench).live.slots[0].state = .leaving
      ∧ (after (.leverClosed 0 0) (after (.leverOpen 0 0) bench)).live.slots[0].state = .ready
      ∧ (after (.fault 0 0 3) bench).live.slots[0].fault = some { cause := .headFault, code := some 3, tag := none } := by
  decide +kernel

theorem test_queries :
    said (.queryHole (sel 2 6) 4) bench = [.answer 9 (.refused .badHole)]
      ∧ said (.queryOrder (sel 3 6) 2 1) bench = [.answer 9 (.orders 0 [])]
      ∧ said (.queryZone (sel 7 5) 9) bench = [.answer 9 (.refused .badValue)]
      ∧ said (.queryPump (sel 8 4)) bench =
        [.answer 9 (.pump { budget := 6, inUse := 0, waiting := 0, oldest := none, holders := [] })]
      ∧ said (.queryTable (sel 10 6) 5 0) bench = [.answer 9 (.table (.pump 6))]
      ∧ said (.noticeTake (hd 4)) bench = [.answer 9 .noNotice]
      ∧ said (.noticeTake (hd 4)) (after (.guardChannelChange .two .opened) bench) =
        [.answer 9 (.notice 0 .alarm { code := .guardOpen, detail := .none, overrun := false } 0)] := by
  decide +kernel

theorem test_store :
    said (.storeRead (hd 7) 8190 2) bench = [.answer 9 (.storeBytes 8190 2 [0xFF, 0xFF])]
      ∧ said (.storeRead (hd 7) 8191 2) bench = [.answer 9 (.refused .badAddress)]
      ∧ said (.storeWrite (hd 7) 255 [0x55]) bench = [.answer 9 (.refused .protected_)]
      ∧ (after .storeWriteEnd (after (.storeWrite (hd 7) 256 [0x55]) bench)).setup.store.cells = [(256, 0x55)]
      ∧ (after .preloadHeaderRead State.reset).setup.preload = .noImage
      ∧ said (.unlock (hd 4)) bench = [.answer 9 (.unlocked false)]
      ∧ said (.reload (hd 4)) bench = [.answer 9 (.refused .wrongMode)]
      ∧ said (.restart (hd 4)) bench = [.answer 9 .restarting] := by
  decide +kernel

theorem test_reports :
    (after (.accept 0 0 9 none) (drilling .issued none .accept)).live.slots[0].timer = some { stage := .run, left := 60000 }
      ∧ (after (.done 0 0 9 (.result 1 250)) (drilling .running none .run)).live.hole? 1 =
        some { hole .drilled with lastDrill := some 0, gauge := some .within, diameter := some 250 }
      ∧ (after (.abortedNone 0 0 9) (drilling .aborting (some .operation) .abort)).live.slots[0].work = .order 9
      ∧ (after (.abortedPartial 0 0 9) (drilling .aborting (some .operation) .abort)).live.pool = []
      ∧ (after (.arrived 0 0 9 8) (travelling .travelling none)).live.holdings[0] = some ⟨.a, ⟨7, 9⟩⟩
      ∧ (after (.done 2 0 0 (.serial 77)) (heating .running)).live.lanes[0].stock.length = 2
      ∧ (after (.clampState 3 0 1 2) bench).live.zones[0] = { state := .moving, expected := false } := by
  decide +kernel

/-- A HELLO of a DRILL head. -/
def helloDrill : HelloBody := .drill (some .a) 12 7 100 0

/-- The bench with slot 5 JOINING. -/
def joining : State := slotted 4 (fun x => { x with state := .joining }) bench

theorem test_joining :
    (after (.hello 4 0 1 helloDrill) joining).live.slots[4].state = .ready
      ∧ (after (.hello 4 0 1 helloDrill) joining).live.holdings[4] = some ⟨.a, ⟨11, 13⟩⟩
      ∧ (after (.hello 4 0 1 .malformed) joining).live.notices[noticeIndex 5 .warn] =
        some { code := .joinRefused, detail := .reason .badHello, overrun := false }
      ∧ (after (.linkUp 0) State.reset).live.slots[0].state = .joining
      ∧ sent (after (.lineActivity 0) State.reset) 0 = [.lamp .off]
      ∧ (after (.linkDown 0) bench).live.slots[0].state = .empty ∧ (after (.linkDown 0) bench).setup.now = 250 := by
  decide +kernel

theorem test_links :
    said (.unknownKind (hd 4) 0x70) bench = [.answer 9 (.refused .unknownKind)]
      ∧ (after (.damagedFrame .cell [0xD1, 0x04, 0xD2]) bench).live.cell.status.last = some .length
      ∧ (after (.damagedFrame (.head 0) [0xD2]) bench).live.heads[0].status.framing = 1
      ∧ (after .startDelimiter bench).live.cell.rx.state = .inside
      ∧ (after .holdoffDiscard bench) = bench ∧ (after .restartDiscardedFrame bench) = bench
      ∧ (after .cellSentEvent (after (.unlock (hd 4)) bench)).live.cell.sending = none
      ∧ (after .cellSentEvent (after (.restart (hd 4)) bench)).setup.resetCause = .restart
      ∧ sent (after (.headSentEvent 0) (after (.lampSet (hd 6) 1 1) bench)) 0 = []
      ∧ (after (.headMessageSetAside 0 4 .badLength) bench).live.heads[0].status.protocol = 2 := by
  decide +kernel

theorem test_resets :
    after .powerUp State.reset = State.reset ∧ (after .resetPinHeld bench).setup.resetHeld = true
      ∧ (after .resetPinRelease (after .resetPinHeld bench)).setup.resetCause = .pin
      ∧ after .headLinkHoldEnd bench = bench
      ∧ (after .preloadRecord bench) = bench ∧ (after .preloadEnd bench) = bench := by
  decide +kernel

theorem test_expiries :
    (after (.acceptStageExpiry 0) (drilling .issued none .accept)).live.slots[0].fault =
        some { cause := .noAccept, code := none, tag := some 9 }
      ∧ (after (.runStageExpiry 0) (drilling .running none .run)).live.slots[0].timer =
        some { stage := .graceRun, left := 5000 }
      ∧ (after (.travelStageExpiry 0) (travelling .travelling none)).live.slots[0].timer =
        some { stage := .graceTravel, left := 5000 }
      ∧ (after (.graceStageExpiry 0) (drilling .running none .graceRun)).live.hole? 1 = some (hole .suspect)
      ∧ (after (.abortStageExpiry 0) (drilling .aborting (some .operation) .abort)).live.slots[0].state = .faulted
      ∧ (after (.rivetExpiryUnassigned 0 0) bench).live.lanes[0].stock = []
      ∧ sent (after (.rivetExpiryUnassigned 0 0) bench) 2 = [.discard 5]
      ∧ after (.rivetExpiryAssigned 0 0) bench = bench ∧ after (.cadenceExpiry 0) bench = bench
      ∧ after (.claimStarved 0) bench = bench := by
  decide +kernel

/-- With nothing waiting the block does what is due: the store write runs down, and then ends. -/
theorem test_idle :
    (match step { bench with pending := [.powerUp] } with
      | .next t => t
      | _ => bench) = bench.takeReset .power
      ∧ (match step bench with
        | .next t => t
        | _ => bench) = bench.elapse 1
      ∧ (match step State.reset with
        | .next t => t.setup.preload
        | _ => .running) = .noImage := by
  decide +kernel

/-- The CRC of the check string, a frame whose body holds a delimiter, and an ISSUE as bytes (R164, R163, section 9.6). -/
theorem test_wire :
    crcOf [0x31, 0x32, 0x33, 0x34, 0x35, 0x36, 0x37, 0x38, 0x39] = 0x29B1#16
      ∧ escapeByte 0xD2 = [0xD3, 0xF2]
      ∧ HeadMsg.bytes 2 (.issue 0 (.heat 0 2)) = [0x07, 0xA0, 0x00, 0x03, 0x13, 0x01, 0x02]
      ∧ CellMsg.bytes { body := .taken 9 .issued, flags := ⟨true, false, false, true, .run⟩ } =
        [0x06, 0x80, 0x09, 0x92, 0x03, 0x00] := by
  decide +kernel

/-- What the links send (R163, R182, R183, R194), an ANSWER's result byte, and the order of an ANSWER's data (R7, R177). -/
theorem test_lines :
    bench.cellLine = [0xD0] ∧ bench.headLine 0 = [0xD0] ∧ (after .resetPinHeld bench).cellLine = []
      ∧ (bench.takeReset .restart).headLine 0 = [] ∧ (bench.takeReset .pin).headLine 0 = [0xD0]
      ∧ (after (.queryPump (sel 7 4)) bench).cellLine = frameOf [0x05, 0x83, 0x09, 0x02, 0x0C]
      ∧ bench.cellLineBits = [.start, .data false, .data false, .data false, .data false, .data true, .data false, .data true,
        .data true, .stop]
      ∧ (bench.headLineBits 0).length = 10 ∧ (after .resetPinHeld bench).cellLineBits = []
      ∧ (Answer.storeBytes 0 2 [0xD1, 0x01]).data = [.number 0, .number 2, .byte 0xD1, .byte 0x01]
      ∧ (Answer.mode .run).data = [.mode .run] ∧ (Answer.badRow 1 .zone).result = 26 := by
  decide +kernel

/-- A QUERY ZONE shows no channel count for a slot in JOINING (R111), and a QUERY PATTERN shows its hole number (R7). -/
theorem test_query_rows :
    (zoneView bench.setup bench.live 0).channels = some 2
      ∧ (zoneView bench.setup (slotted 3 (fun x => { x with state := .joining }) bench).live 0).channels = none
      ∧ said (.queryPattern (sel 11 7) 1 (some 2)) bench = (rows[1]?).toList.map fun r => .answer 9 (.row 2 r) := by
  decide +kernel

/-- A heat left on slot 3 by a RELOAD that maps lane 1 to slot 5 (R98). -/
def leftover : State :=
  slotted 4 (fun _ => joined (.heat 0)) <|
    setup (fun c => { c with tables := { c.tables with
      lanes := c.tables.lanes.set 0 { c.tables.lanes[0] with slot := some 4 } } }) (heating .running)

/-- The slot of the heat a lane has in flight. -/
def heatSlot (s : State) : Option SlotId := s.live.lanes[0].heat.map Heat.slot

/-- A HEAT of the new heater waits while the heat on the former one is in flight (R82, R87), which keeps its record (R98), and
is issued when that heat has ended; the fault of the new slot leaves the former heat, that of the former one fails it (R90), and
its DONE joins no rivet (R83). -/
theorem test_leftover_heat :
    let waits := after (.heat (hd 6) 5 1) leftover
    said (.heat (hd 6) 5 1) leftover = [.taken 9 (.waiting (some .laneFull))] ∧ heatSlot waits = some 2
      ∧ heatSlot (after (.done 2 1 0 (.serial 8)) waits) = some 4
      ∧ ((after (.done 2 1 0 (.serial 8)) waits).live.pool.map Order.state) = [.issued]
      ∧ (after (.done 2 1 0 (.serial 8)) waits).live.lanes[0].stock = leftover.live.lanes[0].stock
      ∧ heatSlot (after (.fault 4 1 3) leftover) = some 2 ∧ (after (.fault 4 1 3) leftover).live.lanes[0].fault = none
      ∧ heatSlot (after (.fault 2 1 3) leftover) = none
      ∧ ((after (.fault 2 1 3) leftover).live.lanes[0].fault.map LaneFault.slot) = some 2 := by
  decide +kernel

/-- The bench with hole 2 in zone 2, both zones CLAMPED by slot 4, and a SET of hole 2 and a DRILL of hole 1 whose ISSUEs are
unsent on LEAVING slots. -/
def twoZones : State :=
  let row := fun r : PatternRow => { r with zone := 1 }
  let s := setup (fun c => { c with
    patterns := c.patterns.set 0 (some { complete := true, count := 3, rows := (rows.modify 1 row).map some })
    tables := { c.tables with zones := c.tables.zones.set 1 (some { slot := 3, channel := 2 }) } }) bench
  let work := fun (tag : Nat) (x : Slot) => { busy tag .accept x with state := .leaving }
  slotted 0 (work 9) <| slotted 1 (work 4) <| pooled
    [ { order 4 .set 1 (.hole 2) .issued with before := some .drilled, issueMark := some .unsent },
      { order 9 .drill 0 (.hole 1) .issued with before := some .planned, issueMark := some .unsent } ]
    { s with live := { s.live with
      holes := [hole .drilling, hole .setting, hole .defect], zones := s.live.zones.set 1 { state := .clamped, expected := false } } }

/-- The orders that a command ends, in the order of their ORDER DONE messages, with their causes. -/
def ended (i : Instr) (s : State) : List (Nat × Option DoneCause) :=
  (said i s).filterMap fun m => match m with
    | .orderDone d => some (d.tag, d.cause)
    | _ => none

/-- The loss of a module with two CLAMPED zones: ORDER DONE in the order of arrival (R44), the first zone's number and OVERRUN
in the CLAMP_LOST entry (R108, R155), and both zones UNKNOWN (R109). -/
theorem test_two_zones_lost :
    ended (.fault 3 1 5) twoZones = [(4, some .slotLeaving), (9, some .slotLeaving)]
      ∧ (after (.fault 3 1 5) twoZones).live.notices[noticeIndex (slotSource 3) .alarm] =
          some { code := .clampLost, detail := .zone 0, overrun := true }
      ∧ (after (.fault 3 1 5) twoZones).live.holes.map Hole.state = [.planned, .suspect, .defect]
      ∧ (after (.fault 3 1 5) twoZones).live.zones.toList.map Zone.state = List.replicate 8 .unknown := by
  decide +kernel

/-- The ORDER DONE messages of a module's loss (R44): the order in flight first, the module's own where it has one, then the
others in the order of arrival, its WAITING orders among them; by a fault and by a link down alike. -/
theorem test_loss_order :
    let old := order 7 .unclamp 3 (.zone 0) .waiting
    let more := fun os : List Order => pooled (old :: twoZones.live.pool ++ os) twoZones
    let own := slotted 3 (busy 8 .run) (more [{ order 8 .clamp 3 (.zone 0) .running with issueMark := some .sent }])
    ended (.fault 3 1 5) (more []) = [(4, some .slotLeaving), (7, some .slotFaulted), (9, some .slotLeaving)]
      ∧ ended (.fault 3 1 5) own =
        [(8, some .headFault), (7, some .slotFaulted), (4, some .slotLeaving), (9, some .slotLeaving)]
      ∧ ended (.linkDown 3) own = [(8, some .linkLost), (7, some .slotLost), (4, some .slotLeaving), (9, some .slotLeaving)] := by
  decide +kernel

/-- A rivet that joined during a RELOAD's preload leaves a lane whose new heater slot is EMPTY or JOINING, and no other (R95). -/
theorem test_preload_stock :
    let lane := fun slot : Option SlotId =>
      let t := { Tables.defaults with lanes := Tables.defaults.lanes.set 0 { slot, cls := 2, mode := .manual, target := 2 } }
      ((unbound.endPreload .done t false).live.lanes[0]).stock
    lane (some 11) = [] ∧ lane none = [rivet 5] ∧ lane (some 2) = [rivet 5] := by
  decide +kernel

/-- A freed rivet stays in the stock of a lane whose entry names no slot, and leaves that of an EMPTY heater (R94). -/
theorem test_freed_rivet :
    let stock := fun slot : Option SlotId =>
      let c := { bench.setup with tables := { bench.setup.tables with
        lanes := bench.setup.tables.lanes.set 0 { slot, cls := 2, mode := .manual, target := 2 } } }
      (((bench.live.updLane 0 fun x => { x with stock := [{ rivet 5 with tag := some 4 }] }).freeRivet c 0 4).lanes[0]).stock
    stock none = [rivet 5] ∧ stock (some 2) = [rivet 5] ∧ stock (some 11) = [] := by
  decide +kernel

/-- A notice detail carries its kind (R153, R157), and a lane's own heat is no tag (R113, R139). -/
theorem test_detail_kinds :
    Detail.none.data = [.detailKind .none] ∧ (Detail.tag 9).data = [.detailKind .tag, .number 9]
      ∧ (Detail.cause .headFault (some 3)).data = [.detailKind .cause, .lossCause .headFault, .number 3]
      ∧ (Detail.cause .noAccept none).data = [.detailKind .cause, .lossCause .noAccept]
      ∧ (Work.heat 0).data = [.laneHeat] ∧ (Work.order 1).data = [.number 1]
      ∧ (workView (heating .running).live 2 (.heat 0)).data = [.laneHeat, .orderKind .heat, .heatStep .running] := by
  decide +kernel

/-- QUERY SLOT shows GRACE as one stage of the five, after RUN as after TRAVEL (R132, R139). -/
theorem test_query_slot_grace :
    (slotView (drilling .running none .graceRun).setup (drilling .running none .graceRun).live 0).data.contains
        (.stage .grace) = true
      ∧ StageTimer.data { stage := .graceRun, left := 500 } = [.stage .grace, .number 500]
      ∧ StageTimer.data { stage := .graceTravel, left := 500 } = [.stage .grace, .number 500] := by
  decide +kernel

/-! ### Witnesses: the hypotheses of each statement are met -/

/-- A state with one command waiting. -/
def front (i : Instr) (s : State) : State := { s with pending := [i] }

/-- The bench with a write in progress at the end of the store. -/
def writing : State :=
  setup (fun c => { c with store := { c.store with
    cells := [(0, 0x5A), (8191, 0x00)], writing := some { addr := 8191, data := [0x55], left := 5, answer := some 3 } } }) bench

/-- The bench with the lockout set, and no frame. -/
def locked : State := setup (fun c => { c with lockout := true }) unbound

/-- The bench in STOP with the guard LATCHED. -/
def stopped : State :=
  setup (fun c => { c with mode := .stop, guard := { c.guard with ch1 := .opened, state := .latched } }) bench

/-- The bench in HOLD. -/
def held : State := setup (fun c => { c with mode := .hold }) bench

/-- The bench with zone 1 OPEN. -/
def unclamped : State :=
  { bench with live := bench.live.updZone 0 fun _ => { state := .opened, expected := false } }

/-- A WAITING DRILL of hole 1 and a WAITING SET of hole 2. -/
def waiting : List Order :=
  [{ order 3 .drill 0 (.hole 1) .waiting with centre := some 4 }, { order 4 .set 1 (.hole 2) .waiting with centre := some 10 }]

theorem witness_SetupFrame :
    (∃ t, exec (.drill (hd 8) 1 1 1) bench = .next t) ∧ SetupPart.mode ∉ writes (.drill (hd 8) 1 1 1)
      ∧ SetupPart.storeBytes ∉ writes .powerUp ∧ SetupPart.lockout ∉ writes (.modeRun (sel 1 4)) :=
  ⟨⟨_, rfl⟩, by decide, by decide, by decide⟩

theorem witness_LiveFrame :
    (∃ t, exec (.abortedNone 0 0 9) (drilling .aborting (some .operation) .abort) = .next t)
      ∧ mayReset (.abortedNone 0 0 9) = false ∧ isOrder (.abortedNone 0 0 9) = false ∧ quiet (.abortedNone 0 0 9) = true :=
  ⟨⟨_, rfl⟩, rfl, rfl, rfl⟩

theorem witness_Envelopes :
    (after .resetPinHeld bench).setup.resetHeld = true ∧ underPin .startDelimiter = false
      ∧ headerOf (.cancel (sel 1 4)) = some (sel 1 4) ∧ (after (.restart (hd 4)) bench).setup.restart ≠ .idle
      ∧ (after (.restart (hd 4)) bench).setup.resetHeld = false ∧ bench.setup.resetHeld = false
      ∧ bench.setup.restart = .idle ∧ bench.live.cell.underHoldoff = false
      ∧ ({ bench with live := { bench.live with cell := { bench.live.cell with holdoff := true } } } : State).live.cell.underHoldoff
        = true
      ∧ State.reset.setup.preload = .running ∧ State.reset.live.cell.underHoldoff = false
      ∧ Weighed bench ∧ (sel 1 4).selector ≠ ownSelector (.cancel (sel 1 4)) ∧ (hd 5).length ≠ ownLength (.frameEnd (hd 5)) := by
  unfold Weighed
  decide +kernel

theorem witness_StepKeepsStore : StoreCanonical (front .powerUp writing) ∧ ∃ t, step (front .powerUp writing) = .next t :=
  ⟨⟨by decide +kernel, fun w e => by cases e; decide⟩, _, rfl⟩

theorem witness_StepKeepsRows : RowsBalanced (front .powerUp bench) ∧ ∃ t, step (front .powerUp bench) = .next t :=
  ⟨by unfold RowsBalanced; decide +kernel, _, rfl⟩

theorem witness_StepKeepsGuard :
    GuardClosedUnlessStop (front .powerUp bench) ∧ GuardClosedUnlessStop (front .powerUp stopped)
      ∧ ∃ t, step (front .powerUp stopped) = .next t :=
  ⟨by unfold GuardClosedUnlessStop; decide +kernel, by unfold GuardClosedUnlessStop; decide +kernel, _, rfl⟩

theorem witness_StepKeepsLockout :
    LockedUnbound (front .powerUp bench) ∧ LockedUnbound (front .powerUp locked) ∧ LockedUnbound (front .powerUp State.reset)
      ∧ ∃ t, step (front .powerUp locked) = .next t :=
  ⟨by unfold LockedUnbound; decide +kernel, by unfold LockedUnbound; decide +kernel,
    by unfold LockedUnbound; decide +kernel, _, rfl⟩

theorem witness_StepKeepsPool :
    PoolLaw (front .powerUp (pooled waiting bench)) ∧ ∃ t, step (front .powerUp (pooled waiting bench)) = .next t :=
  ⟨by unfold PoolLaw; decide +kernel, _, rfl⟩

theorem witness_PatternOpenAndDelete :
    Weighed bench ∧ Plain (hd 7) 7 ∧ Plain (hd 5) 5 ∧ patternOf 0 = none ∧ patternOf 5 = none ∧ patternOf 4 = some 3
      ∧ bench.setup.patterns[(0 : PatternId)] ≠ none ∧ bench.setup.patterns[(3 : PatternId)] = none
      ∧ 1024 ≤ bench.setup.freeRows ∧ (setup (fun c => { c with freeRows := 1023 }) bench).setup.freeRows < 1024
      ∧ bench.setup.frame.map Frame.pattern = some 0 ∧ unbound.setup.frame.map Frame.pattern ≠ some 0 := by
  unfold Weighed Plain
  decide +kernel

/-- A LOADING pattern of two holes, the first written. -/
def loading : Pattern := { complete := false, count := 2, rows := [some (rowOf raw), none] }

/-- The bench with pattern 2 LOADING. -/
def storing : State := setup (fun c => { c with patterns := c.patterns.set 1 (some loading) }) bench

theorem witness_PatternRows :
    Weighed storing ∧ Plain (hd 20) (6 + 14 * 1) ∧ Plain (hd 62) (6 + 14 * 4) ∧ patternOf 2 = some 1
      ∧ storing.setup.patterns[(1 : PatternId)] = some loading ∧ loading.rows.length = loading.count
      ∧ loading.complete = false ∧ rowsFault 2 [] 1 [{ raw with hole := 2 }] = none
      ∧ rowsFault 2 [] 1 [raw, { raw with hole := 3 }] = some (2, .hole) ∧ rowsFault 2 [] 1 [raw, raw] = some (2, .hole)
      ∧ rowFault 2 [] { raw with zone := 0, plies := 9 } = some .zone ∧ patternOf 3 = some 2
      ∧ storing.setup.patterns[(2 : PatternId)] = none ∧ (hd 20).selector = 0 ∧ (hd 20).length ≠ 6 + 14 * 2
      ∧ bench.setup.patterns[(0 : PatternId)] = some { complete := true, count := 3, rows := rows.map some } := by
  unfold Weighed Plain
  decide +kernel

theorem witness_FrameBegin :
    Weighed bench ∧ Weighed unbound ∧ Weighed locked ∧ Plain (hd 7) 7 ∧ locked.setup.lockout = true
      ∧ bench.setup.lockout = false ∧ bench.setup.mode ≠ .standby ∧ unbound.setup.lockout = false
      ∧ unbound.setup.mode = .standby ∧ patternOf 0 = none ∧ patternOf 1 = some 0 ∧ patternOf 2 = some 1
      ∧ unbound.setup.patterns[(1 : PatternId)] = none
      ∧ unbound.setup.patterns[(0 : PatternId)] = some { complete := true, count := 3, rows := rows.map some } := by
  unfold Weighed Plain
  decide +kernel

/-- The reasons of FRAME END in their order. -/
def endReason (s : State) : Option Reason :=
  firstReason
    [ (s.setup.lockout, .locked), (s.setup.frame.isNone, .noFrame), (s.setup.mode == .stop, .stopped),
      (s.live.pool.any (fun o => o.state != .waiting), .inFlight),
      (s.live.zones.toList.any (fun z => z.state == .clamped), .zoneClamped) ]

/-- The reasons of FRAME ABANDON in their order. -/
def abandonReason (s : State) : Option Reason :=
  firstReason
    [ (s.setup.lockout, .locked), (s.setup.frame.isNone, .noFrame),
      (s.live.pool.any (fun o => o.state != .waiting), .inFlight) ]

theorem witness_FrameEndAndAbandon :
    Weighed bench ∧ Plain (hd 4) 4 ∧ endReason locked = some .locked ∧ endReason unbound = some .noFrame
      ∧ endReason stopped = some .stopped ∧ endReason (drilling .running none .run) = some .inFlight
      ∧ endReason bench = some .zoneClamped ∧ Weighed locked ∧ Weighed unbound ∧ Weighed stopped
      ∧ abandonReason locked = some .locked ∧ abandonReason unbound = some .noFrame
      ∧ abandonReason (drilling .running none .run) = some .inFlight ∧ abandonReason stopped = none
      ∧ Weighed (drilling .running none .run) ∧ stopped.setup.lockout = false ∧ stopped.setup.mode = .stop
      ∧ (∀ o ∈ stopped.live.pool, o.state = .waiting) ∧ stopped.setup.frame = bench.setup.frame := by
  unfold Weighed Plain
  decide +kernel

theorem witness_FrameEndAndAbandon_released :
    Weighed (pooled waiting unclamped) ∧ (pooled waiting unclamped).setup.lockout = false
      ∧ (pooled waiting unclamped).setup.frame = some { pattern := 0, serial := 7, count := 3 }
      ∧ (∀ o ∈ (pooled waiting unclamped).live.pool, o.state = .waiting) ∧ (pooled waiting unclamped).setup.mode ≠ .stop
      ∧ ∀ z : ZoneId, (pooled waiting unclamped).live.zones[z].state ≠ .clamped := by
  unfold Weighed
  decide +kernel

/-- The same with a tool record in the DRILL slot, which gets TOOL SYNC, while slots 2 to 4 get none. -/
theorem witness_FrameEndAndAbandon_synced :
    let s := slotted 0 (fun x => { x with tool := some { id := 7, limit := 100, count := 3, spent := false } })
      (pooled waiting unclamped)
    Weighed s ∧ s.live.slots[(0 : SlotId)].state = .ready
      ∧ s.live.slots[(0 : SlotId)].head.map (fun g => g.declared.kind) = some .drill
      ∧ s.live.slots[(0 : SlotId)].tool.isSome = true
      ∧ s.live.slots[(1 : SlotId)].head.map (fun g => g.declared.kind) = some .set
      ∧ sent (after (.frameEnd (hd 4)) s) 0 = [.toolSync 7 100 3] ∧ sent (after (.frameEnd (hd 4)) s) 1 = [] := by
  unfold Weighed
  decide +kernel

/-- The reasons of HOLE REWORK in their order. -/
def reworkReason (n : Nat) (s : State) : Option Reason :=
  firstReason
    [ (s.setup.lockout, .locked), (s.setup.frame.isNone, .noFrame), ((s.live.hole? n).isNone, .badHole),
      ((s.live.hole? n).any (fun x => x.state != .defect), .holeState) ]

/-- The bench with its holes replaced. -/
def holed (hs : List Hole) : State := { bench with live := { bench.live with holes := hs } }

theorem witness_HoleRework :
    Weighed bench ∧ Plain (hd 6) 6 ∧ reworkReason 3 locked = some .locked ∧ reworkReason 3 unbound = some .noFrame
      ∧ reworkReason 0 bench = some .badHole ∧ reworkReason 4 bench = some .badHole
      ∧ reworkReason 1 bench = some .holeState ∧ bench.setup.lockout = false ∧ bench.setup.frame.isSome = true
      ∧ bench.live.hole? 3 = some (hole .defect) ∧ (hole .defect).reworks < 2 ∧ (hole .defect).cls < 6
      ∧ (holed [{ hole .defect with reworks := 2 }]).live.hole? 1 = some { hole .defect with reworks := 2 }
      ∧ (holed [{ hole .defect with cls := 6 }]).live.hole? 1 = some { hole .defect with cls := 6 } := by
  unfold Weighed Plain
  decide +kernel

theorem witness_HoleTakesIssue :
    bench.live.hole? 1 = some (hole .planned) ∧ bench.live.hole? 2 = some (hole .drilled)
      ∧ (holed [hole .suspect]).live.hole? 1 = some (hole .suspect)
      ∧ bench.live.predecessorsSet bench.setup 2 = true ∧ bench.live.predecessorsSet bench.setup 3 = false := by
  decide +kernel

/-- An assigned rivet. -/
def assigned (w : Whereabouts) : AssignedRivet := { lane := 0, serial := 5, whereabouts := w }

/-- A SET of hole 2 in slot 2 with its rivet. -/
def setOrder (w : Whereabouts) (st : OrderState) : Order :=
  { order 4 .set 1 (.hole 2) st with
    centre := some 10, before := some .drilled, units := some 2, rivet := some (assigned w), issueMark := some .sent }

theorem witness_HoleAfterEnd :
    (hole .drilling).cls < 6 ∧ 6 ≤ ({ hole .drilling with cls := 6 } : Hole).cls ∧ (0 : Nat) ≠ 1 ∧ (4 : Nat) ≠ 3
      ∧ (order 3 .drill 0 (.hole 1) .aborting).kind ≠ .set ∧ (setOrder .carried .aborting).kind = .set
      ∧ (setOrder .carried .aborting).rivet = some (assigned .carried) ∧ (assigned .carried).whereabouts = .carried
      ∧ (setOrder .cold .aborting).rivet = some (assigned .cold) ∧ (assigned .cold).whereabouts ≠ .carried := by
  decide

theorem witness_ZoneSweep :
    bench.live.hole? 2 = some (hole .drilled) ∧ (bench.setup.row? 2).map PatternRow.zone = some 0
      ∧ (bench.live.sweep bench.setup 0).hole? 2 = some (hole .suspect)
      ∧ (bench.live.sweep bench.setup 1).hole? 2 = some (hole .drilled) := by
  decide +kernel

/-- An order message of tag 9. -/
def msg (k : OrderKind) (slot target : Nat) : OrderMsg :=
  { kind := k, tag := 9, slot, hole := if needsHole k then target else 0
    zone := if k = .clamp ∨ k = .unclamp then target else 0, lane := if k = .heat then target else 0
    feed := if k = .drill ∨ k = .ream then 1 else 0 }

/-- The first reason of R27 for a message. -/
def reasonOf (s : State) (m : OrderMsg) : Option Reason := firstReason (refusals s.setup s.live m)

/-- A full pool of heats. -/
def fullPool : List Order := (List.range 32).map fun n => order (n + 100) .heat 2 (.lane 0) .waiting

theorem witness_AdmissionRefused :
    Weighed bench ∧ (hd 8).selector = 0 ∧ (hd 9).length ≠ 8
      ∧ reasonOf locked (msg .park 1 0) = some .locked ∧ reasonOf stopped (msg .park 1 0) = some .stopped
      ∧ reasonOf unbound (msg .drill 1 1) = some .noFrame
      ∧ reasonOf bench { msg .park 1 0 with tag := 0 } = some .tagInUse
      ∧ reasonOf (pooled fullPool bench) (msg .park 1 0) = some .poolFull
      ∧ reasonOf bench (msg .park 0 0) = some .badSlot ∧ reasonOf bench (msg .park 13 0) = some .badSlot
      ∧ reasonOf bench (msg .clamp 0 2) = some .badZone ∧ reasonOf bench (msg .park 12 0) = some .slotAbsent
      ∧ reasonOf (slotted 0 (fun x => { x with state := .faulted }) bench) (msg .park 1 0) = some .slotFaulted
      ∧ reasonOf (slotted 0 (fun x => { x with state := .leaving }) bench) (msg .park 1 0) = some .slotLeaving
      ∧ reasonOf bench (msg .set 1 2) = some .wrongKind
      ∧ reasonOf bench { msg .drill 1 1 with feed := 5 } = some .badValue
      ∧ reasonOf bench (msg .drill 1 4) = some .badHole := by
  unfold Weighed
  decide +kernel

theorem witness_AdmissionRefused_late :
    reasonOf bench (msg .heat 3 2) = some .badLane ∧ reasonOf bench (msg .drill 1 2) = some .wrongRail
      ∧ reasonOf bench (msg .ream 1 1) = some .holeState
      ∧ reasonOf (pooled waiting bench) (msg .drill 1 1) = some .holeClaimed
      ∧ reasonOf (setup (fun c => { c with tables := { c.tables with
          lanes := c.tables.lanes.set 0 { slot := some 2, cls := 2, mode := .auto, target := 2 } } }) bench)
          (msg .heat 3 1) = some .laneAuto
      ∧ reasonOf (slotted 0 (fun x => { x with tool := some { id := 1, limit := 1, count := 1, spent := true } }) bench)
          (msg .drill 1 1) = some .toolSpent
      ∧ Weighed (pooled waiting bench) := by
  unfold Weighed
  decide +kernel

theorem witness_OrderTaken :
    Weighed bench ∧ (hd 8).selector = 0 ∧ (hd 8).length = 8 ∧ (hd 7).length = 7 ∧ (hd 6).length = 6 ∧ (hd 5).length = 5
      ∧ reasonOf bench (msg .drill 1 1) = none ∧ reasonOf (holed [hole .suspect]) (msg .ream 1 1) = none
      ∧ reasonOf bench (msg .set 2 2) = none ∧ reasonOf bench (msg .heat 3 1) = none
      ∧ reasonOf bench (msg .clamp 0 1) = none ∧ reasonOf bench (msg .unclamp 0 1) = none
      ∧ reasonOf bench (msg .park 1 0) = none := by
  unfold Weighed
  decide +kernel

theorem witness_WaitConditions :
    (order 3 .drill 0 (.hole 1) .waiting).kind = .drill ∧ (order 3 .ream 0 (.hole 1) .waiting).target = .hole 1
      ∧ (order 4 .set 1 (.hole 2) .waiting).kind = .set ∧ (order 5 .heat 2 (.lane 1) .waiting).target = .lane 1
      ∧ (order 6 .clamp 3 (.zone 7) .waiting).target = .zone 7 ∧ (order 6 .unclamp 3 (.zone 0) .waiting).target = .zone 0
      ∧ (order 7 .park 0 .home .waiting).kind = .park := by
  decide

/-- A claim of slot 1 for centre 8. -/
def claim : Request := { slot := 0, tag := 9, target := 8, sweep := ⟨3, 9⟩, waited := 0, patience := 8000, urgent := false }

/-- The bench with a claim of slot 1 filed on rail A. -/
def claiming : State := { bench with live := { bench.live with requestsA := [claim] } }

/-- The same with the WAITING order of that claim: it ends with its slot's fault, its slot's link, the lever and the frame, and
its claim with it (R53, R61). -/
def claimed : State := pooled [{ order 9 .park 0 .home .waiting with centre := some 8 }] claiming

/-- What a command leaves of the pool and of the claims on rail A. -/
def leftBy (i : Instr) (s : State) : List Order × List Request := ((after i s).live.pool, (after i s).live.requestsA)

theorem witness_claims_withdrawn :
    Weighed claimed ∧ Reports claimed 0 ∧ claimed.live.request? 9 = some claim
      ∧ (∀ o ∈ claimed.live.pool, o.slot = 0 ∧ o.state = .waiting) ∧ (claimed.live.pool.map Order.tag).Nodup
      ∧ claimed.live.slots[(0 : SlotId)].work = .idle
      ∧ [.frameAbandon (hd 4), .linkDown 0, .leverOpen 0 0, .fault 0 0 3].map (leftBy · claimed) =
        List.replicate 4 ([], []) := by
  unfold Weighed Reports
  decide +kernel

/-- The bench with one WAITING order of slot 1 for a centre and a hole. -/
def waits (centre : Nat) (k : OrderKind) (n : Nat) : State :=
  pooled [{ order 3 k 0 (.hole n) .waiting with centre := some centre }] bench

/-- The first unmet condition of the oldest order. -/
def unmet (s : State) : Option WaitReason := s.live.pool.head?.bind fun o => s.live.unmet s.setup false o

theorem witness_WaitConditions_examined :
    unmet (waits 4 .drill 1) = none ∧ unmet (waits 8 .drill 1) = some .position
      ∧ (waits 8 .drill 1).live.request? 3 = none ∧ (waits 8 .drill 1).live.holdings[(0 : SlotId)] = some ⟨.a, ⟨3, 5⟩⟩
      ∧ claiming.live.request? 9 ≠ none ∧ bench.live.hole? 2 = some (hole .drilled)
      ∧ OrderKind.drill.admittedBy (hole .drilled).state = false
      ∧ bench.live.unmet bench.setup true { order 4 .set 1 (.hole 2) .waiting with centre := some 10 } = some .queued
      ∧ (pooled [order 4 .set 1 (.hole 2) .waiting] bench).live.unmet bench.setup true
          { order 4 .set 1 (.hole 2) .waiting with centre := some 10 } = some .pump
      ∧ (waits 4 .drill 1).live.unmet held.setup false { order 3 .drill 0 (.hole 1) .waiting with centre := some 4 } = some .mode
      ∧ (pooled [order 7 .park 0 .home .waiting] bench).live.unmet bench.setup false
          { order 7 .park 0 .home .waiting with centre := some 4 } = none
      ∧ ((waits 4 .drill 1).live.order? 3).map Order.state = some .waiting ∧ bench.live.order? 3 = none
      ∧ (pooled [order 5 .heat 4 (.lane 0) .waiting] leftover).live.unmet leftover.setup false
          (order 5 .heat 4 (.lane 0) .waiting) = none
      ∧ leftover.live.lanes[(0 : LaneId)].heat ≠ none ∧ bench.live.lanes[(0 : LaneId)].heat = none := by
  decide +kernel

/-- The bench with a stock in each lane. -/
def stocked : State :=
  { bench with live := { bench.live with
      lanes := #v[{ Lane.reset with stock := [rivet 5, { rivet 6 with heatEnd := 1 }] }, { Lane.reset with stock := [rivet 7] }] } }

theorem witness_OldestRivet :
    stocked.live.bestRivet stocked.setup 2 = some (0, 0, rivet 5) ∧ stocked.live.bestRivet stocked.setup 3 = none
      ∧ (∀ k : LaneId, (stocked.live.lanes[k].stock.map Rivet.heatEnd).Pairwise (· ≤ ·))
      ∧ stocked.live.lanes[(1 : LaneId)].stock[0]? = some (rivet 7) ∧ (rivet 7).tag = none ∧ (rivet 7).cls = 2
      ∧ stocked.setup.acted Timing.transferAllowance ≤ (rivet 7).window - (stocked.setup.now - (rivet 7).heatEnd) := by
  decide +kernel

theorem witness_HoleOrdersIssued_drill :
    (order 3 .drill 0 (.hole 1) .waiting).kind = .drill ∧ bench.setup.row? 1 = rows[0]?
      ∧ bench.live.hole? 1 = some (hole .planned) ∧ OrderKind.drill.admittedBy (hole .planned).state = true
      ∧ (holed [hole .undersize]).live.hole? 1 = some (hole .undersize)
      ∧ OrderKind.ream.admittedBy (hole .undersize).state = true := by
  decide +kernel

theorem witness_HoleOrdersIssued_set :
    (order 4 .set 1 (.hole 2) .waiting).kind = .set ∧ bench.setup.row? 2 = rows[1]?
      ∧ bench.live.hole? 2 = some (hole .drilled) ∧ bench.live.predecessorsSet bench.setup 2 = true
      ∧ bench.live.bestRivet bench.setup (hole .drilled).cls = some (0, 0, rivet 5) := by
  decide +kernel

theorem witness_OtherOrdersIssued :
    (order 5 .heat 2 (.lane 0) .waiting).kind = .heat ∧ (order 5 .heat 2 (.lane 0) .waiting).target = .lane 0
      ∧ (order 6 .clamp 3 (.zone 0) .waiting).target = .zone 0
      ∧ ({ order 6 .clamp 3 (.zone 0) .waiting with channel := some 1 } : Order).channel = some 1
      ∧ (order 6 .unclamp 3 (.zone 0) .waiting).kind = .unclamp
      ∧ ({ order 6 .unclamp 3 (.zone 0) .waiting with channel := some 1 } : Order).channel = some 1
      ∧ bench.live.zones[(0 : ZoneId)].state ≠ .opened ∧ unclamped.live.zones[(0 : ZoneId)].state = .opened := by
  decide +kernel

theorem witness_Cancel :
    Weighed locked ∧ Plain (hd 4) 4 ∧ locked.setup.lockout = true ∧ Weighed bench ∧ bench.setup.lockout = false
      ∧ bench.live.order? 9 = none ∧ (hd 4).tag ≠ 0
      ∧ ((pooled [order 9 .park 0 .home .waiting] bench).live.order? 9).map Order.state = some .waiting
      ∧ ((drilling .aborting (some .operation) .abort).live.order? 9).map Order.state = some .aborting
      ∧ ((drilling .issued none .accept).live.order? 9).map (fun o => (o.state, o.unsent)) = some (.issued, false)
      ∧ ((drilling .running none .run).live.order? 9).map (fun o => (o.state, o.unsent)) = some (.running, false)
      ∧ ((travelling .travelling none).live.order? 9).map (fun o => (o.state, o.unsent)) = some (.travelling, false)
      ∧ Weighed (drilling .issued none .accept) ∧ Weighed (travelling .travelling none) := by
  unfold Weighed Plain
  decide +kernel

/-- A state with every message of its orders still unsent. -/
def recalled (s : State) : State :=
  pooled (s.live.pool.map fun o =>
    { o with issueMark := o.issueMark.map fun _ => .unsent, travelMark := o.travelMark.map fun _ => .unsent }) s

theorem witness_Cancel_unsent :
    ((recalled (drilling .issued none .accept)).live.order? 9).map (fun o => (o.state, o.unsent, o.travelMark)) =
          some (.issued, true, none)
      ∧ ((recalled (travelling .travelling none)).live.order? 9).map (fun o => (o.state, o.unsent, o.travelMark)) =
          some (.travelling, true, some .unsent)
      ∧ Weighed (recalled (drilling .issued none .accept)) ∧ Weighed (recalled (travelling .travelling none))
      ∧ (Taking.start (recalled (drilling .issued none .accept)).live).holdDones = false
      ∧ (recalled (travelling .travelling none)).live.travels[(0 : SlotId)] =
          some { tag := 9, target := 8, sweep := ⟨3, 9⟩, former := ⟨3, 5⟩ }
      ∧ (recalled (travelling .travelling none)).live.holdings[(0 : SlotId)] = some ⟨.a, ⟨3, 9⟩⟩
      ∧ (recalled (drilling .issued none .accept)).live.slots[(0 : SlotId)].state = .busy := by
  unfold Weighed
  decide +kernel

theorem witness_StrayReports :
    Reports bench 0 ∧ (framed bench 0 3).ownHeat 0 = none ∧ (framed bench 0 0).orderOf? 0 9 = none
      ∧ bench.live.travels[(0 : SlotId)] = none
      ∧ bench.setup.resetHeld = false ∧ bench.live.slots[(11 : SlotId)].state = .empty := by
  unfold Reports
  decide +kernel

/-- The bench with a HEAT order of lane 1 in slot 3. -/
def heatOrder (st : OrderState) : State :=
  let g : Heat := { tag := 9, origin := .order, slot := 2, cls := 2, serial := none, step := none, mark := none }
  slotted 2 (busy 9 .accept) <| pooled
    [{ order 9 .heat 2 (.lane 0) st with issueMark := some .sent }] { bench with live := bench.live.openHeat 0 g }

/-- The bench with a SET of hole 2 in slot 2. -/
def setting (w : Whereabouts) (st : OrderState) (step : Option AbortStep) : State :=
  slotted 1 (busy 4 .run) <| pooled [{ setOrder w st with step, cause := step.map fun _ => .rivetCold }]
    { bench with live := { bench.live with
        holes := [hole .planned, hole .setting, hole .defect], unitsInUse := 2
        lanes := bench.live.lanes.set 0 { Lane.reset with
          stock := if w = .lane then [{ rivet 5 with tag := some 4 }] else [] } } }

theorem witness_Accepts :
    Reports (drilling .issued none .accept) 0 ∧ Reports (setting .lane .issued none) 1 ∧ Reports (heatOrder .issued) 2
      ∧ ((drilling .issued none .accept).live.orderOf? 0 9).map (fun o => (o.state, o.kind)) = some (.issued, .drill)
      ∧ ((setting .lane .issued none).live.orderOf? 1 4).map (fun o => (o.state, o.kind)) = some (.issued, .set)
      ∧ ((heatOrder .issued).live.orderOf? 2 9).map (fun o => (o.state, o.kind)) = some (.issued, .heat)
      ∧ (setting .lane .issued none).live.lanes[(0 : LaneId)].stock = [{ rivet 5 with tag := some 4 }]
      ∧ ((drilling .running none .run).live.orderOf? 0 9).map Order.state = some .running
      ∧ Reports (drilling .running none .run) 0 ∧ (some 7).isSome = true ∧ OrderKind.drill ≠ .heat
      ∧ ((travelling .travelling none).live.orderOf? 0 9).map Order.state = some .travelling
      ∧ Reports (travelling .travelling none) 0 := by
  unfold Reports
  decide +kernel

theorem witness_DoneReports :
    Reports (drilling .running none .run) 0 ∧ Reports (setting .carried .running none) 1 ∧ Reports (heatOrder .running) 2
      ∧ ((drilling .running none .run).live.orderOf? 0 9).any Order.operating = true
      ∧ ((drilling .aborting (some .operation) .abort).live.orderOf? 0 9).any Order.operating = true
      ∧ ((setting .carried .running none).live.orderOf? 1 4).any Order.operating = true
      ∧ ((heatOrder .running).live.orderOf? 2 9).any Order.operating = true
      ∧ doneResult .drill (.result 1 250) = some (1, 250, none) ∧ doneResult .heat (.serial 7) = some (0, 0, some 7)
      ∧ doneResult .clamp .bare = some (0, 0, none) ∧ doneResult .drill .bare = none
      ∧ ((travelling .travelling none).live.orderOf? 0 9).any Order.operating = false
      ∧ ((travelling .travelling none).live.orderOf? 0 9).isSome = true ∧ Reports (travelling .travelling none) 0 := by
  unfold Reports
  decide +kernel

/-- The bench with a DRILL under way in slot 1, a REAM waiting behind it, and a tool of 7 holes with a count. -/
def tooled (count : Nat) : State :=
  let s := drilling .running none .run
  slotted 0 (fun x => { x with tool := some { id := 1, limit := 7, count, spent := false } })
    (pooled (s.live.pool ++ [order 3 .ream 0 (.hole 2) .waiting]) s)

/-- A gauge code that names no result records PROTOCOL, and none while the zone is not CLAMPED (R15, log entry 14). -/
theorem test_bad_gauge :
    let work := drilling .running none .run
    let loose := { work with live := work.live.updZone 0 fun z => { z with state := .moving } }
    (after (.done 0 1 9 (.result 4 250)) work).live.heads[(0 : SlotId)].status.protocol = 1
      ∧ (after (.done 0 1 9 (.result 4 250)) loose).live.heads[(0 : SlotId)].status.protocol = 0
      ∧ work.live.hole? 2 = some (hole .drilled) := by
  decide +kernel

theorem witness_DoneReports_effects :
    rivetIn (setOrder .lane .running) 0 = true ∧ rivetIn (setOrder .carried .running) 0 = false
      ∧ ((heatOrder .running).live.lanes[(0 : LaneId)].heatOn 2).map Heat.origin = some .order
      ∧ (tooled 6).live.slots[(0 : SlotId)].tool = some { id := 1, limit := 7, count := 6, spent := false }
      ∧ (tooled 5).live.slots[(0 : SlotId)].tool = some { id := 1, limit := 7, count := 5, spent := false }
      ∧ Reports (tooled 6) 0 ∧ ((tooled 6).live.orderOf? 0 9).any Order.operating = true
      ∧ ((tooled 6).live.pool.map fun o => (o.tag, o.slot, o.state, o.kind)) =
          [(9, 0, .running, .drill), (3, 0, .waiting, .ream)] := by
  unfold Reports
  decide +kernel

/-- An order's facts that the abort statements ask for. -/
def abortFacts (s : State) (slot : SlotId) (tag : Nat) : Option (OrderState × Option AbortStep × Bool) :=
  (s.live.orderOf? slot tag).map fun o => (o.state, o.step, o.cancel)

theorem witness_AbortedReports :
    Reports (drilling .aborting (some .operation) .abort) 0
      ∧ abortFacts (drilling .aborting (some .operation) .abort) 0 9 = some (.aborting, some .operation, false)
      ∧ ((drilling .aborting (some .operation) .abort).live.pool.map Order.tag).Nodup
      ∧ abortFacts (pooled ((drilling .aborting (some .operation) .abort).live.pool.map fun o => { o with cancel := true })
          (drilling .aborting (some .operation) .abort)) 0 9 = some (.aborting, some .operation, true)
      ∧ (slotted 0 (fun x => { x with state := .leaving }) (drilling .aborting (some .operation) .abort)).live.slots[
          (0 : SlotId)].state = .leaving
      ∧ Reports (setting .carried .aborting (some .operation)) 1
      ∧ abortFacts (setting .carried .aborting (some .operation)) 1 4 = some (.aborting, some .operation, false)
      ∧ Reports (drilling .running none .run) 0
      ∧ abortFacts (drilling .running none .run) 0 9 = some (.running, none, false) := by
  unfold Reports
  decide +kernel

/-- A SET aborting with its rivet in a lane, joined or without a heater. -/
theorem witness_AbortedReports_rivet :
    Reports (setting .lane .aborting (some .operation)) 1
      ∧ ((setting .lane .aborting (some .operation)).live.order? 4).any (fun o => rivetIn o 0) = true
      ∧ (setting .lane .aborting (some .operation)).setup.tables.lanes[(0 : LaneId)].slot = some 2
      ∧ (setting .lane .aborting (some .operation)).live.slots[(2 : SlotId)].state.joined = true
      ∧ ((setting .carried .aborting (some .operation)).live.order? 4).any (fun o => rivetIn o 0) = false := by
  unfold Reports
  decide +kernel

theorem witness_RailGrant :
    (0 : Nat) ≤ 15 ∧ (15 : Nat) ≤ 15 ∧ (⟨0, 1⟩ : Run).first ≤ (⟨0, 1⟩ : Run).last ∧ (⟨14, 15⟩ : Run).last ≤ 15
      ∧ span 0 = ⟨0, 1⟩ ∧ span 15 = ⟨14, 15⟩ ∧ sweepOf ⟨0, 1⟩ 15 = ⟨0, 15⟩
      ∧ bench.live.holdings[claim.slot] = some ⟨.a, ⟨3, 5⟩⟩
      ∧ (∀ x : SlotId, x ≠ claim.slot → bench.live.holdings[x] = none ∨ bench.live.holdings[x] = some ⟨.b, ⟨9, 11⟩⟩)
      ∧ (bench.live.setHolding 4 (some ⟨.a, ⟨9, 11⟩⟩)).blocked claim.slot .a claim.sweep = true := by
  decide +kernel

/-- The facts of an order's travel that the arrival statements ask for. -/
def travelFacts (s : State) (slot : SlotId) (tag : Nat) : Option (OrderState × Option AbortStep × Option Mark) :=
  (s.live.orderOf? slot tag).map fun o => (o.state, o.step, o.travelMark)

theorem witness_Arrivals :
    Reports (travelling .travelling none) 0 ∧ Reports (travelling .aborting (some .travel)) 0
      ∧ (travelling .travelling none).live.travels[(0 : SlotId)] = some { tag := 9, target := 8, sweep := ⟨3, 9⟩, former := ⟨3, 5⟩ }
      ∧ travelFacts (travelling .travelling none) 0 9 = some (.travelling, none, some .sent)
      ∧ travelFacts (travelling .aborting (some .travel)) 0 9 = some (.aborting, some .travel, some .sent)
      ∧ (travelling .travelling none).live.holdings[(0 : SlotId)] = some ⟨.a, ⟨3, 9⟩⟩
      ∧ ((travelling .travelling none).live.pool.map Order.tag).Nodup
      ∧ (span 4).inside ⟨3, 9⟩ = true ∧ (span 8).inside ⟨3, 9⟩ = true ∧ (span 9).inside ⟨3, 9⟩ = false
      ∧ Reports bench 0 ∧ bench.live.travels[(0 : SlotId)] = none := by
  unfold Reports
  decide +kernel

theorem witness_TimingAndPumpWrites :
    Weighed bench ∧ Selects (sel 1 9) 1 9 ∧ Selects (sel 5 5) 5 5 ∧ timingOf 0 = none ∧ timingOf 13 = none
      ∧ timingOf 1 = some 0 ∧ timingOf 12 = some 11 ∧ timingMaxima[(0 : TimingEntry)] < 60001
      ∧ ¬ timingMaxima[(0 : TimingEntry)] < 60000
      ∧ max 4000 4000 ≤ max 4000 500 ∧ ¬ max 4000 4000 ≤ max 3999 500 := by
  unfold Weighed Selects
  decide +kernel

theorem witness_SlotAndLaneWrites :
    Weighed bench ∧ Selects (sel 2 7) 2 7 ∧ Selects (sel 4 9) 4 9 ∧ slotEntryOf 13 0 0 = none ∧ slotEntryOf 1 5 0 = none
      ∧ slotEntryOf 1 0 16 = none ∧ slotEntryOf 1 2 15 = some (0, { expected := some .set, home := 15 })
      ∧ bench.live.slots[(0 : SlotId)].state.joined = true ∧ bench.live.slots[(0 : SlotId)].kind? = some .drill
      ∧ slotEntryOf 1 0 0 = some (0, { expected := none, home := 0 })
      ∧ laneEntryOf 3 0 1 1 0 = none ∧ laneEntryOf 1 0 7 1 0 = none ∧ laneEntryOf 1 0 1 3 0 = none ∧ laneEntryOf 1 0 1 1 5 = none
      ∧ laneEntryOf 2 3 1 1 4 = some (1, { slot := some 2, cls := 1, mode := .manual, target := 4 })
      ∧ bench.setup.tables.lanes[(0 : LaneId)].slot = some 2
      ∧ laneEntryOf 1 3 1 1 0 = some (0, { slot := some 2, cls := 1, mode := .manual, target := 0 })
      ∧ bench.live.lanes[(0 : LaneId)].stock ≠ []
      ∧ laneEntryOf 1 3 2 2 4 = some (0, { slot := some 2, cls := 2, mode := .auto, target := 4 }) := by
  unfold Weighed Selects
  decide +kernel

/-- The entries at the ends of their ranges, and past them. -/
theorem witness_entries :
    slotEntryOf 12 4 0 = some (11, { expected := some .clamp, home := 0 }) ∧ slotEntryOf 0 0 0 = none
      ∧ slotEntryOf 1 1 0 = some (0, { expected := some .drill, home := 0 })
      ∧ slotEntryOf 1 3 0 = some (0, { expected := some .heat, home := 0 })
      ∧ laneEntryOf 2 12 6 2 0 = some (1, { slot := some 11, cls := 6, mode := .auto, target := 0 })
      ∧ laneEntryOf 1 0 1 1 4 = some (0, { slot := none, cls := 1, mode := .manual, target := 4 })
      ∧ laneEntryOf 0 0 1 1 0 = none ∧ laneEntryOf 1 13 1 1 0 = none ∧ laneEntryOf 1 0 0 1 0 = none
      ∧ laneEntryOf 1 0 1 0 0 = none ∧ zoneEntryOf 0 0 0 = none
      ∧ zoneEntryOf 8 12 4 = some (7, some { slot := 11, channel := 4 }) ∧ zoneEntryOf 1 1 0 = none := by
  decide +kernel

theorem witness_ZoneWrite :
    Weighed bench ∧ Weighed unbound ∧ Selects (sel 3 7) 3 7 ∧ zoneEntryOf 9 0 0 = none ∧ zoneEntryOf 1 13 1 = none
      ∧ zoneEntryOf 1 4 5 = none ∧ bench.setup.frame.isSome = true ∧ unbound.setup.frame.isSome = false
      ∧ zoneWriteReason (pooled [order 3 .clamp 3 (.zone 1) .waiting] unbound).setup
          (pooled [order 3 .clamp 3 (.zone 1) .waiting] unbound).live 1 (some { slot := 3, channel := 2 }) = some .inUse
      ∧ zoneWriteReason unbound.setup unbound.live 1 (some { slot := 3, channel := 1 }) = some .badValue
      ∧ zoneWriteReason unbound.setup unbound.live 1 (some { slot := 0, channel := 1 }) = some .wrongKind
      ∧ zoneWriteReason unbound.setup unbound.live 1 (some { slot := 3, channel := 3 }) = some .channels
      ∧ zoneEntryOf 1 0 9 = some (0, none) ∧ zoneWriteReason unbound.setup unbound.live 0 none = none
      ∧ unbound.setup.tables.zones[(0 : ZoneId)] ≠ none ∧ unbound.live.zones[(0 : ZoneId)].state = .clamped
      ∧ zoneEntryOf 1 4 1 = some (0, some { slot := 3, channel := 1 }) := by
  unfold Weighed Selects
  decide +kernel

theorem witness_RivetExpires :
    bench.setup.resetHeld = false ∧ bench.live.lanes[(0 : LaneId)].stock[0]? = some (rivet 5) ∧ (rivet 5).tag = none
      ∧ bench.setup.tables.lanes[(0 : LaneId)].slot = some 2
      ∧ (setting .lane .issued none).live.lanes[(0 : LaneId)].stock[0]? = some { rivet 5 with tag := some 4 }
      ∧ ((setting .lane .issued none).live.order? 4).map
          (fun o => (o.state, o.rivet, o.issueMark, o.travelMark)) = some (.issued, some (assigned .lane), some .sent, none)
      ∧ ((setting .lane .aborting (some .operation)).live.order? 4).map Order.state = some .aborting
      ∧ bench.live.lanes[(0 : LaneId)].stock[1]? = none := by
  decide +kernel

/-- A rivet in a lane whose entry names no slot, and one assigned to an order that is not in the pool. -/
theorem witness_RivetExpires_corners :
    stocked.setup.tables.lanes[(1 : LaneId)].slot = none ∧ stocked.live.lanes[(1 : LaneId)].stock[0]? = some (rivet 7)
      ∧ (pooled [] (setting .lane .issued none)).live.lanes[(0 : LaneId)].stock[0]? = some { rivet 5 with tag := some 4 }
      ∧ (pooled [] (setting .lane .issued none)).live.order? 4 = none ∧ stocked.setup.resetHeld = false := by
  decide +kernel

theorem witness_RivetExpires_unsent :
    ((recalled (setting .lane .issued none)).live.order? 4).map (fun o => (o.state, o.unsent, o.rivet.isSome)) =
          some (.issued, true, true)
      ∧ (recalled (setting .lane .issued none)).live.lanes[(0 : LaneId)].stock[0]? = some { rivet 5 with tag := some 4 }
      ∧ (recalled (setting .lane .issued none)).setup.resetHeld = false := by
  decide +kernel

/-- The bench with lane 1 AUTO and its cadence timer running. -/
def cadenced (s : State) : State :=
  let s := setup (fun c => { c with tables := { c.tables with
    lanes := c.tables.lanes.set 0 { slot := some 2, cls := 2, mode := .auto, target := 2 } } }) s
  { s with live := s.live.updLane 0 fun x => { x with cadence := some 12000 } }

theorem witness_CadenceExpires :
    (cadenced bench).setup.resetHeld = false ∧ (cadenced bench).live.lanes[(0 : LaneId)].cadence = some 12000
      ∧ (cadenced bench).live.laneState (cadenced bench).setup 0 = .ready
      ∧ (cadenced bench).live.servingSlot (cadenced bench).setup 0 = some 2
      ∧ (cadenced bench).live.lanes[(0 : LaneId)].stock.length < 2 ∧ (cadenced bench).live.slots[(2 : SlotId)].work = .idle
      ∧ (cadenced (heating .running)).live.laneState (cadenced (heating .running)).setup 0 = .heating
      ∧ (let s := slotted 2 (fun x => { x with state := .leaving }) (cadenced bench)
        s.live.laneState s.setup 0 = .off)
      ∧ 2 ≤ (cadenced stocked).live.lanes[(0 : LaneId)].stock.length
      ∧ (cadenced stocked).live.laneState (cadenced stocked).setup 0 = .ready
      ∧ bench.live.lanes[(0 : LaneId)].cadence = none
      ∧ (slotted 2 (busy 9 .run) (cadenced bench)).live.slots[(2 : SlotId)].work ≠ .idle := by
  decide +kernel

theorem witness_CadenceExpires_serving :
    bench.setup.tables.lanes[(0 : LaneId)].slot = some 2 ∧ bench.live.slots[(2 : SlotId)].state = .ready
      ∧ bench.live.slots[(2 : SlotId)].head.map Joined.declared = some (.heat 0)
      ∧ bench.setup.tables.lanes[(1 : LaneId)].slot = none := by
  decide +kernel

theorem witness_LaneHeatReports :
    Reports (heating .issued) 2 ∧ Reports (heating .running) 2 ∧ Reports (heating .aborting) 2
      ∧ ((heating .issued).live.ownHeat 2).map (fun x => (x.1, x.2.step)) = some (0, some .issued)
      ∧ ((heating .running).live.ownHeat 2).map (fun x => (x.1, x.2.step)) = some (0, some .running)
      ∧ ((heating .aborting).live.ownHeat 2).map (fun x => (x.1, x.2.step)) = some (0, some .aborting)
      ∧ (heating .running).setup.tables.lanes[(0 : LaneId)].slot = some 2
      ∧ (setup (fun c => { c with tables := { c.tables with
          lanes := c.tables.lanes.set 0 { slot := none, cls := 2, mode := .manual, target := 2 } } })
          (heating .running)).setup.tables.lanes[(0 : LaneId)].slot ≠ some 2
      ∧ (∀ k, DoneBody.bare ≠ .serial k) ∧ some HeatStep.running ≠ some .aborting := by
  refine ⟨?_, ?_, ?_, ?_, ?_, ?_, ?_, ?_, fun k => by cases k <;> exact DoneBody.noConfusion, by decide⟩ <;>
    first | (unfold Reports; decide +kernel) | decide +kernel

theorem witness_LaneHeatReports_discard :
    ((heating .running).live.heads[(2 : SlotId)].list.filter HeadMsg.isDiscard).length < 4 := by
  decide +kernel

/-- A module's zone 1, CLAMPED, with an unclamp expected. -/
def expecting : State := { bench with live := bench.live.setExpected 0 true }

theorem witness_ClampReports :
    bench.setup.resetHeld = false ∧ bench.live.slots[(4 : SlotId)].state.joined = false
      ∧ bench.live.slots[(0 : SlotId)].state.joined = true ∧ bench.live.slots[(0 : SlotId)].channels? = none
      ∧ bench.live.slots[(3 : SlotId)].state.joined = true ∧ bench.live.slots[(3 : SlotId)].channels? = some 2
      ∧ ZoneState.ofCode 0 = none ∧ ZoneState.ofCode 4 = none ∧ ZoneState.ofCode 1 = some .opened
      ∧ bench.setup.zoneAt 3 2 = none ∧ bench.setup.zoneAt 3 1 = some 0
      ∧ bench.live.zones[(0 : ZoneId)] = { state := .clamped, expected := false }
      ∧ expecting.live.zones[(0 : ZoneId)] = { state := .clamped, expected := true }
      ∧ unclamped.live.zones[(0 : ZoneId)].state ≠ .clamped
      ∧ ((drilling .running none .run).live.pool.map Order.tag).Nodup := by
  decide +kernel

theorem witness_ClampReports_lost :
    ((drilling .running none .run).live.order? 9).map (fun o => (o.state, o.unsent, o.target)) =
          some (.running, false, .hole 1)
      ∧ (bench.setup.row? 1).map PatternRow.zone = some 0
      ∧ ((recalled (drilling .issued none .accept)).live.order? 9).map (fun o => (o.state, o.unsent)) = some (.issued, true)
      ∧ (drilling .running none .run).live.hole? 2 = some (hole .drilled)
      ∧ (∀ o ∈ (drilling .running none .run).live.pool, o.target ≠ .hole 2)
      ∧ (travelling .travelling none).live.pool.map Order.state = [.travelling] := by
  decide +kernel

theorem witness_LinkComesUp :
    bench.setup.resetHeld = false ∧ bench.live.heads[(0 : SlotId)].up = true
      ∧ State.reset.setup.resetHeld = false ∧ State.reset.live.heads[(11 : SlotId)].up = false := by
  decide

theorem witness_LinkGoesDown :
    State.reset.live.heads[(0 : SlotId)].silence = none ∧ (pooled waiting bench).setup.resetHeld = false
      ∧ (pooled waiting bench).live.heads[(0 : SlotId)].silence = some 250
      ∧ (pooled waiting bench).live.slots[(0 : SlotId)].state ≠ .empty
      ∧ ((pooled waiting bench).live.pool.map Order.tag).Nodup
      ∧ (drilling .running none .run).live.slots[(0 : SlotId)].work = .order 9
      ∧ ((drilling .running none .run).live.orderOf? 0 9).isSome = true
      ∧ bench.setup.tables.zones[(0 : ZoneId)] = some { slot := 3, channel := 1 }
      ∧ unclamped.live.zones[(0 : ZoneId)].state ≠ .clamped := by
  decide +kernel

theorem witness_LinkGoesDown_ends :
    ((recalled (drilling .issued none .accept)).live.orderOf? 0 9).map (fun o => (o.unsent, o.travelMark)) =
          some (true, none)
      ∧ ((recalled (travelling .travelling none)).live.orderOf? 0 9).map (fun o => (o.unsent, o.travelMark)) =
          some (true, some .unsent)
      ∧ ((drilling .running none .run).live.orderOf? 0 9).map (fun o => (o.unsent, o.operating)) = some (false, true)
      ∧ ((travelling .travelling none).live.orderOf? 0 9).map (fun o => (o.unsent, o.operating)) = some (false, false)
      ∧ (failingHeat (heatOrder .running).live 2).map Prod.fst = some 0
      ∧ (failingHeat (heating .running).live 2).map Prod.fst = some 0
      ∧ (bench.live.slots[(0 : SlotId)].work = .idle)
      ∧ (∀ z : ZoneId, ∀ m, bench.setup.tables.zones[z] = some m → m.slot = 3) := by
  decide +kernel

/-- The bench with messages of every kind unsent to slot 1, one in transmission, a frame open and the link-down count at its
most. -/
def crowded : State :=
  let list : List HeadMsg := [.issue 9 (.heat 0 2), .travel 9 8, .abort 9, .discard 5, .welcome .drill (.drill .a ⟨3, 5⟩ 0 7 9 0),
    .rejoin .cleared, .toolSync 7 9 0, .lamp .off]
  { bench with live := bench.live.updHead 0 fun k =>
      { k with list, sending := some (.discard 4), rx := { state := .inside, content := [1], discarding := false }
               status := { k.status with downs := 255 } } }

theorem witness_LinkGoesDown_line :
    crowded.live.heads[(0 : SlotId)].silence = some 250 ∧ crowded.live.slots[(0 : SlotId)].state ≠ .empty
      ∧ (after (.linkDown 0) crowded).live.heads[(0 : SlotId)] =
        { HeadLink.reset with sending := some (.discard 4), status := { HeadStatus.reset with downs := 255 } }
      ∧ (after (.linkDown 1) bench).live.heads[(1 : SlotId)].status.downs = 1
      ∧ SlotApart crowded.setup crowded.live 0 ∧ bench.live.slots[(4 : SlotId)].state = .empty
      ∧ bench.live.heads[(4 : SlotId)].silence = some 250 := by
  unfold SlotApart
  decide +kernel

/-- The module of a CLAMPED zone with an order under way in it, sent and unsent, and with an unclamp expected. -/
theorem witness_ModuleGone :
    let s := drilling .running none .run
    let t := recalled (drilling .issued none .accept)
    ownLost s.setup s.live 3 0 = true ∧ ownClamped s.setup s.live 3 1 = false
      ∧ ownClamped expecting.setup expecting.live 3 0 = true ∧ ownLost expecting.setup expecting.live 3 0 = false
      ∧ s.live.pool.map (fun o => (worksIn s.setup (ownLost s.setup s.live 3) o, o.slot, o.unsent)) = [(true, 0, false)]
      ∧ SlotApart s.setup s.live 3 ∧ NoneTakenBack s.setup s.live 3 ∧ holeIn s.setup (ownClamped s.setup s.live 3) 2 = true
      ∧ t.live.pool.map (fun o => (worksIn t.setup (ownLost t.setup t.live 3) o, o.slot, o.unsent)) = [(true, 0, true)]
      ∧ t.live.pool.map (fun o => (o.before, o.travelMark)) = [(some .planned, none)]
      ∧ (∀ o ∈ t.live.pool, ∀ q ∈ t.live.pool, q.hole? = o.hole? → q.tag = o.tag)
      ∧ SlotApart t.setup t.live 3 ∧ s.live.slots[(3 : SlotId)].state.joined = true
      ∧ s.live.heads[(3 : SlotId)].silence = some 250 ∧ (s.live.pool.map Order.tag).Nodup := by
  unfold SlotApart NoneTakenBack
  decide +kernel

theorem witness_Hello :
    Reports bench 0 ∧ bench.live.slots[(0 : SlotId)].state ≠ .joining ∧ Reports joining 4
      ∧ joining.live.slots[(4 : SlotId)].state = .joining ∧ joining.setup.preload ≠ .running
      ∧ (setup (fun c => { c with preload := .running }) joining).setup.preload = .running
      ∧ helloReason joining.setup joining.live 4 (.drill (some .a) 4 7 100 0) = some .positionConflict
      ∧ helloReason joining.setup joining.live 4 helloDrill = none
      ∧ helloDeclared helloDrill = some (.drill .a 12)
      ∧ helloReason joining.setup joining.live 4 (.clamp 4) = none ∧ helloDeclared (.clamp 4) = some (.clamp 4) := by
  unfold Reports
  decide +kernel

theorem witness_Hello_welcomed :
    helloTool helloDrill = some { id := 7, limit := 100, count := 0, spent := false }
      ∧ helloReason joining.setup joining.live 4 (.set (some .b) 1) = none
      ∧ helloDeclared (.set (some .b) 1) = some (.set .b 1)
      ∧ helloReason joining.setup joining.live 4 (.heat 2) = none ∧ helloDeclared (.heat 2) = some (.heat 1) := by
  decide +kernel

/-- A HELLO of a spent tool at an OPEN lever: LEVER_OPEN is posted first, TOOL_SPENT finds the entry filled (R121, R136). -/
theorem test_hello_notices :
    let s := slotted 4 (fun x => { x with lever := .opened }) joining
    let b : HelloBody := .drill (some .a) 12 7 100 100
    helloReason s.setup s.live 4 b = none
      ∧ (after (.hello 4 1 1 b) s).live.notices[noticeIndex (slotSource 4) .warn] =
        some { code := .leverOpen, detail := .none, overrun := true }
      ∧ (after (.hello 4 1 1 b) joining).live.notices[noticeIndex (slotSource 4) .warn] =
        some { code := .toolSpent, detail := .none, overrun := false } := by
  decide +kernel

theorem witness_HelloChecks :
    laneOf 0 = none ∧ laneOf 3 = none ∧ laneOf 1 = some 0 ∧ laneOf 2 = some 1
      ∧ helloReason bench.setup bench.live 4 (.drill (some .a) 12 7 60001 0) = some .badHello
      ∧ helloReason bench.setup bench.live 4 (.drill (some .a) 12 7 60000 0) = none
      ∧ helloReason (setup (fun c => { c with tables := { c.tables with
          slots := c.tables.slots.set 4 { expected := some .set, home := 0 } } }) bench).setup bench.live 4 helloDrill =
        some .kindMismatch
      ∧ helloReason bench.setup bench.live 4 (.set (some .b) 11) = some .positionConflict
      ∧ helloReason bench.setup bench.live 4 (.heat 1) = some .laneTaken
      ∧ helloReason bench.setup bench.live 4 (.heat 2) = none
      ∧ helloReason bench.setup bench.live 4 (.clamp 0) = some .channels
      ∧ helloReason bench.setup bench.live 4 (.clamp 5) = some .channels := by
  decide +kernel

theorem witness_Levers :
    Reports bench 0 ∧ bench.live.slots[(0 : SlotId)].state = .ready ∧ bench.live.slots[(0 : SlotId)].lamp = .auto
      ∧ (slotted 0 (fun x => { x with lamp := .forceOn }) bench).live.slots[(0 : SlotId)].lamp ≠ .auto
      ∧ Reports joining 4 ∧ joining.live.slots[(4 : SlotId)].state = .joining
      ∧ Reports (after (.leverOpen 0 0) bench) 0 ∧ (after (.leverOpen 0 0) bench).live.slots[(0 : SlotId)].state = .leaving := by
  unfold Reports
  decide +kernel

/-- The bench with slot 1 in a state. -/
def inState (st : SlotState) : State := slotted 0 (fun x => { x with state := st }) bench

theorem witness_SlotMessages :
    Weighed bench ∧ Weighed locked ∧ Plain (hd 5) 5 ∧ Plain (hd 6) 6 ∧ locked.setup.lockout = true ∧ slotOf 0 = none
      ∧ slotOf 13 = none ∧ slotOf 12 = some 11 ∧ slotOf 1 = some 0 ∧ bench.setup.lockout = false
      ∧ bench.live.slots[(0 : SlotId)].state ≠ .faulted ∧ (inState .faulted).live.slots[(0 : SlotId)].state = .faulted
      ∧ (inState .leaving).live.slots[(0 : SlotId)].state = .leaving
      ∧ (inState .leaving).live.slots[(0 : SlotId)].work = .idle
      ∧ (slotted 0 (fun x => { x with work := .order 9 }) (inState .leaving)).live.slots[(0 : SlotId)].work ≠ .idle := by
  unfold Weighed Plain
  decide +kernel

/-- A slot with its lever OPEN, FORCE ON and the pending mark set, and the claim of its WAITING order filed. -/
def marked : State :=
  slotted 0 (fun x => { x with lever := .opened, leverPending := true, lamp := .forceOn, aspect := .steady }) claimed

theorem witness_SlotMessages_lamp :
    Weighed marked ∧ marked.setup.lockout = false ∧ marked.live.slots[(0 : SlotId)].state = .ready
      ∧ leftBy (.lampSet (hd 6) 1 3) marked = ([], [])
      ∧ sent (after (.lampSet (hd 6) 1 3) marked) 0 = [.lamp .off, .lamp .blink]
      ∧ said (.lampSet (hd 6) 1 3) marked =
        [orderDone marked.live { order 9 .park 0 .home .waiting with centre := some 8 } .withdrawn (some .slotLeaving),
          .answer 9 (.lamp .auto .blink false)]
      ∧ (after (.lampSet (hd 6) 1 3) marked).live.notices[noticeIndex (slotSource 0) .warn] =
        some { code := .leverOpen, detail := .none, overrun := false }
      ∧ (after (.lampSet (hd 6) 1 2) marked).live.notices = marked.live.notices
      ∧ sent (after (.leverOpen 0 0) claimed) 0 = [.lamp .blink] := by
  unfold Weighed
  decide +kernel

/-- The stage of a slot's timer. -/
def stageOf (s : State) (slot : SlotId) : Option TimedStage := (s.live.slots[slot].timer).map StageTimer.stage

theorem witness_SlotFaults :
    (drilling .issued none .accept).setup.resetHeld = false
      ∧ (drilling .issued none .accept).live.slots[(0 : SlotId)].state.joined = true
      ∧ ((drilling .issued none .accept).live.pool.map Order.tag).Nodup
      ∧ stageOf (drilling .issued none .accept) 0 = some .accept
      ∧ stageOf (drilling .running none .graceRun) 0 = some .graceRun
      ∧ stageOf (slotted 0 (busy 9 .graceTravel) (travelling .travelling none)) 0 = some .graceTravel
      ∧ stageOf (drilling .aborting (some .operation) .abort) 0 = some .abort
      ∧ travelFacts (travelling .travelling none) 0 9 = some (.travelling, none, some .sent) ∧ (7 : Nat) ≠ 8
      ∧ travelFacts (travelling .aborting (some .travel)) 0 9 = some (.aborting, some .travel, some .sent)
      ∧ (span 9).inside ⟨3, 9⟩ = false ∧ (15 : Nat) < 16 ∧ Reports joining 4
      ∧ joining.live.slots[(4 : SlotId)].state.joined = false
      ∧ Reports (slotted 0 (fun x => { x with state := .faulted }) bench) 0
      ∧ (slotted 0 (fun x => { x with state := .faulted }) bench).live.slots[(0 : SlotId)].state = .faulted
      ∧ SlotState.faulted.joined = false := by
  unfold Reports
  decide +kernel

theorem witness_SlotFaults_unsent :
    ((recalled (travelling .travelling none)).live.orderOf? 0 9).map (fun o => (o.unsent, o.travelMark)) =
          some (true, some .unsent)
      ∧ (recalled (travelling .travelling none)).live.travels[(0 : SlotId)] =
          some { tag := 9, target := 8, sweep := ⟨3, 9⟩, former := ⟨3, 5⟩ }
      ∧ (recalled (travelling .travelling none)).live.holdings[(0 : SlotId)] = some ⟨.a, ⟨3, 9⟩⟩ := by
  decide +kernel

/-- A fault takes every message but LAMP and REJOIN off the list, and the aspect it finds changed takes the place of LAMP. -/
theorem witness_SlotFaults_list :
    crowded.live.slots[(0 : SlotId)].state.joined = true ∧ SlotApart crowded.setup crowded.live 0
      ∧ keptAtFault crowded.live.heads[(0 : SlotId)].list = [.rejoin .cleared, .lamp .off]
      ∧ (after (.fault 0 0 3) crowded).live.heads[(0 : SlotId)].list = [.rejoin .cleared, .lamp .off]
      ∧ (after (.fault 0 0 3) (slotted 0 (fun x => { x with aspect := .blink, state := .leaving }) crowded)).live.heads[
        (0 : SlotId)].list = [.rejoin .cleared, .lamp .off]
      ∧ (after (.fault 0 0 3) (slotted 0 (fun x => { x with aspect := .blink, state := .leaving }) bench)).live.heads[
        (0 : SlotId)].sending = some (.lamp .off)
      ∧ (after (.fault 0 0 3) (slotted 0 (fun x => { x with lamp := .forceOn, aspect := .steady }) crowded)).live.slots[
        (0 : SlotId)].aspect = .steady := by
  unfold SlotApart
  decide +kernel

theorem witness_Overruns :
    stageOf (drilling .running none .run) 0 = some .run ∧ stageOf (travelling .travelling none) 0 = some .travel
      ∧ (drilling .running none .run).setup.resetHeld = false ∧ claiming.live.requestOf 0 = some (.a, claim)
      ∧ claim.urgent = false ∧ claiming.setup.mode = .run ∧ claiming.setup.resetHeld = false
      ∧ bench.live.slots[(0 : SlotId)].timer = none ∧ bench.live.requestOf 0 = none
      ∧ (setup (fun c => { c with mode := .hold }) claiming).setup.mode = .hold := by
  decide +kernel

/-- What is due: nothing on the bench, the preload's step at reset, a message in transmission, a claim that has waited. -/
theorem witness_Overruns_due :
    bench.dueEvent = none ∧ bench.pending = [] ∧ State.reset.dueEvent = some .preloadHeaderRead
      ∧ (after (.queryPump (sel 8 4)) bench).dueEvent = some .cellSentEvent
      ∧ (bench.elapse 250).dueEvent = some (.linkDown 0)
      ∧ (claiming.elapse 8000).dueEvent = some (.linkDown 0)
      ∧ (after .resetPinHeld ((writing).elapse 5)).dueEvent = some .storeWriteEnd
      ∧ (after .resetPinHeld bench).dueEvent = none ∧ (rivet 5).heatEnd ≤ bench.setup.now := by
  decide +kernel

/-- The first reason of MODE RUN, and of MODE RESUME. -/
def runReason (s : State) : Option Reason :=
  firstReason
    [ (s.setup.lockout, .locked), (s.setup.mode == .stop, .stopped), (s.setup.frame.isNone, .noFrame),
      (s.setup.guard.state != .closed, .guardOpen) ]

def resumeReason (s : State) : Option Reason :=
  firstReason
    [ (s.setup.lockout, .locked), (s.setup.mode != .stop, .wrongMode), (s.setup.guard.state != .closed, .guardOpen),
      (s.live.pool.any (fun o => o.state == .aborting)
        || s.live.lanes.toList.any fun x => x.heat.any fun g => g.origin == .lane && g.step == some .aborting, .inFlight) ]

/-- A state in STOP with the guard CLOSED. -/
def halted (s : State) : State := setup (fun c => { c with mode := .stop }) s

theorem witness_ModeMessages :
    Weighed bench ∧ Weighed locked ∧ Weighed stopped ∧ Weighed held ∧ Selects (sel 1 4) 1 4 ∧ Selects (sel 2 4) 2 4
      ∧ Selects (sel 3 4) 3 4 ∧ runReason locked = some .locked ∧ runReason stopped = some .stopped
      ∧ runReason unbound = some .noFrame
      ∧ runReason (setup (fun c => { c with guard := { c.guard with state := .opened } }) held) = some .guardOpen
      ∧ runReason held = none ∧ held.setup.mode = .hold ∧ runReason bench = none ∧ bench.setup.mode = .run
      ∧ resumeReason bench = some .wrongMode ∧ resumeReason stopped = some .guardOpen
      ∧ resumeReason (halted (heating .aborting)) = some .inFlight ∧ resumeReason (halted bench) = none
      ∧ resumeReason (halted unbound) = none ∧ (halted unbound).setup.frame = none ∧ Weighed (halted unbound) := by
  unfold Weighed Selects
  decide +kernel

theorem witness_GuardChain :
    bench.setup.resetHeld = false ∧ bench.setup.guard.ch1 = .closed ∧ bench.setup.guard.state = .closed
      ∧ bench.setup.mode ≠ .stop ∧ (halted bench).setup.mode = .stop
      ∧ ((drilling .running none .run).live.pool.map Order.tag).Nodup
      ∧ guardAfter .opened .closed .closed = .closed ∧ guardAfter .latched .opened .opened = .opened
      ∧ guardAfter .latched .closed .closed = .latched
      ∧ (after (.guardChannelChange .one .opened) bench).setup.guard =
        { ch1 := .opened, ch2 := .closed, state := .opened, timer := some 50 }
      ∧ (after (.guardChannelChange .one .opened) bench).setup.resetHeld = false
      ∧ bench.setup.guard.timer = none := by
  decide +kernel

theorem witness_GuardChain_unsent :
    ((recalled (drilling .issued none .accept)).live.pool.map fun o => (o.state, o.unsent)) = [(.issued, true)] := by
  decide +kernel

/-- A GUARD_OPEN entry. -/
def alarm (overrun : Bool) : Notice := { code := .guardOpen, detail := .none, overrun }

/-- The bench with the source 0 alarm entry filled, and a fault entry of source 12. -/
def noticed (overrun : Bool) : State :=
  { bench with live := { bench.live with
      notices := (bench.live.notices.set (noticeIndex 0 .alarm) (some (alarm overrun))).set (noticeIndex 12 .fault)
        (some { code := .slotFault, detail := .none, overrun := false }) } }

theorem witness_PostNotice :
    bench.live.notices[noticeIndex 0 .alarm] = none ∧ bench.live.notices[noticeIndex 12 .info] = none
      ∧ (noticed false).live.notices[noticeIndex 0 NoticeCode.guardOpen.level] = some (alarm false)
      ∧ (noticed true).live.notices[noticeIndex 0 NoticeCode.guardOpen.level] = some (alarm true) := by
  decide +kernel

theorem witness_NoticeTake :
    Weighed bench ∧ Weighed (noticed false) ∧ Plain (hd 4) 4
      ∧ (∀ src : Fin 13, ∀ v ∈ [NoticeLevel.alarm, .fault, .warn, .info], bench.live.notices[noticeIndex src v] = none)
      ∧ (noticed false).live.notices[noticeIndex 0 .alarm] = some (alarm false)
      ∧ ∀ src : Fin 13, ∀ v ∈ [NoticeLevel.alarm, .fault, .warn, .info],
          (noticed false).live.notices[noticeIndex src v] ≠ none → (src, v) ≠ (0, .alarm) →
          NoticeLevel.alarm.rank < v.rank ∨ v = .alarm := by
  unfold Weighed Plain
  decide +kernel

theorem witness_Queries :
    Weighed bench ∧ Weighed unbound ∧ Selects (sel 1 4) 1 4 ∧ Selects (sel 2 6) 2 6 ∧ Selects (sel 5 7) 5 7
      ∧ Selects (sel 11 7) 11 7 ∧ unbound.setup.frame = none ∧ bench.setup.frame.isSome = true
      ∧ bench.live.hole? 4 = none ∧ bench.live.hole? 3 = some (hole .defect) ∧ bench.live.order? 9 = none
      ∧ ((pooled waiting bench).live.order? 3).isSome = true ∧ railOf 2 = some .b ∧ laneOf 3 = none
      ∧ laneOf 2 = some 1 ∧ zoneOf 8 = some 7 ∧ slotOf 13 = none ∧ tableView bench.setup.tables 6 0 = none
      ∧ tableView bench.setup.tables 5 1 = none ∧ tableView bench.setup.tables 5 0 = some (.pump 6)
      ∧ patternOf 2 = some 1 ∧ patternOf 1 = some 0 ∧ bench.setup.patterns[(1 : PatternId)] = none
      ∧ storing.setup.patterns[(1 : PatternId)] = some loading ∧ loading.row? 2 = none
      ∧ loading.row? 1 = some (rowOf raw) := by
  unfold Weighed Selects
  decide +kernel

theorem witness_Queries_forms :
    Selects (sel 3 6) 3 6 ∧ Selects (sel 4 5) 4 5 ∧ Selects (sel 5 6) 5 6 ∧ Selects (sel 6 5) 6 5 ∧ Selects (sel 7 5) 7 5
      ∧ Selects (sel 8 4) 8 4 ∧ Selects (sel 9 4) 9 4 ∧ Selects (sel 10 6) 10 6 ∧ Selects (sel 11 5) 11 5
      ∧ railOf 3 = none ∧ patternOf 5 = none ∧ slotOf 12 = some 11 ∧ timingOf 12 = some 11
      ∧ State.reset.setup.resetHeld = false ∧ State.reset.setup.restart = .idle
      ∧ State.reset.live.cell.underHoldoff = false ∧ State.reset.setup.preload = .running := by
  unfold Selects
  decide +kernel

/-- The bench with its cell link changed. -/
def linked (f : CellLink → CellLink) : State := { bench with live := { bench.live with cell := f bench.live.cell } }

/-- A message in transmission. -/
def outgoing (a : Answer) : CellMsg := { body := .answer 1 a, flags := ⟨false, false, false, false, .run⟩ }

theorem witness_CellLinkEvents :
    Weighed bench ∧ bench.setup.resetHeld = false ∧ bench.setup.restart = .idle ∧ bench.live.cell.sending = none
      ∧ (linked fun k => { k with sending := some (outgoing .ok) }).live.cell.sending = some (outgoing .ok)
      ∧ (outgoing .ok).endsRestart = false ∧ (outgoing .restarting).endsRestart = true
      ∧ (linked fun k => { k with list := [outgoing .ok] }).live.cell.list = outgoing .ok :: []
      ∧ (linked fun k => { k with holdoff := true }).live.cell.underHoldoff = true
      ∧ bench.live.cell.underHoldoff = false ∧ bench.live.cell.rx.state = .outside
      ∧ (after (.restart (hd 4)) bench).setup.restart ≠ .idle
      ∧ ((after (.restart (hd 4)) bench).live.cell.sending.map CellMsg.endsRestart) = some true := by
  unfold Weighed
  decide +kernel

theorem witness_CellLinkEvents_layouts :
    let d : OrderDone :=
      { tag := 9, kind := .set, slot := 1, target := .hole 2, outcome := .completed, cause := none, cancel := false
        holeInfo := some (.set, 2), gauge := none, force := some .ok, measure := some 300, serial := some 812 }
    CellMsg.bytes { body := .orderDone d, flags := ⟨false, false, false, false, .run⟩ } =
        [18, 0x82, 9, 2, 0x12, 2, 0, 2, 1, 0, 0, 8, 2, 1, 1, 44, 3, 44]
      ∧ CellMsg.bytes { body := .orderDone { d with kind := .park, target := .home, holeInfo := none },
                        flags := ⟨false, false, false, false, .run⟩ } = [11, 0x82, 9, 2, 0x16, 2, 0, 0, 1, 0, 0]
      ∧ CellMsg.bytes { body := .orderDone { d with kind := .heat, target := .lane 1, holeInfo := none },
                        flags := ⟨false, false, false, false, .run⟩ } = [13, 0x82, 9, 2, 0x13, 2, 0, 2, 1, 0, 0, 3, 44]
      ∧ CellMsg.bytes { body := .orderDone { d with outcome := .failed, cause := some .linkLost },
                        flags := ⟨false, false, false, false, .run⟩ } = [13, 0x82, 9, 2, 0x12, 2, 0, 2, 4, 9, 0, 8, 2]
      ∧ CellMsg.bytes { body := .orderDone { d with kind := .drill, gauge := some .under },
                        flags := ⟨false, false, false, false, .run⟩ } =
        [16, 0x82, 9, 2, 0x10, 2, 0, 2, 1, 0, 0, 8, 2, 2, 1, 44] := by
  decide +kernel

/-- A RESTART taken with a message in transmission and `n` on the list. -/
def deferred (n : Nat) : State :=
  setup (fun c => { c with restart := .taken 9 })
    (linked fun k => { k with sending := some (outgoing .ok), list := List.replicate n (outgoing .ok) })

theorem witness_CellLinkEvents_restart :
    bench.live.cell.list = [] ∧ (outgoing .ok).endsRestart = false
      ∧ (deferred 1).setup.restart = .taken 9 ∧ (deferred 1).live.cell.list.length = 1
      ∧ (deferred 2).setup.restart = .taken 9 ∧ (deferred 2).live.cell.list.length = 2
      ∧ (after .cellSentEvent (deferred 1)).setup.restart = .answered
      ∧ (after .cellSentEvent (deferred 2)).setup.restart = .taken 9
      ∧ (setup (fun c => { c with restart := .taken 9 }) (linked fun k =>
          { k with sending := some (outgoing .ok) })).live.cell.list = [] := by
  decide +kernel

theorem witness_Receivers :
    bench.setup.resetHeld = false ∧ bench.setup.restart = .idle ∧ bench.live.heads[(0 : SlotId)].up = true
      ∧ Receiver.reset.state = .outside ∧ (Receiver.opening false).state = .inside
      ∧ (Receiver.opening false).discarding = false ∧ (Receiver.opening true).discarding = true
      ∧ ((Receiver.opening false).byte false 0xD3).1.state = .escaped := by
  decide

theorem witness_HeadLinkEvents :
    bench.setup.resetHeld = false ∧ bench.live.heads[(0 : SlotId)].sending = none ∧ bench.setup.headHold = none
      ∧ chooseHead [.travel 1 2, .toolSync 1 2 3, .lamp .off, .abort 1] =
        some (.lamp .off, [.travel 1 2, .toolSync 1 2 3, .abort 1])
      ∧ ((after (.drill (hd 8) 1 1 1) bench).live.heads[(0 : SlotId)].sending).isSome = true
      ∧ (after (.drill (hd 8) 1 1 1) bench).live.heads[(0 : SlotId)].list = []
      ∧ (setup (fun c => { c with headHold := some 300 }) bench).setup.headHold ≠ none := by
  decide +kernel

theorem witness_HeadLinkEvents_lists :
    HeadMsg.cls (.toolSync 1 2 3) = 2 ∧ HeadMsg.cls (.issue 9 (.heat 0 1)) = 3
      ∧ (bench.live.queueJoin bench.setup 0 (.rejoin .cleared)).heads[(0 : SlotId)].sending = some (.rejoin .cleared)
      ∧ (((bench.live.queue bench.setup 0 (.lamp .off)).queueJoin bench.setup 0 (.rejoin .cleared)).queueJoin bench.setup 0
          (.toolSync 1 2 3)).heads[(0 : SlotId)].list = [.rejoin .cleared]
      ∧ (((bench.live.queue bench.setup 0 (.lamp .off)).queueJoin bench.setup 0 (.toolSync 1 2 3)).queueJoin bench.setup 0
          (.rejoin .cleared)).heads[(0 : SlotId)].list = [.rejoin .cleared] := by
  decide +kernel

theorem witness_HeadLinkEvents_lamp :
    bench.live.syncLamp bench.setup 0 = bench.live
      ∧ (slotted 0 (fun x => { x with lamp := .forceOn }) bench).live.slots[(0 : SlotId)].aspect = .off
      ∧ ((slotted 0 (fun x => { x with lamp := .forceOn }) bench).live.syncLamp bench.setup 0).heads[(0 : SlotId)].sending =
        some (.lamp .steady)
      ∧ ((slotted 4 (fun x => { x with lamp := .forceOn }) bench).live.syncLamp bench.setup 4).heads[(4 : SlotId)].sending =
        none
      ∧ (framed bench 0 4).heads[(0 : SlotId)].status.protocol = 1
      ∧ (framed bench 0 3).heads[(0 : SlotId)].status.protocol = 0 := by
  decide +kernel

theorem witness_StoreAccess :
    Weighed bench ∧ Weighed writing ∧ Plain (hd 7) 7 ∧ writing.setup.store.writing.isSome = true
      ∧ bench.setup.store.writing = none ∧ (8192 : Nat) < 8145 + 48 ∧ (8144 : Nat) + 48 ≤ 8192
      ∧ storeWriteReason bench.setup.store 8191 1 = none ∧ storeWriteReason bench.setup.store 8192 1 = some .badAddress
      ∧ storeWriteReason bench.setup.store 271 2 = some .badAddress
      ∧ storeWriteReason bench.setup.store 255 1 = some .protected_ ∧ storeWriteReason bench.setup.store 256 16 = none
      ∧ writing.setup.store.writing = some { addr := 8191, data := [0x55], left := 5, answer := some 3 }
      ∧ writing.setup.resetHeld = false ∧ writing.setup.store.present = true
      ∧ Memory.wf writing.setup.store.cells = true ∧ (8191 : Nat) + [(0x55 : Byte)].length ≤ 8192
      ∧ ((after .powerUp writing).setup.store.writing.map fun w => (w.addr, w.answer)) = some (8191, none)
      ∧ (after .resetPinHeld writing).setup.resetHeld = true
      ∧ (after .resetPinHeld writing).setup.store.writing = writing.setup.store.writing := by
  unfold Weighed Plain
  decide +kernel

/-- A store with a header of length `n`, and the header's CRC. -/
def imaged (n : List Byte) : State :=
  setup (fun c => { c with store := { c.store with
    cells := Memory.writeAll [] 256 ([0x5A, 0xC3] ++ n) } }) State.reset

theorem witness_Preload :
    bench.setup.engine = none ∧ State.reset.setup.resetHeld = false ∧ State.reset.setup.engine = some Engine.start ∧ Engine.start.phase = .header
      ∧ State.reset.setup.store.writing = none ∧ State.reset.setup.store.byte 256 ≠ 0x5A
      ∧ (imaged []).setup.store.byte 256 = 0x5A ∧ (imaged []).setup.store.byte 257 = 0xC3
      ∧ 7930 < (imaged [0xFF, 0xFF]).setup.store.half 258 ∧ (imaged [0x1E, 0xFA]).setup.store.half 258 = 7930
      ∧ loadRecord bench.setup Engine.start [0x04, 0x6A, 0x00, 0x00] =
        .ok (bench.setup, { Engine.start with unlock := true })
      ∧ loadRecord bench.setup Engine.start [0x04, 0x7F, 0x00, 0x00] = .error .unknownKind
      ∧ bench.live.slots[(11 : SlotId)].state.joined = false ∧ bench.live.slots[(2 : SlotId)].state.joined = true
      ∧ bench.live.lanes[(0 : LaneId)].stock = [rivet 5] := by
  decide +kernel

theorem witness_Preload_records :
    loadRecord bench.setup Engine.start [0x05, 0x6A, 0x00, 0x00, 0x00] = .error .badValue
      ∧ loadRecord bench.setup Engine.start [0x07, 0x20, 0x00, 0x00, 0x01, 0x00, 0x02] = .error .exists_
      ∧ (loadRecord bench.setup Engine.start [0x07, 0x20, 0x00, 0x00, 0x02, 0x00, 0x02]).toOption.map
          (fun r => r.1.freeRows) = some 2043
      ∧ loadRecord bench.setup Engine.start ([0x14, 0x21, 0x00, 0x00, 0x01, 0x01] ++ List.replicate 14 0) =
          .error .patternComplete
      ∧ loadRecord storing.setup Engine.start ([0x14, 0x21, 0x00, 0x00, 0x02, 0x01] ++ List.replicate 14 0) = .error .badRow
      ∧ (loadRecord bench.setup Engine.start [0x09, 0x28, 0x00, 0x01, 0x01, 0x00, 0x00, 0x13, 0x88]).toOption.map
          (fun r => r.2.loadSet.timing[Timing.heatWindow]) = some 5000
      ∧ (loadRecord bench.setup Engine.start [0x07, 0x28, 0x00, 0x02, 0x01, 0x01, 0x0F]).toOption.map
          (fun r => r.2.loadSet.slots[(0 : SlotId)].home) = some 15
      ∧ (loadRecord bench.setup Engine.start [0x07, 0x28, 0x00, 0x03, 0x01, 0x04, 0x01]).toOption.map
          (fun r => r.2.loadSet.zones[(0 : ZoneId)]) = some (some { slot := 3, channel := 1 })
      ∧ (loadRecord bench.setup Engine.start [0x09, 0x28, 0x00, 0x04, 0x01, 0x03, 0x02, 0x02, 0x04]).toOption.map
          (fun r => r.2.loadSet.lanes[(0 : LaneId)].slot) = some (some 2)
      ∧ (loadRecord bench.setup Engine.start [0x05, 0x28, 0x00, 0x05, 0x0F]).toOption.map
          (fun r => r.2.loadSet.budget) = some 15
      ∧ loadRecord bench.setup Engine.start [0x05, 0x28, 0x00, 0x05, 0x10] = .error .badValue := by
  decide +kernel

theorem witness_LockMessages :
    Weighed bench ∧ Weighed unbound ∧ Weighed writing ∧ Plain (hd 4) 4 ∧ bench.setup.mode ≠ .standby
      ∧ unbound.setup.mode = .standby ∧ unbound.live.pool = [] ∧ unbound.setup.store.writing = none
      ∧ (pooled waiting unbound).live.pool ≠ [] ∧ writing.setup.store.writing.isSome = true
      ∧ bench.live.cell.list = [] ∧ (linked fun k => { k with list := [outgoing .ok] }).live.cell.list ≠ [] := by
  unfold Weighed Plain
  decide +kernel

/-- A RELOAD with a rivet in stock and its heater joined, and in a lane whose entry names no slot. -/
theorem witness_LockMessages_stock :
    unbound.live.lanes[(0 : LaneId)].stock ≠ [] ∧ unbound.setup.tables.lanes[(0 : LaneId)].slot = some 2
      ∧ unbound.live.slots[(2 : SlotId)].state.joined = true ∧ unbound.setup.tables.lanes[(1 : LaneId)].slot = none
      ∧ said (.reload (hd 4)) unbound = [.answer 9 .ok]
      ∧ sent (after (.reload (hd 4)) unbound) 2 = [.discard 5] := by
  decide +kernel

theorem witness_Resets :
    (after .resetPinHeld bench).setup.resetHeld = true ∧ bench.setup.resetHeld = false ∧ bench.setup.headHold = none
      ∧ (bench.takeReset .restart).setup.headHold = some 300 ∧ (bench.takeReset .restart).setup.resetHeld = false
      ∧ (bench.takeReset .restart).live.heads[(0 : SlotId)].sending = none
      ∧ ((bench.takeReset .restart).live.updHead 0 fun k => { k with list := [.lamp .off] }).heads[(0 : SlotId)].list ≠ [] := by
  decide +kernel

end Sys2Proof.Tests
end

section
/-! PROOFS. The parts of the setup that each command may write (O3), the balance of the free rows (O7), and the laws at
reset (O11). -/

namespace Sys2Proof.Machine

open Sys2Proof.Safety

/-! ### What the envelopes leave of the setup -/

section Envelopes

variable {take : State → State} {s t : State}

theorem cellMessage_setup {form : ReplyForm} {h : Header} {exempt selOk lenOk lockable : Bool}
    (e : cellMessage form h exempt selOk lenOk lockable take s = .next t) :
    t.setup = s.setup ∨ ∃ u : State, u.setup = s.setup ∧ t = take u := by
  obtain ⟨t', ht, ends⟩ := cellMessage_ends form h exempt selOk lenOk lockable take s
  obtain rfl : t' = t := by rw [ht] at e; exact Host.Outcome.next.inj e
  obtain rfl | rfl | rfl | ⟨b, rfl⟩ | rfl := ends
  · exact .inl rfl
  · exact .inl rfl
  · exact .inl rfl
  · exact .inl rfl
  · exact .inr ⟨{ s with live := s.live.closeFrame }, rfl, rfl⟩

theorem headReport_setup {slot : SlotId} {hs : Nat} (e : headReport slot hs take s = .next t) :
    t.setup = s.setup ∨ ∃ u : State, u.setup = s.setup ∧ t = take u := by
  obtain ⟨t', ht, ends⟩ := headReport_ends slot hs take s
  obtain rfl : t' = t := by rw [ht] at e; exact Host.Outcome.next.inj e
  obtain rfl | rfl | rfl := ends
  · exact .inl rfl
  · exact .inl rfl
  · exact .inr ⟨{ s with live := s.live.headFrame slot hs }, rfl, rfl⟩

theorem event_setup (e : event take s = .next t) : t.setup = s.setup ∨ ∃ u : State, u.setup = s.setup ∧ t = take u := by
  obtain ⟨t', ht, ends⟩ := event_ends take s
  obtain rfl : t' = t := by rw [ht] at e; exact Host.Outcome.next.inj e
  obtain rfl | rfl := ends
  · exact .inl rfl
  · exact .inr ⟨_, rfl, rfl⟩

end Envelopes

/-! ### Parts of the setup -/

/-- Every part of the setup outside a list is the same in two setups. -/
def Setup.KeptBut (parts : List SetupPart) (c d : Setup) : Prop := ∀ part, part ∉ parts → part.same c d

/-- A change of a state that writes no part of the setup outside a list. -/
def WritesOnly (parts : List SetupPart) (take : State → State) : Prop := ∀ s : State, s.setup.KeptBut parts (take s).setup

namespace Setup.KeptBut

variable {parts : List SetupPart} {b c d : Setup}

theorem of_eq (h : d = c) : c.KeptBut parts d := by
  subst h
  intro part _
  cases part <;> simp [SetupPart.same]

theorem trans (h : b.KeptBut parts c) (k : c.KeptBut parts d) : b.KeptBut parts d := by
  intro part out
  have h := h part out
  have k := k part out
  cases part <;> simp_all [SetupPart.same]

theorem mono {more : List SetupPart} (sub : parts ⊆ more) (h : c.KeptBut parts d) : c.KeptBut more d :=
  fun part out => h part fun m => out (sub m)

end Setup.KeptBut

theorem State.elapse_keptBut (n : Nat) (s : State) : s.setup.KeptBut [] (s.elapse n).setup := by
  intro part _
  cases part
  case storeBytes => exact fun _ => rfl
  all_goals simp [SetupPart.same, State.elapse]

namespace WritesOnly

variable {parts : List SetupPart} {take : State → State} {s t : State}

/-- A change that leaves the setup as it is. -/
theorem of_setup (k : ∀ s, (take s).setup = s.setup) : WritesOnly parts take := fun s => .of_eq (k s)

/-- A change of the live state after some time has passed. -/
theorem of_elapse (k : ∀ s, (take s).setup = s.setup ∨ ∃ n, (take s).setup = (s.elapse n).setup) :
    WritesOnly [] take := by
  intro s
  obtain k | ⟨n, k⟩ := k s
  · exact .of_eq k
  · rw [k]
    exact s.elapse_keptBut n

theorem cellMessage {form : ReplyForm} {h : Header} {exempt selOk lenOk lockable : Bool} (k : WritesOnly parts take)
    (e : cellMessage form h exempt selOk lenOk lockable take s = .next t) : s.setup.KeptBut parts t.setup := by
  obtain same | ⟨u, same, rfl⟩ := cellMessage_setup e
  · exact .of_eq same
  · rw [← same]
    exact k u

theorem manage {h : Header} {length : Nat} {lockable : Bool} (k : WritesOnly parts take)
    (e : manage h length lockable take s = .next t) : s.setup.KeptBut parts t.setup := cellMessage k e

theorem tableWrite {h : Header} {selector length : Nat} (k : WritesOnly parts take)
    (e : tableWrite h selector length take s = .next t) : s.setup.KeptBut parts t.setup := cellMessage k e

theorem modeMessage {h : Header} {selector : Nat} (k : WritesOnly parts take)
    (e : modeMessage h selector take s = .next t) : s.setup.KeptBut parts t.setup := cellMessage k e

theorem query {h : Header} {selector length : Nat} (k : WritesOnly parts take)
    (e : query h selector length take s = .next t) : s.setup.KeptBut parts t.setup := cellMessage k e

theorem headReport {slot : SlotId} {hs : Nat} (k : WritesOnly parts take) (e : headReport slot hs take s = .next t) :
    s.setup.KeptBut parts t.setup := by
  obtain same | ⟨u, same, rfl⟩ := headReport_setup e
  · exact .of_eq same
  · rw [← same]
    exact k u

theorem event (k : WritesOnly parts take) (e : event take s = .next t) : s.setup.KeptBut parts t.setup := by
  obtain same | ⟨u, same, rfl⟩ := event_setup e
  · exact .of_eq same
  · rw [← same]
    exact k u

end WritesOnly

/-! ### What the operations on the setup write -/

section Operations

variable {c d : Setup}

theorem Setup.setPattern_keptBut (i : PatternId) (p : Option Pattern) (free : Nat) :
    c.KeptBut [.patterns] (c.setPattern i p free) := by
  intro part out
  cases part <;> simp_all [SetupPart.same, Setup.setPattern]

/-- What an opening that is taken comes to (R2). -/
theorem Setup.openPattern_ok {p n : Nat} (e : c.openPattern p n = .ok d) :
    ∃ i, patternOf p = some i ∧ c.patterns[i] = none ∧ n ≤ c.freeRows
      ∧ d = c.setPattern i (some { complete := false, count := n, rows := List.replicate n none }) (c.freeRows - n) := by
  unfold Setup.openPattern at e
  split at e
  next => cases e
  next i hi =>
    split at e
    · cases e
    · split at e
      · cases e
      · split at e
        · cases e
        · rename_i free room
          exact ⟨i, hi, by simpa using free, by omega, (Except.ok.inj e).symm⟩

/-- What a row message that is taken comes to (R3): a pattern with the hole count of the one it replaces. -/
theorem Setup.writeRows_ok {p k : Nat} {rows : List RawRow} {y : Pattern} (e : c.writeRows p k rows = .ok (d, y)) :
    ∃ i x, c.patterns[i] = some x ∧ y.count = x.count ∧ d = c.setPattern i (some y) c.freeRows := by
  unfold Setup.writeRows at e
  split at e
  next => cases e
  next i hi =>
    split at e
    · cases e
    · split at e
      next => cases e
      next x hx =>
        split at e
        · cases e
        · split at e
          next => cases e
          next =>
            obtain ⟨rfl, rfl⟩ := Prod.mk.inj (Except.ok.inj e)
            exact ⟨i, x, hx, rfl, rfl⟩

/-- What a record that is taken leaves (R188): the setup as it was, a pattern opened, or rows written. -/
theorem loadRecord_ok {e f : Engine} {b : List Byte} (k : loadRecord c e b = .ok (d, f)) :
    d = c ∨ (∃ p n, c.openPattern p n = .ok d) ∨ ∃ p n rows y, c.writeRows p n rows = .ok (d, y) := by
  unfold loadRecord at k
  split at k
  · cases k
  · split at k
    · cases k
    · split at k
      next =>
        split at k
        next => cases k
        next o =>
          obtain ⟨rfl, -⟩ := Prod.mk.inj (Except.ok.inj k)
          exact .inr (.inl ⟨_, _, o⟩)
      next =>
        split at k
        next => cases k
        next => cases k
        next o =>
          obtain ⟨rfl, -⟩ := Prod.mk.inj (Except.ok.inj k)
          exact .inr (.inr ⟨_, _, _, _, o⟩)
      next =>
        split at k
        next => cases k
        next => exact .inl (Prod.mk.inj (Except.ok.inj k)).1.symm
      next => exact .inl (Prod.mk.inj (Except.ok.inj k)).1.symm

theorem loadRecord_keptBut {e f : Engine} {b : List Byte} (k : loadRecord c e b = .ok (d, f)) :
    c.KeptBut [.patterns] d := by
  obtain rfl | ⟨p, n, o⟩ | ⟨p, n, rows, y, o⟩ := loadRecord_ok k
  · exact .of_eq rfl
  · obtain ⟨i, -, -, -, rfl⟩ := Setup.openPattern_ok o
    exact Setup.setPattern_keptBut _ _ _
  · obtain ⟨i, x, -, -, rfl⟩ := Setup.writeRows_ok o
    exact Setup.setPattern_keptBut _ _ _

/-- The parts that a preload may write (R187 to R189). -/
abbrev preloadParts : List SetupPart := [.patterns, .tables, .preload, .lockout]

theorem State.endPreload_keptBut (st : PreloadState) (tables : Tables) (lockout : Bool) (s : State) :
    s.setup.KeptBut preloadParts (s.endPreload st tables lockout).setup := by
  intro part out
  cases part <;> simp_all [SetupPart.same, State.endPreload]

theorem State.failPreload_keptBut (position : Nat) (r : Reason) (s : State) :
    s.setup.KeptBut preloadParts (s.failPreload position r).setup := by
  intro part out
  cases part <;> simp_all [SetupPart.same, State.failPreload, State.endPreload, Setup.emptyPatterns]

theorem Setup.engine_keptBut (e : Option Engine) : c.KeptBut preloadParts { c with engine := e } := by
  intro part out
  cases part <;> simp_all [SetupPart.same]

theorem State.readHeader_keptBut (e : Engine) (s : State) : s.setup.KeptBut preloadParts (s.readHeader e).setup := by
  unfold State.readHeader
  dsimp only
  split
  · exact s.endPreload_keptBut _ _ _
  · split
    · exact s.failPreload_keptBut _ _
    · exact Setup.engine_keptBut _

theorem State.readRecord_keptBut (e : Engine) (addr left position : Nat) (crc want : BitVec 16) (s : State) :
    s.setup.KeptBut preloadParts (s.readRecord e addr left position crc want).setup := by
  unfold State.readRecord
  dsimp only
  split
  · exact s.failPreload_keptBut _ _
  · split
    next => exact s.failPreload_keptBut _ _
    next k => exact ((loadRecord_keptBut k).mono (by simp)).trans (Setup.engine_keptBut _)

/-- A reset leaves the bytes of the store (R185). -/
theorem State.takeReset_keptBut (cause : ResetCause) (s : State) :
    s.setup.KeptBut [.patterns, .frame, .tables, .mode, .guard, .preload, .lockout] (s.takeReset cause).setup := by
  intro part out
  cases part
  case storeBytes => exact fun _ => rfl
  all_goals simp at out

theorem State.placeRestartAnswer_writes (parts : List SetupPart) : WritesOnly parts State.placeRestartAnswer := by
  intro s
  unfold State.placeRestartAnswer
  split
  · split
    · intro part out
      cases part <;> simp [SetupPart.same]
    · exact .of_eq rfl
  · exact .of_eq rfl

theorem State.releaseFrame_keptBut (h : Header) (f : Frame) (mode : Mode) (s : State) :
    s.setup.KeptBut [.frame, .mode] (s.releaseFrame h f mode).setup := by
  intro part out
  cases part <;> simp_all [SetupPart.same, State.releaseFrame]

theorem State.startMode_keptBut (h : Header) (mode : Mode) (first : Rail → Bool) (s : State) :
    s.setup.KeptBut [.mode] (s.startMode h mode first).setup := by
  intro part out
  cases part <;> simp_all [SetupPart.same, State.startMode]

theorem State.holdMode_keptBut (h : Header) (s : State) : s.setup.KeptBut [.mode] (s.holdMode h).setup := by
  intro part out
  cases part <;> simp_all [SetupPart.same, State.holdMode]

theorem State.guardMoved_keptBut (before after : GuardState) (s : State) :
    s.setup.KeptBut [.mode] (s.guardMoved before after).setup := by
  unfold State.guardMoved
  split
  · split
    · exact .of_eq rfl
    · intro part out
      cases part <;> simp_all [SetupPart.same]
  · exact .of_eq rfl
  · exact .of_eq rfl

theorem State.withTables_keptBut (t : Tables) (s : State) : s.setup.KeptBut [.tables] (s.withTables t).setup := by
  intro part out
  cases part <;> simp_all [SetupPart.same]

theorem State.latch_keptBut (s : State) : s.setup.KeptBut [.guard] s.latch.setup := by
  unfold State.latch
  dsimp only
  split
  · intro part out
    cases part <;> simp_all [SetupPart.same]
  · exact .of_eq rfl

theorem State.endStoreWrite_keptBut (w : StoreWrite) (s : State) :
    s.setup.KeptBut [.storeBytes] (s.endStoreWrite w).setup := by
  have finish : (s.elapse w.left).setup.KeptBut [.storeBytes]
      { (s.elapse w.left).setup with store := (s.elapse w.left).setup.store.finishWrite } := by
    intro part out
    cases part <;> simp_all [SetupPart.same]
  have all := ((s.elapse_keptBut w.left).mono (by simp)).trans finish
  unfold State.endStoreWrite
  dsimp only
  split
  · split
    · exact all
    · exact all
  · exact all

end Operations

/-! ### What each command writes -/

section Commands

variable {s t : State}

theorem orderMessage_keptBut {h : Header} {length : Nat} {m : OrderMsg} (e : orderMessage h length m s = .next t) :
    s.setup.KeptBut [] t.setup :=
  WritesOnly.cellMessage (.of_setup fun s => by unfold takeOrder; split <;> rfl) e

theorem execPatternOpen_keptBut {h : Header} {p n : Nat} (e : execPatternOpen h p n s = .next t) :
    s.setup.KeptBut [.patterns] t.setup := by
  refine WritesOnly.manage ?_ e
  intro s
  beta_reduce
  split
  next => exact .of_eq rfl
  next k =>
    obtain ⟨i, -, -, -, rfl⟩ := Setup.openPattern_ok k
    exact Setup.setPattern_keptBut _ _ _

theorem execPatternRows_keptBut {h : Header} {p k : Nat} {rows : List RawRow}
    (e : execPatternRows h p k rows s = .next t) : s.setup.KeptBut [.patterns] t.setup := by
  refine WritesOnly.manage ?_ e
  intro s
  beta_reduce
  split
  next => exact .of_eq rfl
  next => exact .of_eq rfl
  next k =>
    obtain ⟨i, x, -, -, rfl⟩ := Setup.writeRows_ok k
    exact Setup.setPattern_keptBut _ _ _

theorem execPatternDelete_keptBut {h : Header} {p : Nat} (e : execPatternDelete h p s = .next t) :
    s.setup.KeptBut [.patterns] t.setup := by
  refine WritesOnly.manage ?_ e
  intro s
  beta_reduce
  split
  · exact .of_eq rfl
  · split
    · exact .of_eq rfl
    · split
      · exact .of_eq rfl
      · exact Setup.setPattern_keptBut _ _ _

theorem execTableWriteTiming_keptBut {h : Header} {entry value : Nat}
    (e : execTableWriteTiming h entry value s = .next t) : s.setup.KeptBut [.tables] t.setup := by
  refine WritesOnly.tableWrite ?_ e
  intro s
  beta_reduce
  split
  · exact .of_eq rfl
  · exact State.withTables_keptBut _ _

theorem execTableWriteSlot_keptBut {h : Header} {slot kind home : Nat}
    (e : execTableWriteSlot h slot kind home s = .next t) : s.setup.KeptBut [.tables] t.setup := by
  refine WritesOnly.tableWrite ?_ e
  intro s
  beta_reduce
  split
  · exact .of_eq rfl
  · dsimp only
    split
    · exact .of_eq rfl
    · exact State.withTables_keptBut _ _

theorem execTableWriteZone_keptBut {h : Header} {zone slot channel : Nat}
    (e : execTableWriteZone h zone slot channel s = .next t) : s.setup.KeptBut [.tables] t.setup := by
  refine WritesOnly.tableWrite ?_ e
  intro s
  beta_reduce
  split
  · exact .of_eq rfl
  · split
    · exact .of_eq rfl
    · split
      · exact .of_eq rfl
      · dsimp only
        split <;> exact State.withTables_keptBut _ _

theorem execTableWriteLane_keptBut {h : Header} {lane slot cls mode target : Nat}
    (e : execTableWriteLane h lane slot cls mode target s = .next t) : s.setup.KeptBut [.tables] t.setup := by
  refine WritesOnly.tableWrite ?_ e
  intro s
  beta_reduce
  split
  · exact .of_eq rfl
  · split
    · exact .of_eq rfl
    · split
      · exact .of_eq rfl
      · exact State.withTables_keptBut _ _

theorem execTableWritePump_keptBut {h : Header} {value : Nat} (e : execTableWritePump h value s = .next t) :
    s.setup.KeptBut [.tables] t.setup := by
  refine WritesOnly.tableWrite ?_ e
  intro s
  beta_reduce
  split
  · exact .of_eq rfl
  · exact State.withTables_keptBut _ _

theorem execHello_keptBut {slot : SlotId} {hs revision : Nat} {b : HelloBody}
    (e : execHello slot hs revision b s = .next t) : s.setup.KeptBut [.tables] t.setup := by
  refine WritesOnly.headReport ?_ e
  intro s
  beta_reduce
  split
  · exact .of_eq rfl
  · split
    · exact .of_eq rfl
    · split
      · exact .of_eq rfl
      · exact State.withTables_keptBut _ _
      · exact .of_eq rfl

theorem execFrameBegin_keptBut {h : Header} {p serial : Nat} (e : execFrameBegin h p serial s = .next t) :
    s.setup.KeptBut [.frame, .mode] t.setup := by
  refine WritesOnly.manage ?_ e
  intro s
  beta_reduce
  split
  · exact .of_eq rfl
  · split
    · exact .of_eq rfl
    · split
      · exact .of_eq rfl
      · split
        · exact .of_eq rfl
        · intro part out
          cases part <;> simp_all [SetupPart.same]

theorem execFrameEnd_keptBut {h : Header} (e : execFrameEnd h s = .next t) :
    s.setup.KeptBut [.frame, .mode] t.setup := by
  refine WritesOnly.manage ?_ e
  intro s
  beta_reduce
  split
  · exact .of_eq rfl
  · split
    · exact .of_eq rfl
    · split
      · exact .of_eq rfl
      · split
        · exact .of_eq rfl
        · exact s.releaseFrame_keptBut _ _ _

theorem execFrameAbandon_keptBut {h : Header} (e : execFrameAbandon h s = .next t) :
    s.setup.KeptBut [.frame, .mode] t.setup := by
  refine WritesOnly.manage ?_ e
  intro s
  beta_reduce
  split
  · exact .of_eq rfl
  · split
    · exact .of_eq rfl
    · exact s.releaseFrame_keptBut _ _ _

theorem execModeRun_keptBut {h : Header} (e : execModeRun h s = .next t) : s.setup.KeptBut [.mode] t.setup := by
  refine WritesOnly.modeMessage ?_ e
  intro s
  beta_reduce
  split
  · exact .of_eq rfl
  · split
    · exact .of_eq rfl
    · split
      · exact .of_eq rfl
      · split
        · exact s.startMode_keptBut _ _ _
        · exact .of_eq rfl

theorem execModeHold_keptBut {h : Header} (e : execModeHold h s = .next t) : s.setup.KeptBut [.mode] t.setup := by
  refine WritesOnly.modeMessage ?_ e
  intro s
  beta_reduce
  split
  · exact .of_eq rfl
  · split
    · exact .of_eq rfl
    · split
      · exact s.holdMode_keptBut _
      · exact .of_eq rfl

theorem execModeResume_keptBut {h : Header} (e : execModeResume h s = .next t) : s.setup.KeptBut [.mode] t.setup := by
  refine WritesOnly.modeMessage ?_ e
  intro s
  beta_reduce
  split
  · exact .of_eq rfl
  · split
    · exact .of_eq rfl
    · split
      · exact .of_eq rfl
      · split
        · exact s.holdMode_keptBut _
        · exact s.startMode_keptBut _ _ _

theorem execStoreWrite_keptBut {h : Header} {addr : Nat} {data : List Byte}
    (e : execStoreWrite h addr data s = .next t) : s.setup.KeptBut [] t.setup := by
  refine WritesOnly.cellMessage ?_ e
  intro s
  beta_reduce
  split
  · exact .of_eq rfl
  · intro part _
    cases part
    case storeBytes => exact fun _ => rfl
    all_goals simp [SetupPart.same]

theorem execStoreWriteEnd_keptBut (e : execStoreWriteEnd s = .next t) : s.setup.KeptBut [.storeBytes] t.setup := by
  unfold execStoreWriteEnd at e
  split at e
  · obtain rfl := Host.Outcome.next.inj e
    exact .of_eq rfl
  · obtain rfl := Host.Outcome.next.inj e
    exact s.endStoreWrite_keptBut _

theorem execUnlock_keptBut {h : Header} (e : execUnlock h s = .next t) : s.setup.KeptBut [.lockout] t.setup := by
  refine WritesOnly.manage ?_ e
  intro s
  beta_reduce
  intro part out
  cases part <;> simp_all [SetupPart.same]

theorem execReload_keptBut {h : Header} (e : execReload h s = .next t) :
    s.setup.KeptBut [.patterns, .preload, .lockout] t.setup := by
  refine WritesOnly.manage ?_ e
  intro s
  beta_reduce
  split
  · exact .of_eq rfl
  · split
    · exact .of_eq rfl
    · split
      · exact .of_eq rfl
      · intro part out
        cases part <;> simp_all [SetupPart.same, Setup.emptyPatterns, Setup.beginPreload]

theorem execRestart_keptBut {h : Header} (e : execRestart h s = .next t) : s.setup.KeptBut [] t.setup := by
  refine WritesOnly.manage ?_ e
  intro s
  beta_reduce
  split
  · exact .of_eq rfl
  · refine .trans (fun part _ => ?_) (State.placeRestartAnswer_writes [] _)
    cases part <;> simp [SetupPart.same]

theorem execPreloadHeaderRead_keptBut (e : execPreloadHeaderRead s = .next t) : s.setup.KeptBut preloadParts t.setup := by
  refine WritesOnly.event ?_ e
  intro s
  beta_reduce
  split
  · exact .of_eq rfl
  · split
    · exact .of_eq rfl
    · split
      · exact .of_eq rfl
      · exact s.readHeader_keptBut _

theorem execPreloadRecord_keptBut (e : execPreloadRecord s = .next t) : s.setup.KeptBut preloadParts t.setup := by
  refine WritesOnly.event ?_ e
  intro s
  beta_reduce
  split
  · exact .of_eq rfl
  · split
    · exact .of_eq rfl
    · split
      · exact .of_eq rfl
      · exact s.readRecord_keptBut _ _ _ _ _ _

theorem execPreloadEnd_keptBut (e : execPreloadEnd s = .next t) : s.setup.KeptBut preloadParts t.setup := by
  refine WritesOnly.event ?_ e
  intro s
  beta_reduce
  split
  · exact .of_eq rfl
  · split
    · exact .of_eq rfl
    · split
      · exact .of_eq rfl
      · split
        · exact s.failPreload_keptBut _ _
        · exact s.endPreload_keptBut _ _ _

theorem execCellSentEvent_keptBut (e : execCellSentEvent s = .next t) :
    s.setup.KeptBut [.patterns, .frame, .tables, .mode, .guard, .preload, .lockout] t.setup := by
  refine WritesOnly.event ?_ e
  intro s
  beta_reduce
  split
  · exact .of_eq rfl
  · split
    · exact s.takeReset_keptBut _
    · exact State.placeRestartAnswer_writes _ _

theorem execResetPinRelease_keptBut (e : execResetPinRelease s = .next t) :
    s.setup.KeptBut [.patterns, .frame, .tables, .mode, .guard, .preload, .lockout] t.setup := by
  unfold execResetPinRelease at e
  split at e
  · obtain rfl := Host.Outcome.next.inj e
    exact s.takeReset_keptBut _
  · obtain rfl := Host.Outcome.next.inj e
    exact .of_eq rfl

theorem execGuardChannelChange_keptBut {ch : Channel} {v : Level} (e : execGuardChannelChange ch v s = .next t) :
    s.setup.KeptBut [.guard, .mode] t.setup := by
  have pins (p : GuardPins) : s.setup.KeptBut [.guard, .mode] { s.setup with pins := p } := by
    intro part out
    cases part <;> simp_all [SetupPart.same]
  unfold execGuardChannelChange at e
  dsimp only at e
  split at e
  · obtain rfl := Host.Outcome.next.inj e
    exact pins _
  · split at e
    · obtain rfl := Host.Outcome.next.inj e
      exact pins _
    · obtain rfl := Host.Outcome.next.inj e
      refine .trans (fun part out => ?_) ((State.guardMoved_keptBut _ _ _).mono (by simp))
      cases part <;> simp_all [SetupPart.same]

theorem execDiscrepancyExpiry_keptBut (e : execDiscrepancyExpiry s = .next t) : s.setup.KeptBut [.guard] t.setup := by
  refine WritesOnly.event ?_ e
  intro s
  beta_reduce
  split
  · exact .of_eq rfl
  · exact ((s.elapse_keptBut _).mono (by simp)).trans (State.latch_keptBut _)

theorem execHeadLinkHoldEnd_keptBut (e : execHeadLinkHoldEnd s = .next t) : s.setup.KeptBut [] t.setup := by
  refine WritesOnly.event ?_ e
  intro s
  beta_reduce
  split
  · exact .of_eq rfl
  · rename_i n _
    refine (s.elapse_keptBut n).trans (c := (s.elapse n).setup) fun part _ => ?_
    cases part
    case storeBytes => exact fun _ => rfl
    all_goals simp [SetupPart.same]

theorem stageExpiry_keptBut {slot : SlotId} {p : TimedStage → Bool} {take : Setup → TimedStage → Taking → Taking}
    (e : stageExpiry slot p take s = .next t) : s.setup.KeptBut [] t.setup := by
  refine WritesOnly.event ?_ e
  intro s
  beta_reduce
  split
  · exact .of_eq rfl
  · split
    · exact s.elapse_keptBut _
    · exact .of_eq rfl

end Commands

/-- No command writes a part of the setup that its list does not name. -/
theorem exec_keptBut (i : Instr) (s t : State) (e : exec i s = .next t) : s.setup.KeptBut (writes i) t.setup := by
  cases i
  case drill | ream | setRivet | heat | clamp | unclamp | park => exact orderMessage_keptBut e
  case patternOpen => exact execPatternOpen_keptBut e
  case patternRows => exact execPatternRows_keptBut e
  case patternDelete => exact execPatternDelete_keptBut e
  case tableWriteTiming => exact execTableWriteTiming_keptBut e
  case tableWriteSlot => exact execTableWriteSlot_keptBut e
  case tableWriteZone => exact execTableWriteZone_keptBut e
  case tableWriteLane => exact execTableWriteLane_keptBut e
  case tableWritePump => exact execTableWritePump_keptBut e
  case frameBegin => exact execFrameBegin_keptBut e
  case frameEnd => exact execFrameEnd_keptBut e
  case frameAbandon => exact execFrameAbandon_keptBut e
  case modeRun => exact execModeRun_keptBut e
  case modeHold => exact execModeHold_keptBut e
  case modeResume => exact execModeResume_keptBut e
  case storeWrite => exact execStoreWrite_keptBut e
  case storeWriteEnd => exact execStoreWriteEnd_keptBut e
  case unlock => exact execUnlock_keptBut e
  case reload => exact execReload_keptBut e
  case restart => exact execRestart_keptBut e
  case preloadHeaderRead => exact execPreloadHeaderRead_keptBut e
  case preloadRecord => exact execPreloadRecord_keptBut e
  case preloadEnd => exact execPreloadEnd_keptBut e
  case hello => exact execHello_keptBut e
  case guardChannelChange => exact execGuardChannelChange_keptBut e
  case discrepancyExpiry => exact execDiscrepancyExpiry_keptBut e
  case headLinkHoldEnd => exact execHeadLinkHoldEnd_keptBut e
  case cellSentEvent => exact execCellSentEvent_keptBut e
  case resetPinRelease => exact execResetPinRelease_keptBut e
  case powerUp =>
    obtain rfl := Host.Outcome.next.inj e
    exact s.takeReset_keptBut _
  case resetPinHeld =>
    obtain rfl := Host.Outcome.next.inj e
    intro part _
    cases part <;> simp [SetupPart.same]
  case acceptStageExpiry | runStageExpiry | travelStageExpiry | graceStageExpiry | abortStageExpiry =>
    dsimp only [exec, execAcceptStageExpiry, execRunStageExpiry, execTravelStageExpiry, execGraceStageExpiry,
      execAbortStageExpiry] at e
    exact stageExpiry_keptBut e
  -- what remains works on the live state alone, some of it after time has passed
  case cancel =>
    refine WritesOnly.cellMessage (.of_setup fun s => ?_) (show execCancel _ s = _ from e)
    repeat' split
    all_goals rfl
  case unknownKind h kind =>
    refine WritesOnly.cellMessage (.of_setup fun s => ?_) (show execUnknownKind h kind s = _ from e)
    rfl
  case holeRework | slotClear | slotRelease | lampSet | noticeTake | storeRead =>
    dsimp only [exec, execHoleRework, execSlotClear, execSlotRelease, execLampSet, execNoticeTake, execStoreRead] at e
    refine WritesOnly.manage (.of_setup fun s => ?_) e
    repeat' split
    all_goals rfl
  case queryStatus | queryHole | queryOrder | querySlot | queryRail | queryLane | queryZone | queryPump | queryLink
      | queryTable | queryPattern =>
    dsimp only [exec, execQueryStatus, execQueryHole, execQueryOrder, execQuerySlot, execQueryRail, execQueryLane,
      execQueryZone, execQueryPump, execQueryLink, execQueryTable, execQueryPattern] at e
    refine WritesOnly.query (.of_setup fun s => ?_) e
    repeat' split
    all_goals rfl
  case accept | done | abortedNone | abortedPartial | arrived | fault | leverOpen | leverClosed =>
    dsimp only [exec, execAccept, execDone, execAbortedNone, execAbortedPartial, execArrived, execFault, execLeverOpen,
      execLeverClosed, State.abortedHeat] at e
    refine WritesOnly.headReport (.of_setup fun s => ?_) e
    repeat' split
    all_goals rfl
  case damagedFrame | holdoffDiscard | restartDiscardedFrame | linkUp | clampState | headMessageSetAside | headSentEvent
      | startDelimiter | lineActivity =>
    dsimp only [exec, execDamagedFrame, execHoldoffDiscard, execRestartDiscardedFrame, execLinkUp, execClampState,
      execHeadMessageSetAside, execHeadSentEvent, execStartDelimiter, execLineActivity, State.cellBytes,
      State.clampReport] at e
    refine WritesOnly.event (.of_setup fun s => ?_) e
    repeat' split
    all_goals rfl
  case linkDown | rivetExpiryUnassigned | rivetExpiryAssigned | cadenceExpiry | claimStarved =>
    dsimp only [exec, execLinkDown, execRivetExpiryUnassigned, execRivetExpiryAssigned, execCadenceExpiry,
      execClaimStarved] at e
    refine WritesOnly.event (.of_elapse fun s => ?_) e
    repeat' split
    all_goals first
      | exact .inl rfl
      | exact .inr ⟨_, rfl⟩

/-- Settles O3: the frame of every command over the setup, part by part. -/
theorem setupFrame : Obligations.SetupFrame := fun i s t part e out => exec_keptBut i s t e part out

/-! ### The balance of the free rows -/

/-- The rows that the patterns in use hold of the pool. -/
def rowsHeld (v : Vector (Option Pattern) 4) : Nat := rowsOf v[0] + rowsOf v[1] + rowsOf v[2] + rowsOf v[3]

/-- The law of R1 on the setup alone. -/
def Setup.Balanced (c : Setup) : Prop := c.freeRows + rowsHeld c.patterns = Config.patternRows

theorem rowsBalanced_iff (s : State) : RowsBalanced s ↔ s.setup.Balanced := Iff.rfl

theorem rowsHeld_set (v : Vector (Option Pattern) 4) (i : PatternId) (p : Option Pattern) :
    rowsHeld (v.set i p) + rowsOf v[i] = rowsHeld v + rowsOf p := by
  unfold rowsHeld
  fin_cases i <;> simp <;> omega

/-- A change of a state that keeps the balance. -/
def KeepsBalance (take : State → State) : Prop := ∀ s : State, s.setup.Balanced → (take s).setup.Balanced

namespace Setup.Balanced

variable {c d : Setup}

theorem congr (b : c.Balanced) (k : c.KeptBut [] d) : d.Balanced := by
  obtain ⟨hp, hr⟩ := k .patterns (by simp)
  unfold Setup.Balanced at *
  rw [hp, hr, b]

/-- Emptying the four patterns gives every row back (R8). -/
theorem emptied (hp : d.patterns = Vector.replicate 4 none) (hr : d.freeRows = Config.patternRows) : d.Balanced := by
  unfold Setup.Balanced
  rw [hp, hr]
  rfl

/-- A pattern replaced, and the free rows moved by the difference of the hole counts. -/
theorem setPattern {i : PatternId} {p : Option Pattern} {free : Nat} (b : c.Balanced)
    (k : free + rowsOf p = c.freeRows + rowsOf c.patterns[i]) : (c.setPattern i p free).Balanced := by
  have held := rowsHeld_set c.patterns i p
  unfold Setup.Balanced at *
  simp only [Setup.setPattern]
  omega

theorem openPattern {p n : Nat} (b : c.Balanced) (e : c.openPattern p n = .ok d) : d.Balanced := by
  obtain ⟨i, -, empty, room, rfl⟩ := Setup.openPattern_ok e
  apply b.setPattern
  rw [empty]
  show c.freeRows - n + n = c.freeRows + 0
  omega

theorem writeRows {p k : Nat} {rows : List RawRow} {y : Pattern} (b : c.Balanced)
    (e : c.writeRows p k rows = .ok (d, y)) : d.Balanced := by
  obtain ⟨i, x, used, count, rfl⟩ := Setup.writeRows_ok e
  apply b.setPattern
  rw [used]
  show c.freeRows + y.count = c.freeRows + x.count
  rw [count]

theorem loadRecord {e f : Engine} {bytes : List Byte} (b : c.Balanced) (k : loadRecord c e bytes = .ok (d, f)) :
    d.Balanced := by
  obtain rfl | ⟨p, n, o⟩ | ⟨p, n, rows, y, o⟩ := loadRecord_ok k
  · exact b
  · exact b.openPattern o
  · exact b.writeRows o

end Setup.Balanced

theorem State.failPreload_balanced (position : Nat) (r : Reason) (s : State) : (s.failPreload position r).setup.Balanced :=
  .emptied rfl rfl

theorem State.takeReset_balanced (cause : ResetCause) (s : State) : (s.takeReset cause).setup.Balanced := .emptied rfl rfl

theorem State.placeRestartAnswer_keepsBalance : KeepsBalance State.placeRestartAnswer :=
  fun s b => b.congr (State.placeRestartAnswer_writes [] s)

namespace KeepsBalance

variable {take : State → State} {s t : State}

theorem manage {h : Header} {length : Nat} {lockable : Bool} (k : KeepsBalance take)
    (e : manage h length lockable take s = .next t) (b : s.setup.Balanced) : t.setup.Balanced := by
  obtain same | ⟨u, same, rfl⟩ := cellMessage_setup e
  · rwa [same]
  · exact k u (by rwa [same])

theorem event (k : KeepsBalance take) (e : event take s = .next t) (b : s.setup.Balanced) : t.setup.Balanced := by
  obtain same | ⟨u, same, rfl⟩ := event_setup e
  · rwa [same]
  · exact k u (by rwa [same])

end KeepsBalance

section BalanceOfCommands

variable {s t : State}

theorem execPatternOpen_balanced {h : Header} {p n : Nat} (e : execPatternOpen h p n s = .next t)
    (b : s.setup.Balanced) : t.setup.Balanced := by
  refine KeepsBalance.manage ?_ e b
  intro s b
  beta_reduce
  split
  next => exact b
  next k => exact b.openPattern k

theorem execPatternRows_balanced {h : Header} {p k : Nat} {rows : List RawRow}
    (e : execPatternRows h p k rows s = .next t) (b : s.setup.Balanced) : t.setup.Balanced := by
  refine KeepsBalance.manage ?_ e b
  intro s b
  beta_reduce
  split
  next => exact b
  next => exact b
  next k => exact b.writeRows k

theorem execPatternDelete_balanced {h : Header} {p : Nat} (e : execPatternDelete h p s = .next t)
    (b : s.setup.Balanced) : t.setup.Balanced := by
  refine KeepsBalance.manage ?_ e b
  intro s b
  beta_reduce
  split
  · exact b
  · split
    next => exact b
    next used =>
      split
      · exact b
      · apply b.setPattern
        rw [used]
        rfl

theorem execReload_balanced {h : Header} (e : execReload h s = .next t) (b : s.setup.Balanced) : t.setup.Balanced := by
  refine KeepsBalance.manage ?_ e b
  intro s b
  beta_reduce
  split
  · exact b
  · split
    · exact b
    · split
      · exact b
      · exact .emptied rfl rfl

theorem State.readHeader_balanced (e : Engine) (s : State) (b : s.setup.Balanced) : (s.readHeader e).setup.Balanced := by
  unfold State.readHeader
  dsimp only
  split
  · exact b
  · split
    · exact s.failPreload_balanced _ _
    · exact b

theorem State.readRecord_balanced (e : Engine) (addr left position : Nat) (crc want : BitVec 16) (s : State)
    (b : s.setup.Balanced) : (s.readRecord e addr left position crc want).setup.Balanced := by
  unfold State.readRecord
  dsimp only
  split
  · exact s.failPreload_balanced _ _
  · split
    next => exact s.failPreload_balanced _ _
    next k =>
      have kept := b.loadRecord k
      exact kept

theorem execPreloadHeaderRead_balanced (e : execPreloadHeaderRead s = .next t) (b : s.setup.Balanced) :
    t.setup.Balanced := by
  refine KeepsBalance.event ?_ e b
  intro s b
  beta_reduce
  split
  · exact b
  · split
    · exact b
    · split
      · exact b
      · exact s.readHeader_balanced _ b

theorem execPreloadRecord_balanced (e : execPreloadRecord s = .next t) (b : s.setup.Balanced) : t.setup.Balanced := by
  refine KeepsBalance.event ?_ e b
  intro s b
  beta_reduce
  split
  · exact b
  · split
    · exact b
    · split
      · exact b
      · exact s.readRecord_balanced _ _ _ _ _ _ b

theorem execPreloadEnd_balanced (e : execPreloadEnd s = .next t) (b : s.setup.Balanced) : t.setup.Balanced := by
  refine KeepsBalance.event ?_ e b
  intro s b
  beta_reduce
  split
  · exact b
  · split
    · exact b
    · split
      · exact b
      · split
        · exact s.failPreload_balanced _ _
        · exact b

theorem execCellSentEvent_balanced (e : execCellSentEvent s = .next t) (b : s.setup.Balanced) : t.setup.Balanced := by
  refine KeepsBalance.event ?_ e b
  intro s b
  beta_reduce
  split
  · exact b
  · split
    · exact s.takeReset_balanced _
    · exact State.placeRestartAnswer_keepsBalance _ b

theorem execResetPinRelease_balanced (e : execResetPinRelease s = .next t) (b : s.setup.Balanced) :
    t.setup.Balanced := by
  unfold execResetPinRelease at e
  split at e
  · obtain rfl := Host.Outcome.next.inj e
    exact s.takeReset_balanced _
  · obtain rfl := Host.Outcome.next.inj e
    exact b

end BalanceOfCommands

/-- Every command keeps the balance: one that writes no pattern by its frame (O3), any other by its own rule. -/
theorem exec_balanced (i : Instr) (s t : State) (e : exec i s = .next t) (b : s.setup.Balanced) : t.setup.Balanced := by
  by_cases writesPatterns : SetupPart.patterns ∈ writes i
  · cases i
    case patternOpen => exact execPatternOpen_balanced e b
    case patternRows => exact execPatternRows_balanced e b
    case patternDelete => exact execPatternDelete_balanced e b
    case reload => exact execReload_balanced e b
    case preloadHeaderRead => exact execPreloadHeaderRead_balanced e b
    case preloadRecord => exact execPreloadRecord_balanced e b
    case preloadEnd => exact execPreloadEnd_balanced e b
    case cellSentEvent => exact execCellSentEvent_balanced e b
    case resetPinRelease => exact execResetPinRelease_balanced e b
    case powerUp =>
      obtain rfl := Host.Outcome.next.inj e
      exact s.takeReset_balanced _
    all_goals simp [writes] at writesPatterns
  · obtain ⟨hp, hr⟩ := exec_keptBut i s t e .patterns writesPatterns
    unfold Setup.Balanced at *
    rw [hp, hr, b]

/-- Settles O7: a step runs one command or lets a millisecond pass, and either keeps the balance. -/
theorem stepKeepsRows : Obligations.StepKeepsRows := by
  intro s t b e
  rw [rowsBalanced_iff] at b ⊢
  unfold step at e
  split at e
  · unfold idle at e
    split at e
    · exact exec_balanced _ _ _ e b
    · obtain rfl := Host.Outcome.next.inj e
      exact b
  · exact exec_balanced _ _ _ e b

/-- Settles O11: the store is empty, the patterns are EMPTY, the guard is CLOSED, no frame is bound and the pool is empty. -/
theorem resetKeepsLaws : Obligations.ResetKeepsLaws := by
  refine ⟨⟨rfl, ?_⟩, rfl, .inr rfl, ⟨fun _ => rfl, fun _ => ⟨rfl, rfl⟩, fun _ => rfl⟩, ?_, List.nodup_nil, List.nodup_nil⟩
  · intro w hw
    cases hw
  · exact Nat.zero_le _

end Sys2Proof.Machine
end

section
/-! PROOFS. Patterns, rows and frames (O12 to O15). -/

namespace Sys2Proof.Machine

open Sys2Proof.Safety

/-! ### Management messages that are weighed -/

section Weighing

variable {h : Header} {n : Nat} {lockable : Bool} {take : State → State} {s : State}

/-- A weighed management message of its own selector and length is taken, with no lockout against it. -/
theorem manage_taken (w : Weighed s) (p : Plain h n) (k : lockable = true → s.setup.lockout = false) :
    manage h n lockable take s = .next (take (closed s)) := w.taken p.holds.1 p.holds.2 k

/-- One that the lockout turns away. -/
theorem manage_locked (w : Weighed s) (p : Plain h n) (k : s.setup.lockout = true) :
    manage h n true take s = .next (answered s h (.refused .locked)) := w.locked p.holds.1 p.holds.2 k

/-- One of another length. -/
theorem manage_misshapen (w : Weighed s) (k : h.length ≠ n) :
    manage h n lockable take s = .next (answered s h (.refused .badValue)) := w.misshapen (.inr (by simpa using k))

end Weighing

@[simp] theorem within_eq_false {low high n : Nat} : within low high n = false ↔ n < low ∨ high < n := by
  rw [← Bool.not_eq_true, within_eq_true]
  omega

/-! ### PATTERN OPEN and PATTERN DELETE (R2, R6) -/

section PatternStore

variable {c : Setup} {p n : Nat} {i : PatternId}

theorem Setup.openPattern_badValue (k : patternOf p = none ∨ n = 0 ∨ 1024 < n) :
    c.openPattern p n = .error .badValue := by
  unfold Setup.openPattern
  cases hp : patternOf p with
  | none => rfl
  | some i =>
    have out : within 1 Config.maxHoles n = false := by
      rw [within_eq_false]
      show n < 1 ∨ 1024 < n
      simp only [hp, reduceCtorEq, false_or] at k
      omega
    simp [out]

/-- An opening with its numbers in range, by what the pattern and the pool hold. -/
theorem Setup.openPattern_eq (hp : patternOf p = some i) (low : 1 ≤ n) (high : n ≤ 1024) :
    c.openPattern p n =
      if c.patterns[i] ≠ none then .error .exists_
      else if c.freeRows < n then .error .noRoom
      else .ok (c.setPattern i (some { complete := false, count := n, rows := List.replicate n none }) (c.freeRows - n)) := by
  have inRange : within 1 Config.maxHoles n = true := within_eq_true.2 ⟨low, high⟩
  simp only [Setup.openPattern, hp, inRange, Bool.not_true, Bool.false_eq_true, if_false, ← Option.isSome_iff_ne_none]

theorem Setup.bound_iff : c.bound i = true ↔ c.frame.map Frame.pattern = some i := by
  unfold Setup.bound
  cases c.frame <;> simp

end PatternStore

/-- Settles O12, by the cases of `openPattern` and of the deletion. -/
theorem patternOpenAndDelete : Obligations.PatternOpenAndDelete := by
  refine ⟨fun h p n s w plain => ?_, fun h p s w plain => ?_⟩
  · rw [show exec (.patternOpen h p n) s = execPatternOpen h p n s from rfl, execPatternOpen,
      manage_taken w plain (by simp), closed_setup]
    refine ⟨fun k => ?_, fun i hp low high => ?_⟩
    · rw [Setup.openPattern_badValue k]
      rfl
    · rw [Setup.openPattern_eq hp low high]
      refine ⟨fun used => ?_, fun empty full => ?_, fun empty room => ?_⟩
      · rw [if_pos used]
        rfl
      · rw [if_neg (not_not.2 empty), if_pos full]
        rfl
      · rw [if_neg (not_not.2 empty), if_neg (by omega)]
        rfl
  · rw [show exec (.patternDelete h p) s = execPatternDelete h p s from rfl, execPatternDelete,
      manage_taken w plain (by simp), closed_setup]
    refine ⟨fun k => ?_, fun i hp => ⟨fun empty => ?_, fun x used => ⟨fun bound => ?_, fun free => ?_⟩⟩⟩
    · simp only [k]
      rfl
    · simp only [hp, empty]
      rfl
    · simp only [hp, used, Setup.bound_iff.2 bound, if_true]
      rfl
    · simp only [hp, used, mt Setup.bound_iff.1 free]
      rfl

/-! ### Row checks (R4) -/

/-- The predecessors read are the first fields of the two, as many as the count says. -/
theorem rawPreds_eq_take (r : RawRow) : rawPreds r = [r.pred1, r.pred2].take r.predCount := by
  unfold rawPreds
  match r.predCount with
  | 0 => rfl
  | 1 => rfl
  | k + 2 => simp

theorem predsOk_iff (r : RawRow) :
    predsOk r = true ↔ r.predCount ≤ 2 ∧ (1 ≤ r.predCount → 1 ≤ r.pred1 ∧ r.pred1 < r.hole)
      ∧ (r.predCount = 2 → 1 ≤ r.pred2 ∧ r.pred2 < r.hole ∧ r.pred1 ≠ r.pred2) := by
  unfold predsOk
  rw [rawPreds_eq_take]
  match h : r.predCount with
  | 0 => simp
  | 1 => simp; omega
  | 2 => simp; omega
  | k + 3 => simp

/-- Of a list of fields with their failures, the first that fails. -/
theorem find_failing (f : RowField) (failing : Bool) (rest : List (RowField × Bool)) :
    (((f, failing) :: rest).find? Prod.snd).map Prod.fst = if failing then some f else (rest.find? Prod.snd).map Prod.fst := by
  cases failing <;> rfl

theorem failing_eq_none {p : Prop} [Decidable p] {f : RowField} {rest : Option RowField} :
    (if p then some f else rest) = none ↔ ¬ p ∧ rest = none := by
  split <;> simp_all

/-- A row passes when every field is in its range. -/
theorem rowFault_eq_none (n : Nat) (earlier : List Nat) (r : RawRow) :
    rowFault n earlier r = none ↔
      (1 ≤ r.hole ∧ r.hole ≤ n ∧ r.hole ∉ earlier) ∧ (1 ≤ r.zone ∧ r.zone ≤ 8) ∧ r.centre ≤ 15 ∧ r.offset ≤ 999
        ∧ (2 ≤ r.plies ∧ r.plies ≤ 4) ∧ (8 ≤ r.grip ∧ r.grip ≤ 120) ∧ (1 ≤ r.diameter ∧ r.diameter ≤ 6)
        ∧ (1 ≤ r.force ∧ r.force ≤ 3) ∧ predsOk r = true := by
  unfold rowFault
  simp only [failing_eq_none, Bool.or_eq_true, not_or, Bool.not_eq_true', Bool.not_eq_false, within_eq_true,
    List.contains_iff_mem, and_assoc, Nat.zero_le, true_and, and_true]

/-- A row is told from the rows before it by their hole numbers alone. -/
theorem rowFault_congr {n : Nat} {a b : List Nat} (same : ∀ x, x ∈ a ↔ x ∈ b) (r : RawRow) :
    rowFault n a r = rowFault n b r := by
  have contains : a.contains r.hole = b.contains r.hole := by
    rw [Bool.eq_iff_iff, List.contains_iff_mem, List.contains_iff_mem, same]
  unfold rowFault
  rw [contains]

/-- The rows before a row in the order of the message, the first of them taken with those before the message. -/
theorem rowFault_cons_earlier (n : Nat) (r : RawRow) (before : List RawRow) (earlier : List Nat) (x : RawRow) :
    rowFault n (before.map RawRow.hole ++ r.hole :: earlier) x
      = rowFault n ((r :: before).map RawRow.hole ++ earlier) x :=
  rowFault_congr (fun y => by simp only [List.map_cons, List.cons_append, List.mem_append, List.mem_cons]; tauto) x

/-- The field reported is the first of the list that fails. -/
theorem rowFault_eq_find (n : Nat) (earlier : List Nat) (r : RawRow) :
    rowFault n earlier r = (([
        (.hole, r.hole = 0 || decide (n < r.hole) || earlier.contains r.hole), (.zone, r.zone = 0 || decide (8 < r.zone)),
        (.centre, decide (15 < r.centre)), (.offset, decide (999 < r.offset)),
        (.plies, decide (r.plies < 2) || decide (4 < r.plies)), (.grip, decide (r.grip < 8) || decide (120 < r.grip)),
        (.diameter, r.diameter = 0 || decide (6 < r.diameter)), (.force, r.force = 0 || decide (3 < r.force)),
        (.predecessor, decide (2 < r.predCount)
          || ([r.pred1, r.pred2].take r.predCount).any (fun p => p = 0 || decide (r.hole ≤ p))
          || (r.predCount = 2 && r.pred1 = r.pred2)) ] : List (RowField × Bool)).find? Prod.snd).map Prod.fst := by
  have out (low high m : Nat) : (!within low high m) = (decide (m < low) || decide (high < m)) := by
    rw [Bool.eq_iff_iff]
    simp
  have preds : (!predsOk r) = (decide (2 < r.predCount)
      || ([r.pred1, r.pred2].take r.predCount).any (fun p => p = 0 || decide (r.hole ≤ p))
      || (r.predCount = 2 && r.pred1 = r.pred2)) := by
    rw [Bool.eq_iff_iff, Bool.not_eq_true', ← Bool.not_eq_true, predsOk_iff]
    match h : r.predCount with
    | 0 => simp
    | 1 => simp; omega
    | 2 => simp; omega
    | k + 3 => simp
  simp only [find_failing, rowFault, out, preds, Nat.lt_one_iff, Nat.not_lt_zero, decide_false, Bool.false_or]
  rfl

/-- The first failing row, its position counted from `at_`, where `earlier` holds the hole numbers of the rows before. -/
theorem rowsFault_eq_some (n : Nat) (rows : List RawRow) (earlier : List Nat) (at_ position : Nat) (field : RowField) :
    rowsFault n earlier at_ rows = some (position, field) ↔
      ∃ before r after, rows = before ++ r :: after ∧ position = at_ + before.length
        ∧ rowFault n (before.map RawRow.hole ++ earlier) r = some field
        ∧ ∀ older x younger, before = older ++ x :: younger → rowFault n (older.map RawRow.hole ++ earlier) x = none := by
  induction rows generalizing earlier at_ with
  | nil => simp [rowsFault]
  | cons r rest ih =>
    unfold rowsFault
    cases hr : rowFault n earlier r with
    | some f =>
      constructor
      · intro e
        obtain ⟨rfl, rfl⟩ := Prod.mk.inj (Option.some.inj e)
        exact ⟨[], r, rest, rfl, rfl, hr, by simp⟩
      · rintro ⟨before, x, after, split, rfl, fails, passes⟩
        cases before with
        | nil =>
          obtain ⟨rfl, rfl⟩ := List.cons.inj split
          have same : f = field := Option.some.inj (hr.symm.trans fails)
          simp [same]
        | cons y before =>
          obtain ⟨rfl, -⟩ := List.cons.inj split
          have := passes [] r before rfl
          simp [hr] at this
    | none =>
      simp only [ih, rowFault_cons_earlier]
      constructor
      · rintro ⟨before, x, after, rfl, rfl, fails, passes⟩
        refine ⟨r :: before, x, after, rfl, by simp; omega, fails, ?_⟩
        intro older y younger split
        cases older with
        | nil =>
          obtain ⟨rfl, -⟩ := List.cons.inj split
          exact hr
        | cons z older =>
          obtain ⟨rfl, rfl⟩ := List.cons.inj split
          exact passes older y younger rfl
      · rintro ⟨before, x, after, split, rfl, fails, passes⟩
        cases before with
        | nil =>
          obtain ⟨rfl, -⟩ := List.cons.inj split
          rw [List.map_nil, List.nil_append, hr] at fails
          cases fails
        | cons y before =>
          obtain ⟨rfl, rfl⟩ := List.cons.inj split
          refine ⟨before, x, after, rfl, by simp; omega, fails, ?_⟩
          rintro older z younger rfl
          exact passes (r :: older) z younger rfl

/-- No row fails exactly when each passes after those before it. -/
theorem rowsFault_eq_none (n : Nat) (rows : List RawRow) (earlier : List Nat) (at_ : Nat) :
    rowsFault n earlier at_ rows = none ↔
      ∀ before r after, rows = before ++ r :: after → rowFault n (before.map RawRow.hole ++ earlier) r = none := by
  induction rows generalizing earlier at_ with
  | nil => simp [rowsFault]
  | cons r rest ih =>
    unfold rowsFault
    cases hr : rowFault n earlier r with
    | some f =>
      simp only [reduceCtorEq, false_iff]
      intro passes
      have := passes [] r rest rfl
      simp [hr] at this
    | none =>
      simp only [ih, rowFault_cons_earlier]
      constructor
      · intro passes before x after split
        cases before with
        | nil =>
          obtain ⟨rfl, -⟩ := List.cons.inj split
          exact hr
        | cons y before =>
          obtain ⟨rfl, rfl⟩ := List.cons.inj split
          exact passes before x after rfl
      · rintro passes before x after rfl
        exact passes (r :: before) x after rfl

/-- Settles O13: the checks of one row, then the first failing row by induction over the message. -/
theorem rowChecks : Obligations.RowChecks := by
  refine ⟨fun n earlier r => ⟨?_, rowFault_eq_find n earlier r⟩, fun n rows => ⟨?_, fun position field => ?_⟩⟩
  · rw [rowFault_eq_none, predsOk_iff]
  · simp [rowsFault_eq_none]
  · simp [rowsFault_eq_some, Nat.add_comm]

/-! ### PATTERN ROWS (R3, R5) -/

theorem Pattern.row?_eq (x : Pattern) (hole : Nat) :
    x.row? hole = if hole = 0 then none else x.rows[hole - 1]?.join := by
  unfold Pattern.row?
  split
  · rfl
  · cases x.rows[hole - 1]? <;> rfl

/-- A message without a failing row names holes of the pattern, none twice and none of the rows before it. -/
theorem holes_of_rowsFault {n : Nat} {rows : List RawRow} {earlier : List Nat} {at_ : Nat}
    (k : rowsFault n earlier at_ rows = none) :
    (∀ r ∈ rows, 1 ≤ r.hole ∧ r.hole ≤ n ∧ r.hole ∉ earlier) ∧ (rows.map RawRow.hole).Nodup := by
  induction rows generalizing earlier at_ with
  | nil => simp
  | cons r rest ih =>
    unfold rowsFault at k
    cases hr : rowFault n earlier r with
    | some f => simp [hr] at k
    | none =>
      rw [hr] at k
      obtain ⟨ranges, nodup⟩ := ih k
      refine ⟨?_, ?_⟩
      · intro x hx
        obtain rfl | hx := List.mem_cons.1 hx
        · exact ((rowFault_eq_none n earlier _).1 hr).1
        · obtain ⟨low, high, new⟩ := ranges x hx
          exact ⟨low, high, fun m => new (List.mem_cons_of_mem _ m)⟩
      · refine List.nodup_cons.2 ⟨fun m => ?_, nodup⟩
        obtain ⟨x, hx, same⟩ := List.mem_map.1 m
        exact (ranges x hx).2.2 (same ▸ List.mem_cons_self)

@[simp] theorem storeRows_length (v : List (Option PatternRow)) (rows : List RawRow) :
    (storeRows v rows).length = v.length := by
  induction rows generalizing v with
  | nil => rfl
  | cons r rest ih => simp [storeRows, ih]

theorem storeRows_other {rows : List RawRow} {hole : Nat} (low : 1 ≤ hole) (lows : ∀ r ∈ rows, 1 ≤ r.hole)
    (new : hole ∉ rows.map RawRow.hole) (v : List (Option PatternRow)) :
    (storeRows v rows)[hole - 1]? = v[hole - 1]? := by
  induction rows generalizing v with
  | nil => rfl
  | cons r rest ih =>
    simp only [List.map_cons, List.mem_cons, not_or] at new
    have lowr := lows r List.mem_cons_self
    rw [storeRows, ih (fun x m => lows x (List.mem_cons_of_mem _ m)) new.2, List.getElem?_set_ne (by omega)]

theorem storeRows_mem {rows : List RawRow} {r : RawRow} (m : r ∈ rows) (nodup : (rows.map RawRow.hole).Nodup)
    (v : List (Option PatternRow)) (ranges : ∀ x ∈ rows, 1 ≤ x.hole ∧ x.hole ≤ v.length) :
    (storeRows v rows)[r.hole - 1]? = some (some (rowOf r)) := by
  induction rows generalizing v with
  | nil => cases m
  | cons x rest ih =>
    have new := (List.nodup_cons.1 nodup).1
    have ranges' : ∀ y ∈ rest, 1 ≤ y.hole ∧ y.hole ≤ v.length := fun y m => ranges y (List.mem_cons_of_mem _ m)
    obtain rfl | m := List.mem_cons.1 m
    · obtain ⟨low, high⟩ := ranges r List.mem_cons_self
      rw [storeRows, storeRows_other low (fun y m => (ranges' y m).1) new, List.getElem?_set_self (by omega)]
    · exact ih m (List.nodup_cons.1 nodup).2 _ (by simpa using ranges')

section PatternRows

variable {c : Setup} {p k : Nat} {rows : List RawRow} {i : PatternId} {x : Pattern}

theorem Setup.writeRows_badValue (out : p = 0 ∨ 4 < p ∨ k = 0 ∨ 4 < k ∨ rows.length ≠ k) :
    c.writeRows p k rows = .error (.reason .badValue) := by
  unfold Setup.writeRows
  cases hp : patternOf p with
  | none => rfl
  | some i =>
    have number := patternOf_eq_some.1 hp
    have bound := i.isLt
    have misfit : (!within 1 4 k || rows.length != k) = true := by
      simp only [Bool.or_eq_true, Bool.not_eq_true', within_eq_false, bne_iff_ne, ne_eq]
      omega
    simp only [misfit, if_true]

/-- A message with its numbers in range, by what the pattern holds. -/
theorem Setup.writeRows_eq (hp : patternOf p = some i) (low : 1 ≤ k) (high : k ≤ 4) (length : rows.length = k) :
    c.writeRows p k rows =
      match c.patterns[i] with
      | none => .error (.reason .noPattern)
      | some x =>
        if x.complete then .error (.reason .patternComplete)
        else
          match rowsFault x.count [] 1 rows with
          | some (position, field) => .error (.badRow position field)
          | none =>
            let y : Pattern :=
              { x with rows := storeRows x.rows rows, complete := (storeRows x.rows rows).all Option.isSome }
            .ok (c.setPattern i (some y) c.freeRows, y) := by
  have fits : (!within 1 4 k || rows.length != k) = false := by
    simp [within_eq_true.2 ⟨low, high⟩, length]
  simp only [Setup.writeRows, hp, fits]
  rfl

/-- The pattern that a taken message leaves. -/
def Pattern.withRows (x : Pattern) (rows : List RawRow) : Pattern :=
  { x with rows := storeRows x.rows rows, complete := (storeRows x.rows rows).all Option.isSome }

theorem Pattern.withRows_mem (fit : x.rows.length = x.count) (k : rowsFault x.count [] 1 rows = none) :
    ∀ r ∈ rows, (x.withRows rows).row? r.hole = some (rowOf r) := by
  intro r m
  obtain ⟨ranges, nodup⟩ := holes_of_rowsFault k
  obtain ⟨low, high, -⟩ := ranges r m
  rw [Pattern.row?_eq, if_neg (by omega), Pattern.withRows,
    storeRows_mem m nodup x.rows fun y m => ⟨(ranges y m).1, by rw [fit]; exact (ranges y m).2.1⟩]
  rfl

theorem Pattern.withRows_other (k : rowsFault x.count [] 1 rows = none) :
    ∀ hole, hole ∉ rows.map RawRow.hole → (x.withRows rows).row? hole = x.row? hole := by
  intro hole new
  obtain ⟨ranges, -⟩ := holes_of_rowsFault k
  rw [Pattern.row?_eq, Pattern.row?_eq]
  split
  · rfl
  · rw [Pattern.withRows, storeRows_other (by omega) (fun r m => (ranges r m).1) new]

theorem Pattern.withRows_complete (fit : x.rows.length = x.count) :
    (x.withRows rows).complete = true ↔
      ∀ hole, 1 ≤ hole → hole ≤ x.count → ((x.withRows rows).row? hole).isSome = true := by
  have length : (x.withRows rows).rows.length = x.count := (storeRows_length _ _).trans fit
  have row (j : Nat) (hj : j < (x.withRows rows).rows.length) :
      (x.withRows rows).row? (j + 1) = (x.withRows rows).rows[j] := by
    rw [Pattern.row?_eq, if_neg (by omega), Nat.add_sub_cancel, List.getElem?_eq_getElem hj]
    rfl
  show ((x.withRows rows).rows.all Option.isSome) = true ↔ _
  rw [List.all_eq_true]
  constructor
  · intro all hole low high
    obtain ⟨j, rfl⟩ : ∃ j, hole = j + 1 := ⟨hole - 1, by omega⟩
    rw [row j (by omega)]
    exact all _ (List.getElem_mem _)
  · intro all r m
    obtain ⟨j, hj, rfl⟩ := List.getElem_of_mem m
    rw [← row j hj]
    exact all (j + 1) (by omega) (by omega)

end PatternRows

/-- Settles O14, by the cases of `writeRows`; a message of another length is refused before it. -/
theorem patternRows : Obligations.PatternRows := by
  refine ⟨fun h p k rows s w selector => ⟨fun out => ?_, fun i hp low high fits length empty => ?_⟩,
    fun h p k rows i x s w plain hp low high length used fit => ?_⟩
  · by_cases fits : h.length = 6 + 14 * k
    · rw [show exec (.patternRows h p k rows) s = execPatternRows h p k rows s from rfl, execPatternRows,
        manage_taken w ⟨selector, fits⟩ (by simp), Setup.writeRows_badValue (by tauto)]
      rfl
    · exact (manage_misshapen w fits : execPatternRows h p k rows s = _)
  · rw [show exec (.patternRows h p k rows) s = execPatternRows h p k rows s from rfl, execPatternRows,
      manage_taken w ⟨selector, fits⟩ (by simp), closed_setup, Setup.writeRows_eq hp low high length]
    simp only [empty]
    rfl
  · rw [show exec (.patternRows h p k rows) s = execPatternRows h p k rows s from rfl, execPatternRows,
      manage_taken w plain (by simp), closed_setup, Setup.writeRows_eq hp low high length]
    simp only [used]
    refine ⟨fun complete => ?_, fun loading position field fails => ?_, fun loading passes => ?_⟩
    · simp only [complete, if_true]
      rfl
    · simp only [loading, fails]
      rfl
    · refine ⟨x.withRows rows, ?_, rfl, (storeRows_length _ _).trans fit, Pattern.withRows_mem fit passes,
        Pattern.withRows_other passes, Pattern.withRows_complete fit⟩
      simp only [loading, passes]
      rfl

/-! ### FRAME BEGIN (R9, R12) -/

/-- Settles O15: the refusals in their order, then the frame bound with its hole entries. -/
theorem frameBegin : Obligations.FrameBegin := by
  intro h p serial s w plain
  rw [show exec (.frameBegin h p serial) s = execFrameBegin h p serial s from rfl, execFrameBegin]
  refine ⟨fun locked => manage_locked w plain locked, fun open_ mode => ?_, fun open_ mode bad => ?_,
    fun i hp open_ mode => ⟨fun loading => ?_, fun x used complete => ?_⟩⟩
  · rw [manage_taken w plain fun _ => open_, closed_setup, if_pos mode]
    rfl
  · rw [manage_taken w plain fun _ => open_, closed_setup, if_neg (not_not.2 mode), bad]
    rfl
  · rw [manage_taken w plain fun _ => open_, closed_setup, if_neg (not_not.2 mode), hp]
    cases used : s.setup.patterns[i] with
    | none =>
      simp only [used]
      rfl
    | some x =>
      simp only [used, loading x used]
      rfl
  · refine ⟨_, entriesFor x.rows, rfl, ?_, by simp [entriesFor], fun n r row => ?_⟩
    · rw [manage_taken w plain fun _ => open_, closed_setup, if_neg (not_not.2 mode), hp]
      simp only [used, complete]
      rfl
    · simp only [entriesFor, List.getElem?_map, row, Option.map_some]
      rfl

end Sys2Proof.Machine
end

section
/-! PROOFS. The eleven forms of QUERY (O53). -/

namespace Sys2Proof.Machine

open Sys2Proof.Safety

section Weighing

variable {h : Header} {selector n : Nat} {take : State → State} {s : State}

/-- A weighed QUERY of its own selector and length is taken. -/
theorem query_taken (w : Weighed s) (k : Selects h selector n) :
    query h selector n take s = .next (take (closed s)) := w.taken k.holds.1 k.holds.2 (by simp)

/-- QUERY STATUS is taken during a preload as well (R190). -/
theorem query_status_taken (held : s.setup.resetHeld = false) (restart : s.setup.restart = .idle)
    (holdoff : s.live.cell.underHoldoff = false) (k : Selects h 1 n) :
    query h 1 n take s = .next (take (closed s)) := by
  obtain ⟨selector, length⟩ := k
  simp only [query, cellMessage, held, restart, holdoff, selector, length]
  simp
  rfl

end Weighing

/-! ### The data of the queries, spelled out -/

section Views

variable {c : Setup} {l : Live}

theorem workView_eq (i : SlotId) (work : Work) :
    workView l i work = match work with
      | .idle => WorkView.idle
      | .order tag => .order tag ((l.order? tag).map Order.kind) ((l.order? tag).map Order.state)
      | .heat j => .laneHeat .heat ((l.lanes[j].heat.filter fun g => g.slot == i).bind Heat.step) := by
  cases work <;> rfl

theorem Live.holder_eq (r : Rail) (seg : Nat) :
    l.holder r seg = (List.finRange 12).find? fun j =>
      (l.holdings[j]).any fun g => g.rail == r && g.run.contains seg := by
  unfold Live.holder allSlots
  congr 1
  funext j
  cases l.holdings[j] <;> rfl

theorem Live.holdingLine_eq (r : Rail) (j : SlotId) :
    l.holdingLine r j = ((l.holdings[j]).filter fun g => g.rail == r).map fun g =>
      { slot := j, state := l.slots[j].state, run := g.run
        centre := (List.range 16).find? fun t => span t == g.run
        travel := (l.travels[j]).map fun v =>
          { tag := v.tag, target := v.target, sweep := v.sweep
            sent := (l.order? v.tag).any fun o => o.travelMark == some .sent } } := by
  unfold Live.holdingLine
  cases l.holdings[j] with
  | none => rfl
  | some g =>
    by_cases same : g.rail = r
    · simp [same, centreOf]
      rfl
    · simp [same, Option.filter]

theorem Live.servingSlot_eq (i : LaneId) :
    l.servingSlot c i = (c.tables.lanes[i].slot).filter fun j =>
      l.slots[j].state.joined && l.slots[j].head.map Joined.declared == some (.heat i) := by
  unfold Live.servingSlot Live.serves
  cases c.tables.lanes[i].slot with
  | none => rfl
  | some j => simp [Option.filter]

theorem heatView_eq (g : Heat) :
    heatView l g = (g, match g.origin with
      | .lane => HeatStepView.lane g.step
      | .order => .order ((l.order? g.tag).map Order.state)) := by
  unfold heatView
  cases g.origin <;> rfl

theorem Slot.joinedChannels?_eq (x : Slot) :
    x.joinedChannels? = if x.state = .empty ∨ x.state = .joining then none
      else match x.head.map Joined.declared with
        | some (.clamp k) => some k
        | _ => none := by
  unfold Slot.joinedChannels? Slot.channels?
  rfl

theorem OrderKind.zoneKind_eq (k : OrderKind) : k.zoneKind = (k == .clamp || k == .unclamp) := by
  cases k <;> rfl

/-- The entries of a zone, told by their hole numbers. -/
theorem holesOfZone_eq (z : ZoneId) (first : Nat) (holes : List Hole) :
    holesOfZone c z first holes =
      ((holes.zipIdx first).filter fun p => (c.row? p.2).any fun r => r.zone == z).map Prod.fst := by
  induction holes generalizing first with
  | nil => rfl
  | cons x rest ih =>
    simp only [holesOfZone, List.zipIdx_cons, List.filter_cons, ih]
    split <;> rfl

theorem countStates_holesOfZone (z : ZoneId) (holes : List Hole) :
    countStates (holesOfZone c z 1 holes) = HoleState.all.map fun st =>
      ((holes.zipIdx 1).filter fun p => ((c.row? p.2).any fun r => r.zone == z) && p.1.state == st).length := by
  unfold countStates
  apply List.map_congr_left
  intro st _
  rw [holesOfZone_eq, List.filter_map, List.length_map, List.filter_filter]
  simp only [Function.comp_def, Bool.and_comm]

theorem inZone_eq_bind (o : Order) (z : ZoneId) :
    ((o.hole?.bind c.row?).any fun r => r.zone == z) = o.hole?.any fun n => (c.row? n).any fun r => r.zone == z := by
  cases o.hole? <;> rfl

theorem lowestUnwritten_eq (first : Nat) (rows : List (Option PatternRow)) :
    lowestUnwritten first rows = (rows.findIdx? Option.isNone).map (· + first) := by
  induction rows generalizing first with
  | nil => rfl
  | cons r rest ih =>
    cases r with
    | none => simp [lowestUnwritten, List.findIdx?_cons]
    | some x =>
      rw [lowestUnwritten, ih, List.findIdx?_cons]
      cases rest.findIdx? Option.isNone <;> simp
      omega

theorem entriesAt_map {α : Type} (b : Nat) (entries : List α) (f : List α → TableView) :
    (entriesAt b entries).map f = if b = 0 then some (f entries) else (entries[b - 1]?).map fun e => f [e] := by
  unfold entriesAt
  split
  · rfl
  · cases entries[b - 1]? <;> rfl

theorem tableView_eq (t : Tables) (a b : Nat) :
    tableView t a b =
      if a = 1 then
        if b = 0 then some (.timingWritten t.timing.toList)
        else (timingOf b).map fun e => .timing [(t.timing[e], max t.timing[e] timingMinima[e])]
      else if a = 2 then
        if b = 0 then some (.slots t.slots.toList) else (t.slots.toList[b - 1]?).map fun e => .slots [e]
      else if a = 3 then
        if b = 0 then some (.zones t.zones.toList) else (t.zones.toList[b - 1]?).map fun e => .zones [e]
      else if a = 4 then
        if b = 0 then some (.lanes t.lanes.toList) else (t.lanes.toList[b - 1]?).map fun e => .lanes [e]
      else if a = 5 ∧ b = 0 then some (.pump t.budget)
      else none := by
  unfold tableView
  split
  · rfl
  · rw [entriesAt_map]; rfl
  · rw [entriesAt_map]; rfl
  · rw [entriesAt_map]; rfl
  · simp
  · rename_i h1 h2 h3 h4 h5
    rw [if_neg h1, if_neg h2, if_neg h3, if_neg h4, if_neg fun h => h5 h.1]

end Views

/-! ### The forms one by one -/

section Forms

variable {h : Header} {s : State}

theorem queryHole_answers (w : Weighed s) {n : Nat} (k : Selects h 2 6) :
    (s.setup.frame = none → exec (.queryHole h n) s = .next (answered s h (.refused .noFrame)))
    ∧ (∀ f, s.setup.frame = some f → s.live.hole? n = none →
        exec (.queryHole h n) s = .next (answered s h (.refused .badHole)))
    ∧ (∀ f x, s.setup.frame = some f → s.live.hole? n = some x → exec (.queryHole h n) s = .next (answered s h
        (.hole f.serial x (s.setup.row? n) ((s.live.pool.find? fun o => o.target == .hole n).map Order.tag)))) := by
  rw [show exec (.queryHole h n) s = execQueryHole h n s from rfl, execQueryHole, query_taken w k, closed_setup,
    show (closed s).live.hole? n = s.live.hole? n from rfl]
  refine ⟨fun free => ?_, fun f bound missing => ?_, fun f x bound found => ?_⟩
  · rw [free]
    rfl
  · rw [bound, missing]
    rfl
  · rw [bound, found]
    rfl

theorem queryOrder_answers (w : Weighed s) {a b : Nat} (k : Selects h 3 6) :
    (s.live.order? a = none → exec (.queryOrder h 1 a) s = .next (answered s h (.refused .unknownTag)))
    ∧ (∀ o, s.live.order? a = some o → exec (.queryOrder h 1 a) s = .next (answered s h
        (.order o ((s.live.pool.findIdx fun x => x.tag == a) + 1))))
    ∧ (1 ≤ a → a ≤ 32 → exec (.queryOrder h 2 a) s = .next (answered s h
        (.orders s.live.pool.length (((s.live.pool.drop (a - 1)).take 12).map fun o =>
          { tag := o.tag, kind := o.kind, slot := o.slot, state := o.state, wait := o.wait }))))
    ∧ ((a = 0 ∨ 32 < a) → exec (.queryOrder h 2 a) s = .next (answered s h (.refused .badValue)))
    ∧ (b ≠ 1 → b ≠ 2 → exec (.queryOrder h b a) s = .next (answered s h (.refused .badValue))) := by
  have taken (form : Nat) := show exec (.queryOrder h form a) s = _ from
    (query_taken w k : execQueryOrder h form a s = _)
  simp only [taken, show (closed s).live.order? a = s.live.order? a from rfl]
  refine ⟨fun unknown => ?_, fun o found => ?_, fun low high => ?_, fun out => ?_, fun not_tag not_rank => ?_⟩
  · rw [unknown]
    rfl
  · rw [found]
    rfl
  · rw [if_pos (within_eq_true.2 ⟨low, high⟩)]
    rfl
  · rw [if_neg (by simpa using (within_eq_false (low := 1) (high := 32)).2 (by omega))]
    rfl
  · split
    · contradiction
    · contradiction
    · rfl

theorem querySlot_answers (w : Weighed s) {a : Nat} {i : SlotId} (k : Selects h 4 5) (hi : slotOf a = some i) :
    exec (.querySlot h a) s = .next (answered
      { s with live := s.live.updHead i fun k => { k with status := k.status.cleared } } h
      (.slot (slotView s.setup s.live i))) := by
  rw [show exec (.querySlot h a) s = execQuerySlot h a s from rfl, execQuerySlot, query_taken w k, hi]
  rfl

theorem querySlot_badSlot (w : Weighed s) {a : Nat} (k : Selects h 4 5) (bad : slotOf a = none) :
    exec (.querySlot h a) s = .next (answered s h (.refused .badSlot)) := by
  rw [show exec (.querySlot h a) s = execQuerySlot h a s from rfl, execQuerySlot, query_taken w k, bad]
  rfl

theorem queryRail_holdings (w : Weighed s) {a b : Nat} {r : Rail} (hr : railOf a = some r) (k : Selects h 5 6) :
    exec (.queryRail h a 1 b) s = .next (answered s h
      (.railHoldings ((List.range 16).map (s.live.holder r)) (allSlots.filterMap (s.live.holdingLine r)))) := by
  rw [show exec (.queryRail h a 1 b) s = execQueryRail h a 1 b s from rfl, execQueryRail, if_neg (by simp),
    query_taken w k, hr]
  rfl

theorem queryRail_requests (w : Weighed s) {a b : Nat} {r : Rail} (hr : railOf a = some r) (k : Selects h 5 7)
    (low : 1 ≤ b) (high : b ≤ 12) :
    exec (.queryRail h a 2 b) s = .next (answered s h (.railRequests (s.live.requests r).length
      ((((s.live.requests r).drop (b - 1)).take 6).map requestLine))) := by
  rw [show exec (.queryRail h a 2 b) s = execQueryRail h a 2 b s from rfl, execQueryRail, if_pos rfl,
    query_taken w k, hr]
  simp only [within_eq_true.2 ⟨low, high⟩, if_true]
  cases r <;> rfl

theorem queryRail_badStart (w : Weighed s) {a b : Nat} {r : Rail} (hr : railOf a = some r) (k : Selects h 5 7)
    (out : b = 0 ∨ 12 < b) : exec (.queryRail h a 2 b) s = .next (answered s h (.refused .badValue)) := by
  rw [show exec (.queryRail h a 2 b) s = execQueryRail h a 2 b s from rfl, execQueryRail, if_pos rfl,
    query_taken w k, hr]
  simp only [(within_eq_false (low := 1) (high := 12)).2 (by omega : b < 1 ∨ 12 < b)]
  rfl

theorem queryRail_badValue (w : Weighed s) {a b part : Nat} (k : (part = 2 ∧ Selects h 5 7) ∨ (part ≠ 2 ∧ Selects h 5 6))
    (bad : railOf a = none ∨ (part ≠ 1 ∧ part ≠ 2)) :
    exec (.queryRail h a part b) s = .next (answered s h (.refused .badValue)) := by
  have selects : Selects h 5 (if part = 2 then 7 else 6) := by
    obtain ⟨same, k⟩ | ⟨other, k⟩ := k
    · rwa [if_pos same]
    · rwa [if_neg other]
  rw [show exec (.queryRail h a part b) s = execQueryRail h a part b s from rfl, execQueryRail, query_taken w selects]
  split
  · simp_all
  · simp_all
  · rfl

theorem queryLane_answers (w : Weighed s) {a : Nat} (k : Selects h 6 5) :
    exec (.queryLane h a) s = .next (answered s h (match laneOf a with
      | none => .refused .badValue
      | some i => .lane (laneView s.setup s.live i))) := by
  rw [show exec (.queryLane h a) s = execQueryLane h a s from rfl, execQueryLane, query_taken w k]
  cases laneOf a <;> rfl

theorem queryZone_answers (w : Weighed s) {a : Nat} (k : Selects h 7 5) :
    exec (.queryZone h a) s = .next (answered s h (
      if a = 0 then .zones (allZones.map fun z => (s.setup.tables.zones[z], s.live.zones[z]))
      else match zoneOf a with
        | none => .refused .badValue
        | some z => .zone (zoneView s.setup s.live z))) := by
  rw [show exec (.queryZone h a) s = execQueryZone h a s from rfl, execQueryZone, query_taken w k]
  split
  · rfl
  · cases zoneOf a <;> rfl

theorem queryTable_answers (w : Weighed s) {a b : Nat} (k : Selects h 10 6) :
    exec (.queryTable h a b) s = .next (answered s h (match tableView s.setup.tables a b with
      | none => .refused .badValue
      | some v => .table v)) := by
  rw [show exec (.queryTable h a b) s = execQueryTable h a b s from rfl, execQueryTable, query_taken w k, closed_setup]
  cases tableView s.setup.tables a b <;> rfl

theorem queryPattern_badValue (w : Weighed s) {a : Nat} {hole : Option Nat} (bad : patternOf a = none)
    (k : Selects h 11 (if hole = none then 5 else 7)) :
    exec (.queryPattern h a hole) s = .next (answered s h (.refused .badValue)) := by
  have selects : Selects h 11 (if hole.isSome then 7 else 5) := by cases hole <;> exact k
  rw [show exec (.queryPattern h a hole) s = execQueryPattern h a hole s from rfl, execQueryPattern,
    query_taken w selects, bad]
  rfl

theorem queryPattern_view (w : Weighed s) {a : Nat} {i : PatternId} (hi : patternOf a = some i) (k : Selects h 11 5) :
    exec (.queryPattern h a none) s = .next (answered s h (.pattern (patternView s.setup i))) := by
  rw [show exec (.queryPattern h a none) s = execQueryPattern h a none s from rfl, execQueryPattern,
    query_taken w (show Selects h 11 (if (none : Option Nat).isSome then 7 else 5) from k), hi]
  rfl

theorem queryPattern_row (w : Weighed s) {a n : Nat} {i : PatternId} (hi : patternOf a = some i) (k : Selects h 11 7) :
    exec (.queryPattern h a (some n)) s = .next (answered s h (match s.setup.patterns[i] with
      | none => .refused .noPattern
      | some x =>
        if n = 0 ∨ x.count < n then .refused .badHole
        else match x.row? n with
          | none => .refused .noRow
          | some r => .row n r)) := by
  rw [show exec (.queryPattern h a (some n)) s = execQueryPattern h a (some n) s from rfl, execQueryPattern,
    query_taken w (show Selects h 11 (if (some n).isSome then 7 else 5) from k), hi, closed_setup]
  dsimp only
  cases s.setup.patterns[i] with
  | none => rfl
  | some x =>
    dsimp only
    cases range : within 1 x.count n with
    | false =>
      have out : n = 0 ∨ x.count < n := by
        have := within_eq_false.1 range
        omega
      rw [if_pos (by simp), if_pos out]
      rfl
    | true =>
      have inside : ¬ (n = 0 ∨ x.count < n) := by
        have := within_eq_true.1 range
        omega
      rw [if_neg (by simp), if_neg inside]
      cases x.row? n <;> rfl

end Forms

/-- Settles O53: each form by what it answers, its data spelled out. -/
theorem queries : Obligations.Queries := by
  refine ⟨fun h s held restart holdoff k => ?_, fun h a b n s w => ?_⟩
  · exact (query_status_taken held restart holdoff k : execQueryStatus h s = _)
  refine ⟨queryHole_answers w, queryOrder_answers w, fun k => ⟨querySlot_badSlot w k, fun i hi => ?_⟩, fun r hr => ?_,
    fun part k bad => queryRail_badValue w k bad, fun k => ?_, fun k => ?_, fun k => ?_, fun k => ?_, fun k => ?_,
    fun hole bad k => queryPattern_badValue w bad k, fun i hi => ?_⟩
  · rw [querySlot_answers w k hi, slotView, workView_eq]
    rfl
  · refine ⟨fun k => ?_, fun k low high => queryRail_requests w hr k low high, fun k out => queryRail_badStart w hr k out⟩
    rw [queryRail_holdings w hr k, funext (Live.holder_eq r), funext (Live.holdingLine_eq r)]
    rfl
  · rw [queryLane_answers w k]
    refine ⟨fun bad => by rw [bad], fun i hi => ?_⟩
    rw [hi]
    dsimp only
    rw [laneView, Live.servingSlot_eq, funext heatView_eq]
    rfl
  · rw [queryZone_answers w k, queryZone_answers w k]
    refine ⟨rfl, fun out => ?_, fun z hz => ?_⟩
    · have bad : zoneOf a = none := by
        cases hz : zoneOf a with
        | none => rfl
        | some z =>
          have := zoneOf_eq_some.1 hz
          omega
      rw [if_neg (by omega), bad]
    · rw [if_neg (by have := zoneOf_eq_some.1 hz; omega), hz]
      simp only [zoneView, countStates_holesOfZone, inZone_eq_bind, OrderKind.zoneKind_eq, Slot.joinedChannels?_eq]
      rfl
  · exact (query_taken w k : execQueryPump h s = _)
  · exact (query_taken w k : execQueryLink h s = _)
  · rw [queryTable_answers w k, tableView_eq]
    exact ⟨fun bad => by rw [bad], fun v found => by rw [found]⟩
  · refine ⟨fun k unused => ?_, fun k x used => ?_, fun k unused => ?_, fun x k used => ?_⟩
    · rw [queryPattern_view w hi k, patternView, unused]
      rfl
    · rw [queryPattern_view w hi k, patternView, used]
      dsimp only
      rw [lowestUnwritten_eq]
      rfl
    · rw [queryPattern_row w hi k, unused]
    · rw [queryPattern_row w hi k, used]
      refine ⟨fun out => ?_, fun low high missing => ?_, fun r low high found => ?_⟩
      · simp only [out, if_true]
      · simp only [missing, if_neg (show ¬ (n = 0 ∨ x.count < n) by omega)]
      · simp only [found, if_neg (show ¬ (n = 0 ∨ x.count < n) by omega)]


end Sys2Proof.Machine
end

section
/-! PROOFS. The resets, the reset pin and the end of the head links' silence (O60). -/

namespace Sys2Proof.Machine

open Sys2Proof.Safety

/-! ### What a reset reads from the inputs (R152) -/

theorem Guard.read_levels (p : GuardPins) : (Guard.read p).ch1 = p.ch1 ∧ (Guard.read p).ch2 = p.ch2 := by
  obtain ⟨a, b⟩ := p
  cases a <;> cases b <;> exact ⟨rfl, rfl⟩

theorem Guard.read_state (p : GuardPins) :
    (Guard.read p).state = if p.ch1 = .closed ∧ p.ch2 = .closed then .closed else .opened := by
  obtain ⟨a, b⟩ := p
  cases a <;> cases b <;> rfl

theorem Guard.read_timer (p : GuardPins) : (Guard.read p).timer = if p.ch1 = p.ch2 then none else some 50 := by
  obtain ⟨a, b⟩ := p
  cases a <;> cases b <;> rfl

/-- After a reset the table of notices holds RESTARTED alone (R160). -/
theorem noticesAfterReset_get (cause : ResetCause) (i : Fin 52) :
    (noticesAfterReset cause)[i] =
      if i = noticeIndex 0 .info then some { code := .restarted, detail := .reset cause, overrun := false } else none := by
  rw [noticesAfterReset, vset_get]
  simp

/-! ### Working through a list of slots -/

section Slots

variable {α : Type} {own : Live → SlotId → α} {f : Live → SlotId → Live}

/-- What belongs to a slot outside the list stands. -/
theorem foldl_slots_other (other : ∀ l i j, j ≠ i → own (f l i) j = own l j) {slots : List SlotId} {j : SlotId}
    (out : j ∉ slots) (l : Live) : own (slots.foldl f l) j = own l j := by
  induction slots generalizing l with
  | nil => rfl
  | cons i slots ih =>
    simp only [List.mem_cons, not_or] at out
    rw [List.foldl_cons, ih out.2, other l i j out.1]

/-- What belongs to a slot of the list is found as it was at the start, and left as its own turn leaves it. -/
theorem foldl_slots_own (other : ∀ l i j, j ≠ i → own (f l i) j = own l j) {slots : List SlotId} (nodup : slots.Nodup)
    {j : SlotId} (m : j ∈ slots) (l : Live) : ∃ l', own l' j = own l j ∧ own (slots.foldl f l) j = own (f l' j) j := by
  induction slots generalizing l with
  | nil => cases m
  | cons i slots ih =>
    obtain ⟨out, nodup⟩ := List.nodup_cons.1 nodup
    by_cases same : j = i
    · subst same
      exact ⟨l, rfl, foldl_slots_other other out _⟩
    · obtain ⟨l', found, left⟩ := ih nodup ((List.mem_cons.1 m).resolve_left same) (f l i)
      exact ⟨l', found.trans (other l i j same), left⟩

/-- What no turn changes. -/
theorem foldl_slots_keeps {β : Type} (g : Live → β) (h : ∀ l i, g (f l i) = g l) (slots : List SlotId) (l : Live) :
    g (slots.foldl f l) = g l := by
  induction slots generalizing l with
  | nil => rfl
  | cons i slots ih => rw [List.foldl_cons, ih, h]

end Slots

/-! ### The head links when their silence ends (R194) -/

section HeadLinks

variable {c : Setup} {l : Live}

theorem Live.beginHead_heads_ne {i j : SlotId} (h : j ≠ i) : (l.beginHead c i).heads[j] = l.heads[j] :=
  (Live.LinesKept.beginHead (p := (· ≠ i)) (by simp)).other j h

end HeadLinks

/-- Settles O60: the reset field by field, and the links that begin when their silence ends. -/
theorem resets : Obligations.Resets := by
  refine ⟨fun cause => rfl, fun s => ⟨⟨fun cause => ?_, rfl, rfl, fun held => ?_, fun released => ?_⟩,
    fun held none_ => ?_, fun n held hold => ?_⟩⟩
  · obtain ⟨ch1, ch2⟩ := Guard.read_levels s.setup.pins
    refine ⟨rfl, rfl, rfl, rfl, rfl, rfl, rfl, rfl, rfl, rfl, rfl, rfl, rfl, rfl, rfl, rfl, rfl, rfl, ch1, ch2,
      Guard.read_state _, Guard.read_timer _, rfl, ?_, fun i other => ?_⟩
    · exact (noticesAfterReset_get cause (noticeIndex 0 .info)).trans (if_pos rfl)
    · exact (noticesAfterReset_get cause i).trans (if_neg other)
  · exact if_pos held
  · exact if_neg (by simp [released])
  · rw [show exec .headLinkHoldEnd s = execHeadLinkHoldEnd s from rfl, execHeadLinkHoldEnd, event_taken held, none_]
  · let c : Setup := { (s.elapse n).setup with headHold := none }
    have taken : exec .headLinkHoldEnd s = .next { s.elapse n with
        setup := c, live := allSlots.foldl (fun l i => l.beginHead c i) (s.elapse n).live } := by
      rw [show exec .headLinkHoldEnd s = execHeadLinkHoldEnd s from rfl, execHeadLinkHoldEnd, event_taken held, hold]
    refine ⟨_, taken, rfl, ?_, ?_, ?_, fun i idle => ?_⟩
    · exact foldl_slots_keeps Live.cell (by simp) _ _
    · exact foldl_slots_keeps Live.notices (by simp) _ _
    · exact foldl_slots_keeps Live.holes (by simp) _ _
    · obtain ⟨l, found, left⟩ := foldl_slots_own (own := fun l j => l.heads[j]) (f := fun l j => l.beginHead c j)
        (fun l i j => Live.beginHead_heads_ne) (List.nodup_finRange 12) (mem_allSlots i) (s.elapse n).live
      have aged : (s.elapse n).live.heads[i] = { s.live.heads[i] with silence := s.live.heads[i].silence.map (· - n) } :=
        vmap_get _ _ _
      rw [aged] at found
      rw [Live.beginHead_head, found] at left
      refine ⟨fun x rest chosen => ?_, fun empty => ?_⟩ <;> dsimp only
      · rw [show (allSlots.foldl (fun l j => l.beginHead c j) (s.elapse n).live).heads[i] = _ from left, idle, chosen]
        exact ⟨rfl, rfl⟩
      · rw [show (allSlots.foldl (fun l j => l.beginHead c j) (s.elapse n).live).heads[i] = _ from left, idle, empty]
        exact ⟨idle, empty⟩

end Sys2Proof.Machine
end

section
/-! PROOFS. FRAME END and FRAME ABANDON (O16). -/

namespace Sys2Proof.Machine

open Sys2Proof.Safety

/-! ### The end of a taking that leaves the pool empty -/

/-- The ORDER DONE of an order that leaves with any outcome but COMPLETED. -/
theorem orderDone_eq {l : Live} {o : Order} {outcome : OrderOutcome} {cause : Option DoneCause} {heat : Option Nat}
    (h : outcome ≠ .completed) : CellBody.orderDone (orderDoneOf l o outcome cause heat) = orderDone l o outcome cause := by
  simp [orderDoneOf, orderDone, h]

theorem Live.Examined.pool_nil {l l' : Live} (e : Live.Examined l l') (h : l.pool = []) : l'.pool = [] := by
  have := e.orders
  rw [h, List.map_nil, List.sublist_nil, List.map_eq_nil_iff] at this
  exact this

theorem Taking.placeDone_held {c : Setup} {d : OrderDone} {t : Taking} (h : t.holdDones = false) :
    (t.placeDone c d).held = t.held := by
  unfold Taking.placeDone
  rw [if_neg (by simp [h])]
  rfl

theorem Taking.leave_placed {c : Setup} {o : Order} {x : OrderOutcome} {y : Option DoneCause} {n : Option Nat} {t : Taking}
    (h : t.holdDones = false) : (t.leave c o x y n).held = t.held := by
  unfold Taking.leave
  dsimp only
  rw [Taking.wakeGate_held, Taking.placeDone_held (by simpa [Taking.withdrawClaim] using h)]
  rfl

theorem Taking.withdrawAll_held {c : Setup} {k : DoneCause} {os : List Order} {t : Taking} (h : t.holdDones = false) :
    (os.foldl (fun t o => t.withdraw c o k) t).held = t.held := by
  induction os generalizing t with
  | nil => rfl
  | cons o rest ih =>
    have placed : (t.withdraw c o k).holdDones = false := by rw [Taking.withdraw, Taking.leave_holdDones, h]
    rw [List.foldl_cons, ih placed, Taking.withdraw, Taking.leave_placed h]

/-- With the pool empty and no ORDER DONE held back, what is left to do is the rails' examinations. -/
theorem Taking.finish_empty {c : Setup} {t : Taking} (pool : t.live.pool = []) (held : t.held = []) :
    t.finish c = (t.settleRails c).live.syncCadences c := by
  have rails : (t.settleRails c).live.pool = [] := (Taking.settleRails_examined c t).pool_nil pool
  have keeps : (t.settle c).held = [] := by
    unfold Taking.settle
    dsimp only
    split
    · rw [Taking.examine_empty rails]
      exact held
    · exact held
  rw [Taking.finish, Taking.flush_nothing keeps, Taking.settle_empty pool]

/-! ### TOOL SYNC to the slots of a list -/

section ToolSync

variable {c : Setup} {l l' : Live} {i j : SlotId}

theorem Live.queue_head_eq {m : HeadMsg} (h : l'.heads[j] = l.heads[j]) :
    (l'.queue c j m).heads[j] = (l.queue c j m).heads[j] := by
  have added (x : Live) : (x.updHead j fun k => { k with list := k.list ++ [m] }).heads[j] =
      { x.heads[j] with list := x.heads[j].list ++ [m] } := vmod_get_self _ _ _
  unfold Live.queue
  rw [Live.beginHead_head, Live.beginHead_head, added, added, h]

theorem Live.queueJoin_head_eq {m : HeadMsg} (h : l'.heads[j] = l.heads[j]) :
    (l'.queueJoin c j m).heads[j] = (l.queueJoin c j m).heads[j] := by
  have cut (x : Live) (p : HeadMsg → Bool) : (x.unqueue j p).heads[j] =
      { x.heads[j] with list := x.heads[j].list.filter fun m => !p m } := vmod_get_self _ _ _
  unfold Live.queueJoin
  rw [h]
  split
  · exact h
  · exact Live.queue_head_eq (by rw [cut, cut, h])

theorem Live.queueJoin_other {m : HeadMsg} (h : j ≠ i) : (l.queueJoin c i m).heads[j] = l.heads[j] := by
  unfold Live.queueJoin
  split
  · rfl
  · exact ((Live.LinesKept.unqueue (p := (· ≠ i)) (by simp)).trans (Live.LinesKept.queue (by simp))).other j h

theorem Live.queueToolSync_other (h : j ≠ i) : (l.queueToolSync c i).heads[j] = l.heads[j] := by
  unfold Live.queueToolSync
  split
  · rfl
  · exact Live.queueJoin_other h

theorem Live.queueToolSync_some {g : Tool} (h : l.slots[i].tool = some g) :
    l.queueToolSync c i = l.queueJoin c i (.toolSync g.id g.limit g.count) := by
  simp only [Live.queueToolSync, h]

theorem Live.queueToolSync_none (h : l.slots[i].tool = none) : l.queueToolSync c i = l := by
  simp only [Live.queueToolSync, h]

/-- What of the state a TOOL SYNC to a slot reads and changes: the slot's link, and the records. -/
def Live.syncView (l : Live) (j : SlotId) : HeadLink × Vector Slot 12 := (l.heads[j], l.slots)

theorem Live.syncView_other (l : Live) (i j : SlotId) (h : j ≠ i) : (l.queueToolSync c i).syncView j = l.syncView j :=
  Prod.ext (Live.queueToolSync_other h) (by simp [Live.syncView])

/-- Who gets TOOL SYNC at a frame's release (R138). -/
theorem Live.syncsTool_iff : l.syncsTool j = true ↔
    (l.slots[j].state = .ready ∨ l.slots[j].state = .leaving ∨ l.slots[j].state = .released ∨ l.slots[j].state = .faulted)
      ∧ l.slots[j].head.map (fun g => g.declared.kind) = some .drill := by
  unfold Live.syncsTool Slot.kind?
  cases l.slots[j].state <;> simp

/-- Each slot that TOOL SYNC goes to has its record queued, and no other link changes. -/
theorem toolSyncs_heads (l : Live) (p : SlotId → Bool) (j : SlotId) :
    (p j = true → ∀ g, l.slots[j].tool = some g →
      ((allSlots.filter p).foldl (fun l i => l.queueToolSync c i) l).heads[j] =
        (l.queueJoin c j (.toolSync g.id g.limit g.count)).heads[j])
    ∧ (p j = false ∨ l.slots[j].tool = none →
      ((allSlots.filter p).foldl (fun l i => l.queueToolSync c i) l).heads[j] = l.heads[j]) := by
  have own (m : j ∈ allSlots.filter p) := foldl_slots_own (own := Live.syncView) (f := fun l i => l.queueToolSync c i)
    Live.syncView_other ((List.nodup_finRange 12).filter p) m l
  have member : p j = true → j ∈ allSlots.filter p := fun told => List.mem_filter.2 ⟨mem_allSlots j, told⟩
  refine ⟨fun told g tool => ?_, fun untold => ?_⟩
  · obtain ⟨l', found, left⟩ := own (member told)
    obtain ⟨head, slots⟩ := Prod.mk.inj found
    refine (congrArg Prod.fst left).trans ?_
    show (l'.queueToolSync c j).heads[j] = _
    rw [Live.queueToolSync_some (g := g) (by rw [slots, tool])]
    exact Live.queueJoin_head_eq head
  · cases told : p j with
    | false =>
      exact congrArg Prod.fst (foldl_slots_other (own := Live.syncView) (f := fun l i => l.queueToolSync c i)
        Live.syncView_other (by simp [told]) l)
    | true =>
      have bare := untold.resolve_left (by simp [told])
      obtain ⟨l', found, left⟩ := own (member told)
      obtain ⟨head, slots⟩ := Prod.mk.inj found
      refine (congrArg Prod.fst left).trans ?_
      show (l'.queueToolSync c j).heads[j] = _
      rw [Live.queueToolSync_none (by rw [slots, bare]), head]

end ToolSync

/-! ### The release -/

section Release

variable {h : Header} {f : Frame} {s : State}

/-- The taking of a release before its examinations (R10, R11). -/
def releaseTaking (h : Header) (f : Frame) (s : State) : Taking :=
  let t := s.live.pool.foldl (fun t o => t.withdraw s.setup o .frameEnded) (Taking.start s.live)
  let l := t.live.place s.setup (.answer h.tag (.frameReleased f.serial (countStates s.live.holes)))
  { t with live := { (allSlots.filter l.syncsTool).foldl (fun l i => l.queueToolSync s.setup i) l with holes := [] } }

/-- The setup of a release. -/
def Setup.unbound (mode : Mode) (c : Setup) : Setup := { c with frame := none, mode }

/-- With every order WAITING the release withdraws the whole pool. -/
theorem releaseFrame_eq (waiting : ∀ o ∈ s.live.pool, o.state = .waiting) (mode : Mode) :
    s.releaseFrame h f mode = settled { s with setup := s.setup.unbound mode } (releaseTaking h f s) := by
  have all : (s.live.pool.filter fun o => o.state == .waiting) = s.live.pool :=
    List.filter_eq_self.2 fun o m => by simpa using waiting o m
  unfold State.releaseFrame
  rw [all]
  rfl

/-- A field that neither a withdrawal nor an ANSWER nor a TOOL SYNC names. -/
theorem releaseTaking_keeps {α : Type} (g : Live → α)
    (leaves : ∀ (o : Order) (t : Taking), g (t.withdraw s.setup o .frameEnded).live = g t.live)
    (places : ∀ (b : CellBody) (l : Live), g (l.place s.setup b) = g l)
    (syncs : ∀ (l : Live) (i : SlotId), g (l.queueToolSync s.setup i) = g l)
    (clears : ∀ l : Live, g { l with holes := [] } = g l) : g (releaseTaking h f s).live = g s.live := by
  unfold releaseTaking
  dsimp only
  rw [clears, foldl_slots_keeps g syncs, places, Taking.withdrawAll_keeps g _ _ leaves]
  rfl

theorem releaseTaking_slots : (releaseTaking h f s).live.slots = s.live.slots :=
  releaseTaking_keeps Live.slots (by simp [Taking.withdraw]) (by simp) (by simp) fun _ => rfl

theorem releaseTaking_notices : (releaseTaking h f s).live.notices = s.live.notices :=
  releaseTaking_keeps Live.notices (by simp [Taking.withdraw]) (by simp) (by simp) fun _ => rfl

theorem releaseTaking_zones : (releaseTaking h f s).live.zones = s.live.zones :=
  releaseTaking_keeps Live.zones (by simp [Taking.withdraw]) (by simp) (by simp) fun _ => rfl

theorem releaseTaking_unitsInUse : (releaseTaking h f s).live.unitsInUse = s.live.unitsInUse :=
  releaseTaking_keeps Live.unitsInUse (by simp [Taking.withdraw]) (by simp) (by simp) fun _ => rfl

theorem releaseTaking_held : (releaseTaking h f s).held = [] := Taking.withdrawAll_held (t := Taking.start s.live) rfl

theorem releaseTaking_pool : (releaseTaking h f s).live.pool = [] := by
  have withdrawn : (s.live.pool.foldl (fun t o => t.withdraw s.setup o .frameEnded) (Taking.start s.live)).live.pool = [] := by
    rw [Taking.withdrawAll_pool, List.filter_eq_nil_iff]
    intro o m all
    simpa using List.all_eq_true.1 all o m
  have syncs (slots : List SlotId) (l : Live) :
      Live.Examined l (slots.foldl (fun l i => l.queueToolSync s.setup i) l) := by
    induction slots generalizing l with
    | nil => exact .refl l
    | cons i slots ih => exact Live.Examined.queueToolSync.trans (ih _)
  exact (syncs _ _).pool_nil withdrawn

theorem releaseTaking_bodies : (releaseTaking h f s).live.cell.bodies = s.live.cell.bodies
    ++ s.live.pool.map (fun o => orderDone s.live o .withdrawn (some .frameEnded))
    ++ [.answer h.tag (.frameReleased f.serial (countStates s.live.holes))] := by
  unfold releaseTaking
  dsimp only
  rw [foldl_slots_keeps Live.cell (by simp), Live.place_bodies, Taking.withdrawAll_bodies _ _ _ _ rfl]
  simp only [Taking.start_live, orderDone_eq (show OrderOutcome.withdrawn ≠ .completed by simp)]

theorem releaseTaking_request? : ∀ o ∈ s.live.pool, (releaseTaking h f s).live.request? o.tag = none := by
  intro o m
  unfold releaseTaking
  dsimp only
  have keeps : ∀ l i, Live.request? (Live.queueToolSync s.setup i l) o.tag = l.request? o.tag := by
    intro l i
    simp [Live.request?]
  exact (foldl_slots_keeps (fun l => l.request? o.tag) keeps _ _).trans (Taking.withdrawAll_request? _ _ _ _ m)

/-- The links after a release: TOOL SYNC to the slots it goes to (R138). -/
theorem releaseTaking_heads (j : SlotId) :
    (s.live.syncsTool j = true → ∀ g, s.live.slots[j].tool = some g →
      (releaseTaking h f s).live.heads[j] = (s.live.queueJoin s.setup j (.toolSync g.id g.limit g.count)).heads[j])
    ∧ (s.live.syncsTool j = false ∨ s.live.slots[j].tool = none →
      (releaseTaking h f s).live.heads[j] = s.live.heads[j]) := by
  let t := s.live.pool.foldl (fun t o => t.withdraw s.setup o .frameEnded) (Taking.start s.live)
  let l := t.live.place s.setup (.answer h.tag (.frameReleased f.serial (countStates s.live.holes)))
  have slots : l.slots = s.live.slots := Taking.withdrawAll_keeps Live.slots _ _ (by simp [Taking.withdraw]) _ _
  have heads : l.heads = s.live.heads := Taking.withdrawAll_keeps Live.heads _ _ (by simp [Taking.withdraw]) _ _
  have told : l.syncsTool j = s.live.syncsTool j := by unfold Live.syncsTool; rw [slots]
  obtain ⟨yes, no⟩ := toolSyncs_heads (c := s.setup) l l.syncsTool j
  rw [told, slots] at yes no
  refine ⟨fun a g tool => ?_, fun a => ?_⟩
  · exact (yes a g tool).trans (Live.queueJoin_head_eq (by rw [heads]))
  · exact (no a).trans (by rw [heads])

/-- All that a release leaves, once its examinations have been taken. -/
theorem release_leaves (c : Setup) :
    let t := (releaseTaking h f s).finish c
    t.pool = [] ∧ t.holes = [] ∧ t.notices = s.live.notices ∧ t.zones = s.live.zones ∧ t.unitsInUse = s.live.unitsInUse
      ∧ t.cell.bodies = (releaseTaking h f s).live.cell.bodies := by
  dsimp only
  have examined := Taking.finish_examined c (releaseTaking h f s)
  have finish := Taking.finish_empty (c := c) (releaseTaking_pool (h := h) (f := f) (s := s)) releaseTaking_held
  refine ⟨examined.pool_nil releaseTaking_pool, List.length_eq_zero_iff.1 examined.holes, ?_, ?_, ?_, ?_⟩
  · rw [examined.notices, releaseTaking_notices]
  · rw [finish, Live.syncCadences_zones, Taking.settleRails_zones, releaseTaking_zones]
  · rw [finish, Live.syncCadences_unitsInUse, Taking.settleRails_unitsInUse, releaseTaking_unitsInUse]
  · rw [finish, Live.syncCadences_cell, Taking.settleRails_cell]

end Release

/-! ### FRAME END and FRAME ABANDON (R10, R11) -/

section Frames

variable {h : Header} {s : State}

theorem Live.anyInFlight_false (waiting : ∀ o ∈ s.live.pool, o.state = .waiting) : s.live.anyInFlight = false := by
  simp only [Live.anyInFlight, List.any_eq_false]
  intro o m
  simp [Order.inFlight, waiting o m]

/-- What a reason is when a check in front of it fails. -/
theorem firstReason_head {b : Bool} {r r' : Reason} {rest : List (Bool × Reason)}
    (first : firstReason ((b, r) :: rest) = some r') : (b = true ∧ r' = r) ∨ (b = false ∧ firstReason rest = some r') := by
  cases b with
  | true => exact .inl ⟨rfl, by simpa [firstReason] using first.symm⟩
  | false => exact .inr ⟨rfl, by simpa [firstReason] using first⟩

theorem firstReason_nil {r : Reason} : firstReason [] ≠ some r := nofun

theorem frameEnd_refuses (w : Weighed s) (plain : Plain h 4) {r : Reason}
    (first : firstReason
        [ (s.setup.lockout, .locked), (s.setup.frame.isNone, .noFrame), (s.setup.mode == .stop, .stopped),
          (s.live.pool.any (fun o => o.state != .waiting), .inFlight),
          (s.live.zones.toList.any (fun z => z.state == .clamped), .zoneClamped) ] = some r) :
    exec (.frameEnd h) s = .next (answered s h (.refused r)) := by
  rw [show exec (.frameEnd h) s = execFrameEnd h s from rfl, execFrameEnd]
  obtain ⟨locked, rfl⟩ | ⟨unlocked, first⟩ := firstReason_head first
  · exact manage_locked w plain locked
  rw [manage_taken w plain fun _ => unlocked, closed_setup]
  cases bound : s.setup.frame with
  | none =>
    obtain rfl : Reason.noFrame = r := by simpa [firstReason, bound] using first
    rfl
  | some f =>
    obtain ⟨unbound, -⟩ | ⟨-, first⟩ := firstReason_head first
    · simp [bound] at unbound
    dsimp only
    obtain ⟨stop, rfl⟩ | ⟨mode, first⟩ := firstReason_head first
    · rw [if_pos (by simpa using stop)]
      rfl
    rw [if_neg (by simpa using mode)]
    obtain ⟨flight, rfl⟩ | ⟨ground, first⟩ := firstReason_head first
    · rw [if_pos (show (closed s).live.anyInFlight = true from flight)]
      rfl
    rw [if_neg (show ¬ (closed s).live.anyInFlight = true from Bool.eq_false_iff.1 ground)]
    obtain ⟨clamped, rfl⟩ | ⟨-, first⟩ := firstReason_head first
    · rw [if_pos (show (closed s).live.zones.toList.any _ = true from clamped)]
      rfl
    · exact absurd first firstReason_nil

theorem frameAbandon_refuses (w : Weighed s) (plain : Plain h 4) {r : Reason}
    (first : firstReason
        [ (s.setup.lockout, .locked), (s.setup.frame.isNone, .noFrame),
          (s.live.pool.any (fun o => o.state != .waiting), .inFlight) ] = some r) :
    exec (.frameAbandon h) s = .next (answered s h (.refused r)) := by
  rw [show exec (.frameAbandon h) s = execFrameAbandon h s from rfl, execFrameAbandon]
  obtain ⟨locked, rfl⟩ | ⟨unlocked, first⟩ := firstReason_head first
  · exact manage_locked w plain locked
  rw [manage_taken w plain fun _ => unlocked, closed_setup]
  cases bound : s.setup.frame with
  | none =>
    obtain rfl : Reason.noFrame = r := by simpa [firstReason, bound] using first
    rfl
  | some f =>
    obtain ⟨unbound, -⟩ | ⟨-, first⟩ := firstReason_head first
    · simp [bound] at unbound
    dsimp only
    obtain ⟨flight, rfl⟩ | ⟨-, first⟩ := firstReason_head first
    · rw [if_pos (show (closed s).live.anyInFlight = true from flight)]
      rfl
    · exact absurd first firstReason_nil

/-- A frame without an order in flight is released by either command. -/
theorem frame_released (w : Weighed s) (plain : Plain h 4) {f : Frame} (unlocked : s.setup.lockout = false)
    (bound : s.setup.frame = some f) (waiting : ∀ o ∈ s.live.pool, o.state = .waiting) {i : Instr}
    (form : i = Instr.frameAbandon h
      ∨ (i = Instr.frameEnd h ∧ s.setup.mode ≠ .stop ∧ ∀ z : ZoneId, s.live.zones[z].state ≠ .clamped)) :
    exec i s = .next ((closed s).releaseFrame h f (if s.setup.mode = .stop then .stop else .standby)) := by
  have ground : (closed s).live.anyInFlight = false := Live.anyInFlight_false waiting
  obtain rfl | ⟨rfl, mode, zones⟩ := form
  · rw [show exec (.frameAbandon h) s = execFrameAbandon h s from rfl, execFrameAbandon,
      manage_taken w plain fun _ => unlocked, closed_setup, bound]
    dsimp only
    rw [ground]
    rfl
  · have open_ : ((closed s).live.zones.toList.any fun z => z.state == .clamped) = false := by
      rw [List.any_eq_false]
      intro z m
      obtain ⟨n, lt, rfl⟩ := List.mem_iff_getElem.1 m
      simpa using zones ⟨n, by simpa using lt⟩
    rw [show exec (.frameEnd h) s = execFrameEnd h s from rfl, execFrameEnd,
      manage_taken w plain fun _ => unlocked, closed_setup, bound]
    dsimp only
    rw [if_neg mode, if_neg mode, ground, open_]
    rfl

/-- What is settled is closed already. -/
theorem settled_closed_setup (c : Setup) (t : Taking) :
    settled { closed s with setup := c } t = settled { s with setup := c } t := rfl

/-- Settles O16: the refusals in their order, then the release field by field. -/
theorem frameEndAndAbandon : Obligations.FrameEndAndAbandon := by
  intro h s w plain
  refine ⟨fun r => frameEnd_refuses w plain, fun r => frameAbandon_refuses w plain,
    fun f unlocked bound waiting i form => ?_⟩
  have steps := frame_released w plain unlocked bound waiting form
  rw [releaseFrame_eq (s := closed s) waiting, settled_closed_setup] at steps
  obtain ⟨pool, holes, notices, zones, units, bodies⟩ := release_leaves (h := h) (f := f) (s := closed s)
    (s.setup.unbound (if s.setup.mode = .stop then .stop else .standby))
  refine ⟨_, releaseTaking h f (closed s), steps, rfl, rfl, ?_⟩
  refine ⟨pool, holes, notices, zones, units, bodies.trans releaseTaking_bodies, releaseTaking_request? (s := closed s),
    releaseTaking_slots, fun j => ?_⟩
  obtain ⟨told, untold⟩ := releaseTaking_heads (h := h) (f := f) (s := closed s) j
  refine ⟨fun a g tool => (told (Live.syncsTool_iff.2 a) g tool).trans (Live.queueJoin_head_eq rfl),
    fun a => untold (a.imp_left fun n => ?_)⟩
  exact Bool.eq_false_iff.2 fun yes => n (Live.syncsTool_iff.1 yes)

end Frames

end Sys2Proof.Machine
end

section
/-! PROOFS. HOLE REWORK and the Hole Table (O17 to O20). -/

namespace Sys2Proof.Machine

open Sys2Proof.Safety

/-! ### The entry of a hole -/

theorem Live.updHole_eq {l : Live} {hole : Nat} {x : Hole} (entry : l.hole? hole = some x) (f : Hole → Hole) :
    l.updHole hole f = { l with holes := l.holes.set (hole - 1) (f x) } := by simp only [Live.updHole, entry]

theorem Live.hole?_eq_some {l : Live} {hole : Nat} {x : Hole} :
    l.hole? hole = some x ↔ 1 ≤ hole ∧ l.holes[hole - 1]? = some x := by
  unfold Live.hole?
  split
  case isTrue zero => simp [zero]
  case isFalse pos => exact ⟨fun e => ⟨Nat.pos_of_ne_zero pos, e⟩, And.right⟩

/-! ### HOLE REWORK (R21) -/

section Rework

variable {h : Header} {hole : Nat} {s : State}

theorem Hole.rework_suspect {x : Hole} (few : x.reworks < 2) (small : x.cls < 6) :
    x.rework = { x with state := .suspect, reworks := x.reworks + 1, cls := x.cls + 1, gauge := none, diameter := none
                        rivetSerial := none, force := none, peak := none } := if_pos ⟨few, small⟩

theorem Hole.rework_barred {x : Hole} (spent : 2 ≤ x.reworks ∨ 6 ≤ x.cls) : x.rework = { x with state := .barred } :=
  if_neg (by omega)

theorem holeRework_refuses (w : Weighed s) (plain : Plain h 6) {r : Reason}
    (first : firstReason
        [ (s.setup.lockout, .locked), (s.setup.frame.isNone, .noFrame), ((s.live.hole? hole).isNone, .badHole),
          ((s.live.hole? hole).any (fun x => x.state != .defect), .holeState) ] = some r) :
    exec (.holeRework h hole) s = .next (answered s h (.refused r)) := by
  rw [show exec (.holeRework h hole) s = execHoleRework h hole s from rfl, execHoleRework]
  obtain ⟨locked, rfl⟩ | ⟨unlocked, first⟩ := firstReason_head first
  · exact manage_locked w plain locked
  rw [manage_taken w plain fun _ => unlocked, closed_setup]
  obtain ⟨unbound, rfl⟩ | ⟨bound, first⟩ := firstReason_head first
  · rw [if_pos unbound]
    rfl
  rw [if_neg (Bool.eq_false_iff.1 bound), show (closed s).live.hole? hole = s.live.hole? hole from rfl]
  cases entry : s.live.hole? hole with
  | none =>
    obtain rfl : Reason.badHole = r := by simpa [firstReason, entry] using first
    rfl
  | some x =>
    rw [entry] at first
    obtain ⟨none_, -⟩ | ⟨-, first⟩ := firstReason_head first
    · simp at none_
    dsimp only
    obtain ⟨state, rfl⟩ | ⟨-, first⟩ := firstReason_head first
    · rw [if_pos (by simpa using state)]
      rfl
    · exact absurd first firstReason_nil

/-- Settles O17: the refusals in their order, then the two branches of the rework. -/
theorem holeRework : Obligations.HoleRework := by
  intro h hole s w plain
  refine ⟨fun r => holeRework_refuses w plain, fun x unlocked bound entry defect => ?_⟩
  refine ⟨x.rework, _, ?_, rfl, Hole.rework_suspect, Hole.rework_barred⟩
  have unbound : ¬ s.setup.frame.isNone = true := by simp [Option.isSome_iff_ne_none.1 bound]
  rw [show exec (.holeRework h hole) s = execHoleRework h hole s from rfl, execHoleRework,
    manage_taken w plain fun _ => unlocked, closed_setup, if_neg unbound,
    show (closed s).live.hole? hole = s.live.hole? hole from rfl, entry]
  dsimp only
  rw [if_neg (not_not.2 defect), Live.updHole_eq (show (closed s).live.hole? hole = some x from entry)]
  rfl

end Rework

/-! ### What issues and endings leave of a hole (R13 to R19) -/

section Entries

/-- Settles O18, by the kind and then by the state the hole is in. -/
theorem holeTakesIssue : Obligations.HoleTakesIssue := by
  intro c l hole x entry
  unfold Live.takeIssue
  simp only [entry, Live.updHole_eq entry]
  refine ⟨?_, ?_, ?_⟩
  · cases x.state <;> rfl
  · cases x.state <;> rfl
  · cases x.state <;> cases l.predecessorsSet c hole <;> rfl

theorem Gauge.ofCode_other {code : Nat} (a : code ≠ 1) (b : code ≠ 2) (d : code ≠ 3) : Gauge.ofCode code = none := by
  unfold Gauge.ofCode
  split <;> simp_all

theorem Force.ofCode_other {code : Nat} (a : code ≠ 1) (b : code ≠ 2) (d : code ≠ 3) : Force.ofCode code = none := by
  unfold Force.ofCode
  split <;> simp_all

theorem Order.carriedSerial?_eq {o : Order} {r : AssignedRivet} (rivet : o.rivet = some r) :
    o.carriedSerial? = if r.whereabouts = .carried then some r.serial else none := by
  simp only [Order.carriedSerial?, rivet]

/-- A drilling that ends (R15). -/
theorem drilled_spec (slot : SlotId) (code value : Nat) (x : Hole) :
    let y := { x with lastDrill := some slot, diameter := some value }
    (∀ g, Hole.drilled slot true g value x = { y with gauge := Gauge.ofCode g, state := .suspect })
    ∧ (code ≠ 1 → code ≠ 2 → code ≠ 3 →
        Hole.drilled slot false code value x = { y with gauge := none, diameter := none, state := .suspect })
    ∧ Hole.drilled slot false 1 value x = { y with gauge := some .within, state := .drilled }
    ∧ Hole.drilled slot false 2 value x = { y with gauge := some .under, state := .undersize }
    ∧ (x.cls < 6 →
        Hole.drilled slot false 3 value x = { y with gauge := some .over, state := .oversize, cls := x.cls + 1 })
    ∧ (6 ≤ x.cls → Hole.drilled slot false 3 value x = { y with gauge := some .over, state := .defect }) := by
  refine ⟨fun g => rfl, fun a b d => ?_, rfl, rfl, fun small => ?_, fun big => ?_⟩
  · simp [Hole.drilled, Gauge.ofCode_other a b d]
  · simp [Hole.drilled, Gauge.ofCode, gaugedState, small]
  · simp [Hole.drilled, Gauge.ofCode, gaugedState, Nat.not_lt.2 big]

/-- A riveting that ends (R16). -/
theorem riveted_spec (serial : Option Nat) (code value : Nat) (x : Hole) :
    let y := { x with rivetSerial := serial, peak := some value }
    (∀ g, Hole.riveted serial true g value x = { y with force := Force.ofCode g, state := .defect })
    ∧ (code ≠ 1 → code ≠ 2 → code ≠ 3 →
        Hole.riveted serial false code value x = { y with force := none, peak := none, state := .defect })
    ∧ Hole.riveted serial false 1 value x = { y with force := some .ok, state := .set }
    ∧ Hole.riveted serial false 2 value x = { y with force := some .low, state := .defect }
    ∧ Hole.riveted serial false 3 value x = { y with force := some .high, state := .defect } := by
  refine ⟨fun g => rfl, fun a b d => ?_, rfl, rfl, rfl⟩
  simp [Hole.riveted, Force.ofCode_other a b d]

/-- The return of an untouched hole (R17). -/
theorem returned_some (b : HoleState) (clamped : Bool) (x : Hole) :
    Hole.returned (some b) clamped x =
      { x with state := if (b = .drilled ∨ b = .oversize) ∧ clamped = false then .suspect else b } := by
  simp [Hole.returned]

/-- The ends that R18 and R19 give a SET: the serial it leaves is the carried rivet's. -/
theorem set_ends {o : Order} (kind : o.kind = .set) {r : AssignedRivet} (rivet : o.rivet = some r) (x : Hole) :
    (r.whereabouts = .carried →
      Hole.partial_ o x = { x with state := .defect, rivetSerial := some r.serial, force := none, peak := none }
      ∧ Hole.uncertain o x = { x with state := .defect, rivetSerial := some r.serial })
    ∧ (r.whereabouts ≠ .carried →
      Hole.partial_ o x = { x with state := .defect, force := none, peak := none }
      ∧ Hole.uncertain o x = { x with state := .defect }) := by
  simp only [Hole.partial_, Hole.uncertain, if_pos kind, Order.carriedSerial?_eq rivet]
  constructor
  · intro carried
    simp [carried]
  · intro elsewhere
    simp [elsewhere]

/-- Settles O19: a drilling, a riveting, and the ends without a clean report. -/
theorem holeAfterEnd : Obligations.HoleAfterEnd :=
  ⟨drilled_spec, riveted_spec, fun _ x b clamped => ⟨returned_some b clamped x,
    fun kind => ⟨if_neg kind, if_neg kind⟩, fun kind _ rivet => set_ends kind rivet x⟩⟩

end Entries

/-! ### The zone sweep (R20) -/

section Sweep

variable {c : Setup} {z : ZoneId}

theorem sweepFrom_length (n : Nat) (holes : List Hole) : (sweepFrom c z n holes).length = holes.length := by
  induction holes generalizing n with
  | nil => rfl
  | cons x rest ih => simp [sweepFrom, ih]

theorem sweepFrom_getElem? (n k : Nat) (holes : List Hole) :
    (sweepFrom c z n holes)[k]? =
      holes[k]?.map fun x => if (c.row? (n + k)).any fun r => r.zone == z then x.swept else x := by
  induction holes generalizing n k with
  | nil => rfl
  | cons x rest ih =>
    cases k with
    | zero => rfl
    | succ k => simpa [sweepFrom, Nat.add_assoc, Nat.add_comm 1] using ih (n + 1) k

/-- A hole of the zone, as the sweep asks for it. -/
theorem Setup.inZone_iff {n : Nat} :
    ((c.row? n).any fun r => r.zone == z) = true ↔ (c.row? n).map PatternRow.zone = some z := by
  cases c.row? n <;> simp

theorem Live.sweep_hole? {l : Live} {n : Nat} {x : Hole} (entry : l.hole? n = some x) :
    (l.sweep c z).hole? n = some
      (if (c.row? n).map PatternRow.zone = some z ∧ (x.state = .drilled ∨ x.state = .oversize) then
        { x with state := .suspect } else x) := by
  obtain ⟨low, at_⟩ := Live.hole?_eq_some.1 entry
  refine Live.hole?_eq_some.2 ⟨low, ?_⟩
  rw [show (l.sweep c z).holes = sweepFrom c z 1 l.holes from rfl, sweepFrom_getElem?, at_, Nat.add_sub_cancel' low,
    Option.map_some]
  congr 1
  by_cases zone : (c.row? n).map PatternRow.zone = some z
  · rw [if_pos (Setup.inZone_iff.2 zone), Hole.swept]
    simp only [zone, true_and]
  · rw [if_neg fun yes => zone (Setup.inZone_iff.1 yes), if_neg fun yes => zone yes.1]

/-- Settles O20, entry by entry. -/
theorem zoneSweep : Obligations.ZoneSweep := fun _ _ l =>
  ⟨⟨_, rfl, sweepFrom_length 1 l.holes⟩, fun _ _ => Live.sweep_hole?⟩

end Sweep

end Sys2Proof.Machine
end

section
/-!
PROOFS. What the ends of work leave of each field of the live state (R17 to R19, R47 to R49, R74, R94, R106): the layer
that O27, O30, O31, O40, O42 and O47 are proved from.
-/

namespace Sys2Proof.Machine

open Sys2Proof.Safety

/-! ### Orders by tag -/

section Orders

variable {l : Live} {tag : Nat}

theorem Live.order?_tag {o : Order} (e : l.order? tag = some o) : o.tag = tag := by simpa using List.find?_some e

theorem Live.order?_mem {o : Order} (e : l.order? tag = some o) : o ∈ l.pool := List.mem_of_find?_eq_some e

theorem Live.orderOf?_spec {s : SlotId} {o : Order} (e : l.orderOf? s tag = some o) :
    o ∈ l.pool ∧ o.tag = tag ∧ o.slot = s := by
  have spec := List.find?_some e
  simp only [Bool.and_eq_true, beq_iff_eq] at spec
  exact ⟨List.mem_of_find?_eq_some e, spec⟩

theorem Live.order?_congr {l l' : Live} (h : l'.pool = l.pool) : l'.order? tag = l.order? tag := by
  unfold Live.order?; rw [h]

theorem Live.order?_eq_none : l.order? tag = none ↔ ∀ o ∈ l.pool, o.tag ≠ tag := by
  simp [Live.order?, List.find?_eq_none]

/-- With tags that differ an order of the pool is the one of its tag. -/
theorem Live.order?_of_mem (unique : (l.pool.map Order.tag).Nodup) {o : Order} (m : o ∈ l.pool) :
    l.order? o.tag = some o := by
  cases e : l.order? o.tag with
  | none => exact absurd rfl (Live.order?_eq_none.1 e o m)
  | some q => rw [List.inj_on_of_nodup_map unique (Live.order?_mem e) m (Live.order?_tag e)]

/-- The record of a tag after a change of it that keeps the tag. -/
theorem Live.updOrder_order? {f : Order → Order} (h : ∀ o, (f o).tag = o.tag) (other : Nat) :
    (l.updOrder tag f).order? other = if other = tag then (l.order? tag).map f else l.order? other := by
  unfold Live.order?
  rw [Live.updOrder_pool, List.find?_map]
  have same : ((fun o : Order => o.tag == other) ∘ fun o => if o.tag = tag then f o else o) = fun o => o.tag == other := by
    funext o
    dsimp only [Function.comp]
    split <;> simp [h]
  rw [same]
  split
  case isTrue e =>
    rw [e]
    cases found : l.pool.find? fun o => o.tag == tag with
    | none => rfl
    | some o => simp [show o.tag = tag by simpa using List.find?_some found]
  case isFalse e =>
    cases found : l.pool.find? fun o => o.tag == other with
    | none => rfl
    | some o =>
      have own : o.tag = other := by simpa using List.find?_some found
      simp [own, e]

theorem Live.updOrder_order?_self {f : Order → Order} (h : ∀ o, (f o).tag = o.tag) :
    (l.updOrder tag f).order? tag = (l.order? tag).map f := by rw [Live.updOrder_order? h, if_pos rfl]

/-- The order of another tag after an order has left. -/
theorem Live.order?_filter {l' : Live} {gone : Nat} (h : l'.pool = l.pool.filter fun o => o.tag != gone) (other : tag ≠ gone) :
    l'.order? tag = l.order? tag := by
  unfold Live.order?
  rw [h, List.find?_filter]
  congr 1
  funext o
  by_cases own : o.tag = tag <;> simp [own, other]

end Orders

/-! ### Holes -/

/-- The hole of an order passed through `f`; an order without a hole changes none. -/
def Live.holesEdited (o : Order) (f : Hole → Hole) (l : Live) : List Hole :=
  match o.hole? with
  | some h => (l.updHole h f).holes
  | none => l.holes

section Holes

variable {l l' : Live} {o : Order} {f : Hole → Hole} {n : Nat}

theorem Live.hole?_congr (h : l'.holes = l.holes) : l'.hole? n = l.hole? n := by unfold Live.hole?; rw [h]

/-- What an update of one entry leaves. -/
theorem Live.updHole_hole? (k : Nat) : (l.updHole k f).hole? n = if n = k then (l.hole? n).map f else l.hole? n := by
  cases entry : l.hole? k with
  | none =>
    simp only [Live.updHole, entry]
    split
    case isTrue e => rw [e, entry]; rfl
    case isFalse => rfl
  | some x =>
    obtain ⟨low, at_⟩ := Live.hole?_eq_some.1 entry
    rw [Live.updHole_eq entry]
    unfold Live.hole?
    by_cases zero : n = 0
    · rw [if_pos zero, if_pos zero, if_neg (by omega)]
    · rw [if_neg zero, if_neg zero, List.getElem?_set]
      by_cases same : n = k
      · rw [if_pos (by rw [same]), if_pos same, same, at_, Option.map_some, if_pos (List.getElem?_eq_some_iff.1 at_).1]
      · rw [if_neg (by omega), if_neg same]

theorem Live.holesEdited_hole? (h : l'.holes = l.holesEdited o f) :
    l'.hole? n = if o.hole? = some n then (l.hole? n).map f else l.hole? n := by
  unfold Live.holesEdited at h
  cases aim : o.hole? with
  | none =>
    rw [aim] at h
    rw [Live.hole?_congr h, if_neg nofun]
  | some k =>
    rw [aim] at h
    rw [Live.hole?_congr h, Live.updHole_hole?]
    simp only [Option.some.injEq, eq_comm]

/-- The hole of an order, edited. -/
theorem Live.editHole_eq (o : Order) (f : Hole → Hole) (l : Live) :
    (match o.hole? with
      | some h => l.updHole h f
      | none => l) = { l with holes := l.holesEdited o f } := by
  unfold Live.holesEdited Live.updHole
  split
  · split <;> rfl
  · rfl

end Holes

/-! ### Lanes and zones -/

section LanesAndZones

variable {l : Live} {o : Order} {c : Setup} {i : LaneId} {z : ZoneId}

theorem rivetIn_iff : rivetIn o i = true ↔ o.laneRivet? = some i := by
  unfold rivetIn Order.laneRivet?
  cases o.rivet with
  | none => simp
  | some r => by_cases h : r.whereabouts = .lane <;> simp [h]

theorem Live.takeRivet_lane (j : LaneId) (tag : Nat) :
    (l.takeRivet j tag).lanes[i] =
      if i = j then { l.lanes[i] with stock := stockWithout tag l.lanes[i].stock } else l.lanes[i] := by
  rw [Live.takeRivet_lanes, vmod_get]
  split
  case isTrue e => rw [e]; rfl
  case isFalse => rfl

/-- The rivet of an untouched end (R94). -/
theorem Live.releaseRivetOf_lane (c : Setup) (o : Order) (i : LaneId) (l : Live) :
    (l.releaseRivetOf c o).lanes[i] = { l.lanes[i] with
      stock :=
        if rivetIn o i = true then
          if c.tables.lanes[i].slot.any (fun j => !l.slots[j].state.joined) = true then
            stockWithout o.tag l.lanes[i].stock
          else stockFreed o.tag l.lanes[i].stock
        else l.lanes[i].stock } := by
  unfold Live.releaseRivetOf
  cases place : o.laneRivet? with
  | none => rw [if_neg (by simp [rivetIn_iff, place])]
  | some j =>
    dsimp only
    unfold Live.freeRivet Live.heaterGone
    by_cases e : i = j
    · subst e
      rw [if_pos (rivetIn_iff.2 place)]
      split
      · rw [Live.takeRivet_lane, if_pos rfl]
      · simp only [Live.updLane_lanes, vmod_get_self]
        rfl
    · rw [if_neg (c := rivetIn o i = true) (by rw [rivetIn_iff, place]; exact fun h => e (Option.some.inj h).symm)]
      split
      · rw [Live.takeRivet_lane, if_neg e]
      · simp only [Live.updLane_lanes, vmod_get_ne _ _ e]

/-- The rivet of any other end (R41, R49, R52, R94). -/
theorem Live.dropRivetOf_lane (o : Order) (i : LaneId) (l : Live) :
    (l.dropRivetOf o).lanes[i] = { l.lanes[i] with
      stock := if rivetIn o i = true then stockWithout o.tag l.lanes[i].stock else l.lanes[i].stock } := by
  unfold Live.dropRivetOf
  cases place : o.laneRivet? with
  | none => rw [if_neg (by simp [rivetIn_iff, place])]
  | some j =>
    dsimp only
    rw [Live.takeRivet_lane]
    by_cases e : i = j
    · rw [if_pos e, if_pos (rivetIn_iff.2 (e ▸ place))]
    · rw [if_neg e, if_neg (by rw [rivetIn_iff, place]; exact fun h => e (Option.some.inj h).symm)]

/-- The heat record of a HEAT that ends with no rivet (R85). -/
theorem Live.endHeat_lane (o : Order) (i : LaneId) (l : Live) :
    (l.endHeat o).lanes[i] = { l.lanes[i] with
      heat := if o.kind = .heat ∧ o.target = .lane i then l.lanes[i].heatOff o.slot else l.lanes[i].heat } := by
  unfold Live.endHeat
  split
  case h_1 j kind target =>
    rw [Live.closeHeat_lanes, vmod_get, kind, target]
    by_cases e : i = j
    · simp [e]
    · simp [e, Ne.symm e]
  case h_2 other => rw [if_neg fun h => other i h.1 h.2]

/-- The unclamp-expected flag at the end of an UNCLAMP (R106). -/
theorem Live.endUnclamp_zone (o : Order) (z : ZoneId) (l : Live) :
    (l.endUnclamp o).zones[z] =
      if o.kind = .unclamp ∧ o.target = .zone z then { l.zones[z] with expected := false } else l.zones[z] := by
  unfold Live.endUnclamp
  split
  case h_1 y kind target =>
    rw [Live.setExpected_zones, vmod_get, kind, target]
    by_cases e : z = y
    · simp [e]
    · simp [e, Ne.symm e]
  case h_2 other => rw [if_neg fun h => other z h.1 h.2]

theorem Live.releaseRivetOf_eq (c : Setup) (o : Order) (l : Live) :
    l.releaseRivetOf c o = { l with lanes := (l.releaseRivetOf c o).lanes } := by
  unfold Live.releaseRivetOf Live.freeRivet
  split
  · split <;> rfl
  · rfl

theorem Live.dropRivetOf_eq (o : Order) (l : Live) : l.dropRivetOf o = { l with lanes := (l.dropRivetOf o).lanes } := by
  unfold Live.dropRivetOf
  split <;> rfl

theorem Live.endHeat_eq (o : Order) (l : Live) : l.endHeat o = { l with lanes := (l.endHeat o).lanes } := by
  unfold Live.endHeat
  split <;> rfl

theorem Live.endUnclamp_eq (o : Order) (l : Live) : l.endUnclamp o = { l with zones := (l.endUnclamp o).zones } := by
  unfold Live.endUnclamp
  split <;> rfl

end LanesAndZones

/-! ### The ends of operations -/

section Ends

variable {c : Setup} {o : Order} {t : Taking} {s : SlotId}

/-- Pump units returned (R74). -/
theorem Taking.returnUnits_live (o : Order) (t : Taking) :
    (t.returnUnits o).live = { t.live with unitsInUse := t.live.unitsInUse - o.units.getD 0 } := by
  unfold Taking.returnUnits
  split
  case h_1 none_ => rw [none_]; rfl
  case h_2 n some_ => rw [some_]; rfl

@[simp] theorem Taking.returnUnits_holdDones (o : Order) (t : Taking) : (t.returnUnits o).holdDones = t.holdDones := by
  unfold Taking.returnUnits
  split <;> rfl

/-- What stands for a hole's zone being CLAMPED where the order has a hole. -/
def Order.holeClamped (c : Setup) (l : Live) (o : Order) : Bool := (o.hole?.map (l.holeClamped c)).getD false

/-- The live state in which an untouched operation ends, before its units return. -/
def Live.undone (c : Setup) (o : Order) (l : Live) : Live :=
  (((({ l with holes := l.holesEdited o (Hole.returned o.before (o.holeClamped c l)) } : Live).releaseRivetOf c
    o).endHeat o).endUnclamp o)

/-- An operation that ends known untouched (R47, R48). -/
theorem Taking.undoOperation_live (c : Setup) (o : Order) (t : Taking) :
    (t.undoOperation c o).live =
      { t.live.undone c o with unitsInUse := t.live.unitsInUse - o.units.getD 0 } := by
  have edits : (match o.hole? with
      | some h => t.live.updHole h (Hole.returned o.before (t.live.holeClamped c h))
      | none => t.live) =
      { t.live with holes := t.live.holesEdited o (Hole.returned o.before (o.holeClamped c t.live)) } := by
    rw [← Live.editHole_eq]
    unfold Order.holeClamped
    cases o.hole? <;> rfl
  unfold Taking.undoOperation Live.undone
  dsimp only
  rw [Taking.returnUnits_live, Taking.on_live, ← edits]
  cases o.hole? <;> simp

theorem Live.undone_holes (c : Setup) (o : Order) (l : Live) :
    (l.undone c o).holes = l.holesEdited o (Hole.returned o.before (o.holeClamped c l)) := by simp [Live.undone]

theorem Live.undone_lane (c : Setup) (o : Order) (i : LaneId) (l : Live) :
    (l.undone c o).lanes[i] = { l.lanes[i] with
      stock :=
        if rivetIn o i = true then
          if c.tables.lanes[i].slot.any (fun j => !l.slots[j].state.joined) = true then
            stockWithout o.tag l.lanes[i].stock
          else stockFreed o.tag l.lanes[i].stock
        else l.lanes[i].stock
      heat := if o.kind = .heat ∧ o.target = .lane i then l.lanes[i].heatOff o.slot else l.lanes[i].heat } := by
  unfold Live.undone
  simp only [Live.endUnclamp_lanes]
  rw [Live.endHeat_lane, Live.releaseRivetOf_lane]
  rfl

theorem Live.undone_zone (c : Setup) (o : Order) (z : ZoneId) (l : Live) :
    (l.undone c o).zones[z] =
      if o.kind = .unclamp ∧ o.target = .zone z then { l.zones[z] with expected := false } else l.zones[z] := by
  unfold Live.undone
  rw [Live.endUnclamp_zone]
  simp

/-- What an untouched end keeps: a field that is not the holes, the lanes or the zones. -/
theorem Live.undone_keeps {α : Type} (g : Live → α) (holes : ∀ (l : Live) (x : List Hole), g { l with holes := x } = g l)
    (lanes : ∀ (l : Live) (x : Vector Lane 2), g { l with lanes := x } = g l)
    (zones : ∀ (l : Live) (x : Vector Zone 8), g { l with zones := x } = g l) (c : Setup) (o : Order) (l : Live) :
    g (l.undone c o) = g l := by
  unfold Live.undone
  rw [Live.endUnclamp_eq, zones, Live.endHeat_eq, lanes, Live.releaseRivetOf_eq, lanes, holes]

theorem Taking.undoOperation_hole? {hole : Nat} {x : Hole} (aim : o.hole? = some hole)
    (entry : t.live.hole? hole = some x) :
    (t.undoOperation c o).live.hole? hole = some (Hole.returned o.before (t.live.holeClamped c hole) x) := by
  rw [Taking.undoOperation_live]
  refine (Live.holesEdited_hole? (n := hole) (Live.undone_holes c o t.live)).trans ?_
  rw [if_pos aim, entry]
  simp only [Order.holeClamped, aim]
  rfl

theorem Taking.undoOperation_lane (c : Setup) (o : Order) (i : LaneId) (t : Taking) :
    (t.undoOperation c o).live.lanes[i] = { t.live.lanes[i] with
      stock :=
        if rivetIn o i = true then
          if c.tables.lanes[i].slot.any (fun j => !t.live.slots[j].state.joined) = true then
            stockWithout o.tag t.live.lanes[i].stock
          else stockFreed o.tag t.live.lanes[i].stock
        else t.live.lanes[i].stock
      heat := if o.kind = .heat ∧ o.target = .lane i then t.live.lanes[i].heatOff o.slot else t.live.lanes[i].heat } := by
  rw [Taking.undoOperation_live]
  exact Live.undone_lane c o i t.live

theorem Taking.undoOperation_zone (c : Setup) (o : Order) (z : ZoneId) (t : Taking) :
    (t.undoOperation c o).live.zones[z] =
      if o.kind = .unclamp ∧ o.target = .zone z then { t.live.zones[z] with expected := false } else t.live.zones[z] := by
  rw [Taking.undoOperation_live]
  exact Live.undone_zone c o z t.live

theorem Taking.undoOperation_units (c : Setup) (o : Order) (t : Taking) :
    (t.undoOperation c o).live.unitsInUse = t.live.unitsInUse - o.units.getD 0 := by rw [Taking.undoOperation_live]

theorem Taking.undoOperation_slots : (t.undoOperation c o).live.slots = t.live.slots := by
  rw [Taking.undoOperation_live]
  exact Live.undone_keeps Live.slots (fun _ _ => rfl) (fun _ _ => rfl) (fun _ _ => rfl) c o t.live

theorem Taking.undoOperation_pool : (t.undoOperation c o).live.pool = t.live.pool := by
  rw [Taking.undoOperation_live]
  exact Live.undone_keeps Live.pool (fun _ _ => rfl) (fun _ _ => rfl) (fun _ _ => rfl) c o t.live

/-- The end of work on a slot (R134, R175). -/
theorem Taking.workEnds_live (s : SlotId) (t : Taking) :
    (t.workEnds s).live = (t.live.updSlot s fun x =>
      { x with work := .idle, timer := none, state := if x.state = .busy then .ready else x.state }).unqueue s
        HeadMsg.isAbort := by
  unfold Taking.workEnds
  dsimp only
  split <;> rfl

@[simp] theorem Taking.workEnds_holdDones (s : SlotId) (t : Taking) : (t.workEnds s).holdDones = t.holdDones := by
  unfold Taking.workEnds
  dsimp only
  split <;> rfl

/-- A BUSY slot that is READY again starts an examination (R35). -/
theorem Taking.workEnds_gateDue (busy : t.live.slots[s].state = .busy) : (t.workEnds s).gateDue = true := by
  unfold Taking.workEnds
  dsimp only
  rw [if_pos busy]
  rfl

theorem Taking.workEnds_gateDue_of (due : t.gateDue = true) : (t.workEnds s).gateDue = true := by
  unfold Taking.workEnds
  dsimp only
  split
  · rfl
  · exact due

@[simp] theorem Taking.undoOperation_holdDones (c : Setup) (o : Order) (t : Taking) :
    (t.undoOperation c o).holdDones = t.holdDones := by
  unfold Taking.undoOperation
  simp

/-! ### Taking back an unsent message (R47, R69) -/

/-- The travel of a slot restored (R69). -/
theorem Taking.restoreTravel_live (s : SlotId) (t : Taking) :
    ∃ (holdings : Vector (Option Holding) 12) (travels : Vector (Option Travel) 12),
      (t.restoreTravel s).live = { t.live with holdings, travels }
      ∧ ∀ v g, t.live.travels[s] = some v → t.live.holdings[s] = some g →
          holdings[s] = some { rail := g.rail, run := v.former } ∧ travels[s] = none := by
  unfold Taking.restoreTravel
  split
  case h_1 none_ => exact ⟨_, _, rfl, fun v g travel => by rw [none_] at travel; cases travel⟩
  case h_2 v travel =>
    unfold Taking.narrow
    split
    case h_1 none_ => exact ⟨_, _, rfl, fun v g _ holding => by rw [none_] at holding; cases holding⟩
    case h_2 g holding =>
      refine ⟨t.live.holdings.set s (some { rail := g.rail, run := v.former }), t.live.travels.set s none, ?_, ?_⟩
      · dsimp only
        split
        · rfl
        · cases g.rail <;> rfl
      · intro v' g' travel' holding'
        obtain rfl : v = v' := Option.some.inj (travel.symm.trans travel')
        obtain rfl : g = g' := Option.some.inj (holding.symm.trans holding')
        simp

@[simp] theorem Taking.restoreTravel_holdDones (s : SlotId) (t : Taking) : (t.restoreTravel s).holdDones = t.holdDones := by
  unfold Taking.restoreTravel Taking.narrow
  split
  · rfl
  · split
    · rfl
    · dsimp only
      split
      · rfl
      · rw [Taking.wakeRail_holdDones]
        rfl

@[simp] theorem Taking.undoUnsent_holdDones (c : Setup) (o : Order) (t : Taking) :
    (t.undoUnsent c o).holdDones = t.holdDones := by
  unfold Taking.undoUnsent
  dsimp only
  split <;> simp

@[simp] theorem Taking.workEnds_held (s : SlotId) (t : Taking) : (t.workEnds s).held = t.held := by
  unfold Taking.workEnds
  dsimp only
  split <;> rfl

@[simp] theorem Taking.returnUnits_held (o : Order) (t : Taking) : (t.returnUnits o).held = t.held := by
  unfold Taking.returnUnits
  split <;> rfl

@[simp] theorem Taking.restoreTravel_held (s : SlotId) (t : Taking) : (t.restoreTravel s).held = t.held := by
  unfold Taking.restoreTravel Taking.narrow
  split
  · rfl
  · split
    · rfl
    · dsimp only
      split
      · rfl
      · rw [Taking.wakeRail_held]
        rfl

@[simp] theorem Taking.undoUnsent_held (c : Setup) (o : Order) (t : Taking) : (t.undoUnsent c o).held = t.held := by
  unfold Taking.undoUnsent Taking.undoOperation
  dsimp only
  split <;> simp

@[simp] theorem Taking.workEnds_holes (s : SlotId) (t : Taking) : (t.workEnds s).live.holes = t.live.holes := by
  rw [Taking.workEnds_live]
  rfl

@[simp] theorem Taking.workEnds_unitsInUse (s : SlotId) (t : Taking) :
    (t.workEnds s).live.unitsInUse = t.live.unitsInUse := by
  rw [Taking.workEnds_live]
  rfl

@[simp] theorem Taking.workEnds_lanes (s : SlotId) (t : Taking) : (t.workEnds s).live.lanes = t.live.lanes := by
  rw [Taking.workEnds_live]
  rfl

@[simp] theorem Taking.workEnds_zones (s : SlotId) (t : Taking) : (t.workEnds s).live.zones = t.live.zones := by
  rw [Taking.workEnds_live]
  rfl

@[simp] theorem Taking.workEnds_notices (s : SlotId) (t : Taking) : (t.workEnds s).live.notices = t.live.notices := by
  rw [Taking.workEnds_live]
  rfl

@[simp] theorem Taking.workEnds_cell (s : SlotId) (t : Taking) : (t.workEnds s).live.cell = t.live.cell := by
  rw [Taking.workEnds_live]
  rfl

@[simp] theorem Taking.undoUnsent_cell (c : Setup) (o : Order) (t : Taking) :
    (t.undoUnsent c o).live.cell = t.live.cell := by
  unfold Taking.undoUnsent
  dsimp only
  split
  · obtain ⟨holdings, travels, live, -⟩ :=
      (t.on (Live.unqueue o.slot fun m => m.cls == 3)).restoreTravel_live o.slot
    rw [live]
    rfl
  · rw [Taking.undoOperation_live]
    exact Live.undone_keeps Live.cell (fun _ _ => rfl) (fun _ _ => rfl) (fun _ _ => rfl) c o _

/-- What of the live state the orders' records and the messages for the cell are not. -/
structure Live.Works where
  heads : Vector HeadLink 12
  slots : Vector Slot 12
  holes : List Hole
  unitsInUse : Nat
  lanes : Vector Lane 2
  zones : Vector Zone 8
  holdings : Vector (Option Holding) 12
  travels : Vector (Option Travel) 12
  notices : Vector (Option Notice) 52

/-- The works of a live state. -/
def Live.works (l : Live) : Live.Works :=
  { heads := l.heads, slots := l.slots, holes := l.holes, unitsInUse := l.unitsInUse, lanes := l.lanes, zones := l.zones
    holdings := l.holdings, travels := l.travels, notices := l.notices }

/-- What an order's end leaves of its works, stated of states of the same works. -/
theorem takenBack_congr {l l' u u' : Live} (before : l'.works = l.works) (after : u'.works = u.works)
    (h : TakenBack c l o u) : TakenBack c l' o u' := by
  cases l; cases l'; cases u; cases u'
  simp only [Live.works, Live.Works.mk.injEq] at before after
  obtain ⟨rfl, rfl, rfl, rfl, rfl, rfl, rfl, rfl, rfl⟩ := before
  obtain ⟨rfl, rfl, rfl, rfl, rfl, rfl, rfl, rfl, rfl⟩ := after
  exact h

/-- Work that ends on a slot once its messages of class 3 have been taken off (R47, R134, R175). -/
theorem Taking.workEnds_quiet {l : Live} (heads : t.live.heads = (l.unqueue s fun m => m.cls == 3).heads)
    (slots : t.live.slots = l.slots) :
    let u := (t.workEnds s).live
    u.heads[s].list = l.heads[s].list.filter (fun m => m.cls != 3 && !m.isAbort)
      ∧ u.heads[s].sending = l.heads[s].sending
      ∧ u.slots[s] = { l.slots[s] with
          work := .idle, timer := none, state := if l.slots[s].state = .busy then .ready else l.slots[s].state }
      ∧ ∀ j, j ≠ s → u.slots[j] = l.slots[j] ∧ u.heads[j] = l.heads[j] := by
  dsimp only
  rw [Taking.workEnds_live]
  simp only [Live.unqueue_heads, Live.updSlot_heads, Live.unqueue_slots, Live.updSlot_slots, heads, slots, vmod_get_self]
  refine ⟨?_, trivial, trivial, fun j other => ?_⟩
  · rw [List.filter_filter]
    congr 1
    funext m
    exact Bool.and_comm _ _
  · simp only [vmod_get_ne _ _ other, and_self]

/-- Taking back an unsent ISSUE (R47, R17, R94, R74, R85, R106). -/
theorem Taking.undoUnsent_issue (mark : o.travelMark = none) (t : Taking) :
    (t.undoUnsent c o).live = { (t.live.unqueue o.slot fun m => m.cls == 3).undone c o with
      unitsInUse := t.live.unitsInUse - o.units.getD 0 } := by
  unfold Taking.undoUnsent
  dsimp only
  rw [mark, if_neg (by simp), Taking.undoOperation_live]
  rfl

/-- Taking back an unsent TRAVEL (R47, R69). -/
theorem Taking.undoUnsent_travel (mark : o.travelMark ≠ none) (t : Taking) :
    (t.undoUnsent c o).live = ((t.on (Live.unqueue o.slot fun m => m.cls == 3)).restoreTravel o.slot).live := by
  unfold Taking.undoUnsent
  dsimp only
  rw [if_pos (Option.isSome_iff_ne_none.2 mark)]

theorem Taking.undoUnsent_heads : (t.undoUnsent c o).live.heads = (t.live.unqueue o.slot fun m => m.cls == 3).heads := by
  unfold Taking.undoUnsent
  dsimp only
  split
  · exact Taking.restoreTravel_heads
  · exact Taking.undoOperation_heads

/-- Taking back an unsent message, before the order is settled (R47, R69). -/
theorem Taking.undoUnsent_takenBack (c : Setup) (o : Order) (t : Taking) :
    TakenBack c t.live o ((t.undoUnsent c o).workEnds o.slot).live := by
  obtain ⟨list, sending, slot, others⟩ :=
    Taking.workEnds_quiet (t := t.undoUnsent c o) (l := t.live) (s := o.slot) undoUnsent_heads undoUnsent_slots
  refine ⟨list, sending, slot, others, fun mark => ?_, fun mark => ?_⟩
  · obtain ⟨holdings, travels, live, restored⟩ :=
      (t.on (Live.unqueue o.slot fun m => m.cls == 3)).restoreTravel_live o.slot
    rw [Taking.workEnds_live, Taking.undoUnsent_travel mark, live]
    exact ⟨rfl, rfl, rfl, rfl, restored⟩
  · rw [Taking.workEnds_live, Taking.undoUnsent_issue mark]
    refine ⟨Live.undone_keeps Live.holdings (fun _ _ => rfl) (fun _ _ => rfl) (fun _ _ => rfl) c o _,
      Live.undone_keeps Live.travels (fun _ _ => rfl) (fun _ _ => rfl) (fun _ _ => rfl) c o _, fun hole x b aim entry before => ?_,
      rfl, fun i => ?_, fun i => ?_, fun z => ?_⟩
    · have edited := Live.holesEdited_hole? (n := hole) (Live.undone_holes c o (t.live.unqueue o.slot fun m => m.cls == 3))
      refine edited.trans ?_
      rw [if_pos aim, show (t.live.unqueue o.slot fun m => m.cls == 3).hole? hole = some x from entry, before]
      simp only [Order.holeClamped, aim]
      rfl
    · exact (congrArg Lane.stock (Live.undone_lane c o i _)).trans rfl
    · exact (congrArg Lane.heat (Live.undone_lane c o i _)).trans rfl
    · exact (Live.undone_zone c o z _).trans rfl

/-! ### The order of an untouched end (R47, R48) -/

/-- What an order's record and its messages for the cell are not is left as it was when the order is settled. -/
theorem Taking.settleOrder_works : (t.settleOrder c o).live.works = t.live.works := by
  unfold Taking.settleOrder Taking.withdraw
  split
  · simp [Live.works]
  · split
    · simp [Live.works]
    · rfl

theorem orderDoneOf_fields (l : Live) (o : Order) (x : OrderOutcome) (y : Option DoneCause) (n : Option Nat) :
    (orderDoneOf l o x y n).tag = o.tag ∧ (orderDoneOf l o x y n).kind = o.kind ∧ (orderDoneOf l o x y n).slot = o.slot
      ∧ (orderDoneOf l o x y n).target = o.target ∧ (orderDoneOf l o x y n).outcome = x
      ∧ (orderDoneOf l o x y n).cause = y ∧ (orderDoneOf l o x y n).cancel = o.cancel
      ∧ (orderDoneOf l o x y n).holeInfo = (o.hole?.bind l.hole?).map fun h => (h.state, h.cls) := by
  unfold orderDoneOf
  dsimp only
  split
  · exact ⟨rfl, rfl, rfl, rfl, rfl, rfl, rfl, rfl⟩
  · split <;> exact ⟨rfl, rfl, rfl, rfl, rfl, rfl, rfl, rfl⟩

/-- An ORDER DONE that is placed at once is said. -/
theorem Taking.leave_says (placed : t.holdDones = false) (x : OrderOutcome) (y : Option DoneCause) (n : Option Nat) :
    Says (t.leave c o x y n).live (.orderDone (orderDoneOf t.live o x y n)) := by
  unfold Says
  rw [Taking.leave_bodies _ _ _ _ _ _ placed]
  simp

/-- The ORDER DONE of an order that leaves, its hole read as the leaving leaves it. -/
theorem Taking.leave_reports (placed : t.holdDones = false) (x : OrderOutcome) (y : Option DoneCause) (n : Option Nat) :
    ∃ d, Says (t.leave c o x y n).live (.orderDone d) ∧ d.tag = o.tag ∧ d.kind = o.kind ∧ d.slot = o.slot
      ∧ d.target = o.target ∧ d.outcome = x ∧ d.cause = y ∧ d.cancel = o.cancel
      ∧ d.holeInfo = (o.hole?.bind (t.leave c o x y n).live.hole?).map fun h => (h.state, h.cls) := by
  have holes : (t.leave c o x y n).live.hole? = t.live.hole? := funext fun _ => Live.hole?_congr (Taking.leave_holes ..)
  rw [holes]
  exact ⟨_, Taking.leave_says placed x y n, orderDoneOf_fields t.live o x y n⟩

/-- An order that leaves, with its ORDER DONE. -/
theorem Taking.leave_tells (placed : t.holdDones = false) (x : OrderOutcome) (y : Option DoneCause) (n : Option Nat) :
    (t.leave c o x y n).live.order? o.tag = none
      ∧ ∃ d, Says (t.leave c o x y n).live (.orderDone d) ∧ d.tag = o.tag ∧ d.kind = o.kind ∧ d.slot = o.slot
        ∧ d.outcome = x ∧ d.cause = y ∧ d.cancel = o.cancel := by
  obtain ⟨tag, kind, slot, -, outcome, cause, cancel, -⟩ := orderDoneOf_fields t.live o x y n
  exact ⟨Taking.leave_order? .., _, Taking.leave_says placed x y n, tag, kind, slot, outcome, cause, cancel⟩

/-- An order whose end is untouched goes by its flag and its slot (R47, R48). -/
theorem Taking.settleOrder_goesBack {l : Live} (placed : t.holdDones = false) (found : t.live.order? o.tag = some o)
    (leaving : t.live.slots[o.slot].state = .leaving ↔ l.slots[o.slot].state = .leaving) :
    GoesBack l o (t.settleOrder c o).live := by
  unfold Taking.settleOrder
  refine ⟨fun flag => ?_, fun flag gone => ?_, fun flag stays => ?_⟩
  · rw [if_pos flag]
    exact Taking.leave_tells placed _ _ _
  · rw [if_neg (by simp [flag]), if_pos (leaving.2 gone)]
    exact Taking.leave_tells placed _ _ _
  · rw [if_neg (by simp [flag]), if_neg (fun h => stays (leaving.1 h)), Taking.on_live,
      Live.updOrder_order?_self (f := Order.requeued) fun _ => rfl, found]
    rfl

/-- A settled order leaves an examination due that was due. -/
theorem Taking.settleOrder_gateDue (due : t.gateDue = true) : (t.settleOrder c o).gateDue = true := by
  unfold Taking.settleOrder
  split
  · rfl
  · split
    · rfl
    · exact due

/-- The end of work leaves a slot LEAVING that was, and makes none so. -/
theorem Taking.workEnds_leaving (j : SlotId) :
    (t.workEnds s).live.slots[j].state = .leaving ↔ t.live.slots[j].state = .leaving := by
  rw [Taking.workEnds_live, Live.unqueue_slots, Live.updSlot_slots, vmod_get]
  by_cases own : j = s
  · rw [if_pos own, ← own]
    dsimp only
    split
    case isTrue busy => rw [busy]; exact ⟨nofun, nofun⟩
    case isFalse => exact Iff.rfl
  · rw [if_neg own]

end Ends

end Sys2Proof.Machine
end

section
/-! PROOFS. CANCEL, and whatever aborts an order whose message is unsent (O27). -/

namespace Sys2Proof.Machine

open Sys2Proof.Safety

/-! ### Claims after the order has left (R61) -/

/-- No claim is filed for a tag. -/
def Live.Unclaimed (tag : Nat) (l : Live) : Prop := ∀ q ∈ l.requestsA ++ l.requestsB, q.tag ≠ tag

section Claims

variable {l l' : Live} {c : Setup} {tag : Nat} {t : Taking} {o : Order}

theorem Live.unclaimed_iff : l.Unclaimed tag ↔ l.request? tag = none := by
  simp [Live.Unclaimed, Live.request?, List.find?_eq_none, or_imp, forall_and]

theorem Live.unclaimed_requests (r : Rail) (h : l.Unclaimed tag) : ∀ q ∈ l.requests r, q.tag ≠ tag := by
  intro q m
  refine h q (List.mem_append.2 ?_)
  cases r
  · exact .inl m
  · exact .inr m

/-- Fewer claims, or as many. -/
theorem Live.Unclaimed.of_subset (h : l.Unclaimed tag) (a : ∀ q ∈ l'.requestsA, q ∈ l.requestsA)
    (b : ∀ q ∈ l'.requestsB, q ∈ l.requestsB) : l'.Unclaimed tag := fun q m =>
  h q (List.mem_append.2 ((List.mem_append.1 m).imp (a q) (b q)))

theorem Live.Unclaimed.of_eq (h : l.Unclaimed tag) (a : l'.requestsA = l.requestsA) (b : l'.requestsB = l.requestsB) :
    l'.Unclaimed tag := h.of_subset (fun _ m => a ▸ m) (fun _ m => b ▸ m)

/-- The claims of one rail replaced by claims of other tags. -/
theorem Live.Unclaimed.setRequests (h : l.Unclaimed tag) {r : Rail} {qs : List Request} (new : ∀ q ∈ qs, q.tag ≠ tag) :
    (l.setRequests r qs).Unclaimed tag := by
  intro q m
  cases r
  · exact (List.mem_append.1 m).elim (new q) fun m => h q (List.mem_append.2 (.inr m))
  · exact (List.mem_append.1 m).elim (fun m => h q (List.mem_append.2 (.inl m))) (new q)

theorem Live.Unclaimed.grant (h : l.Unclaimed tag) {r : Rail} {q : Request} {former : Run} :
    (l.grant c r q former).Unclaimed tag := by
  have fewer : (l.setRequests r ((l.requests r).filter fun x => x.tag != q.tag)).Unclaimed tag :=
    h.setRequests fun x m => Live.unclaimed_requests r h x (List.mem_filter.1 m).1
  exact fewer.of_eq (by simp [Live.grant]) (by simp [Live.grant])

theorem Live.Unclaimed.examineRail (h : l.Unclaimed tag) (r : Rail) : (l.examineRail c r).Unclaimed tag := by
  unfold Live.examineRail
  generalize l.requests r = qs
  suffices ∀ p : Live × List Run, p.1.Unclaimed tag → (qs.foldl (weighRequest c r) p).1.Unclaimed tag from this (l, []) h
  induction qs with
  | nil => exact fun _ h => h
  | cons q qs ih =>
    intro p hp
    refine ih _ ?_
    unfold weighRequest
    split
    · exact hp
    · split
      · exact hp.grant
      · exact hp

theorem Live.Unclaimed.settleRails (h : t.live.Unclaimed tag) : (t.settleRails c).live.Unclaimed tag := by
  unfold Taking.settleRails
  dsimp only
  split
  · split
    · exact (h.examineRail .a).examineRail .b
    · exact h.examineRail .b
  · split
    · exact h.examineRail .a
    · exact h

theorem Live.Unclaimed.withdrawClaim (h : t.live.Unclaimed tag) (other : Nat) :
    (t.withdrawClaim other).live.Unclaimed tag :=
  h.of_subset (fun _ m => (List.mem_filter.1 m).1) fun _ m => (List.mem_filter.1 m).1

theorem Live.Unclaimed.leave (h : t.live.Unclaimed tag) {x : OrderOutcome} {y : Option DoneCause} {n : Option Nat} :
    (t.leave c o x y n).live.Unclaimed tag :=
  h.of_subset (by rw [Taking.leave_requestsA]; exact fun _ m => (List.mem_filter.1 m).1)
    (by rw [Taking.leave_requestsB]; exact fun _ m => (List.mem_filter.1 m).1)

theorem Live.takeIssue_eq {k : OrderKind} {hole : Nat} {b : HoleState} (e : l.takeIssue c k hole = some (b, l')) :
    l'.requestsA = l.requestsA ∧ l'.requestsB = l.requestsB := by
  unfold Live.takeIssue at e
  split at e
  · cases e
  · split at e
    · cases e
      simp
    · cases e

theorem Live.takeForSet_eq {hole cls : Nat} {v : AssignedRivet} (e : l.takeForSet c o hole cls = some (v, l')) :
    l'.requestsA = l.requestsA ∧ l'.requestsB = l.requestsB := by
  unfold Live.takeForSet at e
  split at e
  · cases e
  · cases e
    exact ⟨rfl, rfl⟩

/-- An issue withdraws no claim and files none, but for those of an order that leaves. -/
theorem Live.Unclaimed.issue (h : t.live.Unclaimed tag) : (t.issue c o).live.Unclaimed tag := by
  unfold Taking.issue
  split
  · split
    · exact h.leave
    · next taken =>
      obtain ⟨a, b⟩ := Live.takeIssue_eq taken
      split
      · exact h.leave
      · split
        · exact h.leave
        · next assigned =>
          obtain ⟨a', b'⟩ := Live.takeForSet_eq assigned
          split
          · exact h.leave
          · exact h.of_eq (by simp [a, a']) (by simp [b, b'])
  · split
    · exact h.leave
    · next taken =>
      obtain ⟨a, b⟩ := Live.takeIssue_eq taken
      split
      · exact h.leave
      · exact h.of_eq (by simp [a]) (by simp [b])
  · split
    · exact h.leave
    · exact h.of_eq (by simp) (by simp)

/-- An examination files claims for the order weighed alone (R31). -/
theorem Live.Unclaimed.afterReason (h : t.live.Unclaimed tag) (other : o.tag ≠ tag) {r : WaitReason} :
    (t.afterReason c o r).live.Unclaimed tag := by
  unfold Taking.afterReason
  split
  · exact h.withdrawClaim _
  · split
    · split
      · next g _ _ _ =>
        rw [Taking.wakeRail_live, Taking.on_live]
        refine h.setRequests fun q m => ?_
        rcases List.mem_append.1 m with old | new
        · exact Live.unclaimed_requests _ h q old
        · rw [List.mem_singleton.1 new]
          exact other
      · exact h
    · exact h

theorem Live.Unclaimed.weigh (h : t.live.Unclaimed tag) (other : o.tag ≠ tag) {f : Bool} :
    (t.weigh c f o).1.live.Unclaimed tag := by
  unfold Taking.weigh
  split
  · exact h.leave
  · split
    · exact Live.Unclaimed.afterReason (t := t.on _) (h.of_eq rfl rfl) other
    · dsimp only
      split
      · exact h.leave
      · split
        · exact h.of_eq rfl rfl
        · exact h.issue

theorem Live.Unclaimed.weighOrder (h : t.live.Unclaimed tag) {other : Nat} (ne : other ≠ tag) {f : Bool} :
    (weighOrder c (t, f) other).1.live.Unclaimed tag := by
  unfold Machine.weighOrder
  split
  · exact h
  · next o found =>
    split
    · exact (h.weigh (by rw [Live.order?_tag found]; exact ne)).settleRails
    · exact h

/-- The end of a taking files no claim for a tag that is no order of the pool (R31, R61). -/
theorem Live.Unclaimed.finish (h : t.live.Unclaimed tag) (gone : t.live.order? tag = none) :
    (t.finish c).Unclaimed tag := by
  have pass (tags : List Nat) (others : ∀ x ∈ tags, x ≠ tag) (p : Taking × Bool) (hp : p.1.live.Unclaimed tag) :
      (tags.foldl (Machine.weighOrder c) p).1.live.Unclaimed tag := by
    induction tags generalizing p with
    | nil => exact hp
    | cons x tags ih =>
      exact ih (fun y m => others y (List.mem_cons_of_mem _ m)) _
        (hp.weighOrder (others x List.mem_cons_self) (f := p.2))
  have rails : (t.settleRails c).live.Unclaimed tag := h.settleRails
  have tags : ∀ x ∈ (t.settleRails c).live.pool.map Order.tag, x ≠ tag := by
    intro x m
    obtain ⟨o, mo, rfl⟩ := List.mem_map.1 m
    obtain ⟨q, mq, same⟩ := List.mem_map.1
      ((Taking.settleRails_examined c t).orders.subset (List.mem_map_of_mem (f := Order.fixed) mo))
    rw [← show q.tag = o.tag from congrArg Prod.fst same]
    exact Live.order?_eq_none.1 gone q mq
  have settled : (t.settle c).live.Unclaimed tag := by
    unfold Taking.settle
    dsimp only
    split
    · exact pass _ tags (t.settleRails c, false) rails
    · exact rails
  have placed : ((t.settle c).flush c).live.Unclaimed tag := by
    unfold Taking.flush
    dsimp only
    rw [Live.placeAll_fields]
    exact settled
  unfold Taking.finish
  exact placed.of_eq (by simp) (by simp)

/-- An order that has left the pool is not in it again at the end of the taking. -/
theorem Taking.finish_order? (gone : t.live.order? tag = none) : (t.finish c).order? tag = none := by
  rw [Live.order?_eq_none] at gone ⊢
  intro o m
  obtain ⟨q, mq, same⟩ := List.mem_map.1
    ((Taking.finish_examined c t).orders.subset (List.mem_map_of_mem (f := Order.fixed) m))
  rw [← show q.tag = o.tag from congrArg Prod.fst same]
  exact gone q mq

end Claims

/-! ### Whatever aborts an order whose message is unsent (R47) -/

section Unsent

variable {c : Setup} {t : Taking} {o : Order} {cause : AbortCause}

theorem Taking.abort_unsent (unsent : o.unsent = true) :
    t.abort c o cause = ((t.undoUnsent c o).workEnds o.slot).settleOrder c o := by
  unfold Taking.abort
  rw [if_pos unsent]

/-- Nothing of the taking back posts a notice. -/
theorem Taking.abort_notices : (t.abort c o cause).live.notices = t.live.notices :=
  (Taking.abort_examined c o cause t).notices

/-- The order of a taken back message is the pool's still, until it is settled. -/
theorem Taking.unsentEnd_order? (c : Setup) (o : Order) (t : Taking) (tag : Nat) :
    ((t.undoUnsent c o).workEnds o.slot).live.order? tag = t.live.order? tag :=
  Live.order?_congr (workEnds_pool.trans undoUnsent_pool)

theorem Taking.abort_takenBack (unsent : o.unsent = true) : TakenBack c t.live o (t.abort c o cause).live := by
  rw [Taking.abort_unsent unsent]
  exact takenBack_congr rfl Taking.settleOrder_works (Taking.undoUnsent_takenBack c o t)

theorem Taking.abort_goesBack (unsent : o.unsent = true) (placed : t.holdDones = false)
    (found : t.live.order? o.tag = some o) : GoesBack t.live o (t.abort c o cause).live := by
  rw [Taking.abort_unsent unsent]
  refine Taking.settleOrder_goesBack (by simp [placed]) ((Taking.unsentEnd_order? c o t o.tag).trans found) ?_
  rw [Taking.workEnds_leaving, Taking.undoUnsent_slots]

theorem Taking.abort_gateDue (unsent : o.unsent = true) (busy : t.live.slots[o.slot].state = .busy) :
    (t.abort c o cause).gateDue = true := by
  rw [Taking.abort_unsent unsent]
  exact Taking.settleOrder_gateDue (Taking.workEnds_gateDue (by rw [Taking.undoUnsent_slots]; exact busy))

end Unsent

/-! ### CANCEL (R45) -/

section CancelOrders

variable {c : Setup} {o : Order} {l : Live} {t : Taking} {h : Header} {s : State}

/-- The taking of a CANCEL up to its examinations: the effect, then TAKEN, then the ORDER DONE (R45). -/
def cancelTaking (c : Setup) (o : Order) (l : Live) : Taking :=
  ((((Taking.holding l).cancelOrder c o).on fun l => l.place c (.taken o.tag (l.takenState o.tag))).flush c)

/-- A taken CANCEL of an order of the pool. -/
theorem cancel_taken (w : Weighed s) (plain : Plain h 4) (unlocked : s.setup.lockout = false) (tag : h.tag ≠ 0)
    (found : s.live.order? h.tag = some o) :
    exec (.cancel h) s = .next (settled s (cancelTaking s.setup o (closed s).live)) := by
  rw [show exec (.cancel h) s = execCancel h s from rfl, execCancel,
    w.taken plain.holds.1 plain.holds.2 fun _ => unlocked, if_neg tag,
    show (closed s).live.order? h.tag = some o from found]
  rfl

/-- The reply to a CANCEL that leaves its order out of the pool, and the ORDER DONE after it. -/
theorem cancel_replies {b : CellBody} (gone : t.live.order? o.tag = none) (held : t.held = [b]) :
    ((t.on fun l => l.place c (.taken o.tag (l.takenState o.tag))).flush c).live =
      ((t.live.place c (.taken o.tag .left)).place c b) := by
  have left : t.live.takenState o.tag = .left := by simp only [Live.takenState, gone]
  unfold Taking.flush
  dsimp only
  rw [Taking.on_held, Taking.on_live, left, held]
  rfl

/-- A CANCEL that leaves its order in ABORTING. -/
theorem cancel_aborting {q : Order} (held : t.held = []) (found : t.live.order? o.tag = some q) (state : q.state = .aborting) :
    ((t.on fun l => l.place c (.taken o.tag (l.takenState o.tag))).flush c).live =
      t.live.place c (.taken o.tag .aborting) := by
  have aborting : t.live.takenState o.tag = .aborting := by simp only [Live.takenState, found, state]
  rw [Taking.flush_nothing (by rw [Taking.on_held, held]), Taking.on_live, aborting]

/-- With no examination due and nothing held the end of a taking starts and stops the cadence timers alone. -/
theorem Taking.finish_idle (gate : t.gateDue = false) (a : t.railADue = false) (b : t.railBDue = false) (held : t.held = []) :
    t.finish c = t.live.syncCadences c := by
  rw [Taking.finish, Taking.settle_idle gate a b, Taking.flush_nothing held]

/-- A WAITING order leaves CANCELLED (R45). -/
theorem cancel_waiting (waiting : o.state = .waiting) :
    (cancelTaking c o l).live =
      ((((Taking.holding l).leave c o .cancelled none none).live.place c (.taken o.tag .left)).place c
        (orderDone l o .cancelled none)) := by
  have effect : (Taking.holding l).cancelOrder c o = (Taking.holding l).leave c o .cancelled none none := by
    simp only [Taking.cancelOrder, waiting]
  unfold cancelTaking
  rw [effect]
  refine cancel_replies (Taking.leave_order? ..) ?_
  rw [(Taking.leave_held c o _ _ _ (Taking.holding l) rfl).2, orderDone_eq (by simp)]
  rfl

/-- One ABORTING gets the flag (R45). -/
theorem cancel_flags (found : l.order? o.tag = some o) (state : o.state = .aborting) :
    (cancelTaking c o l).finish c =
      ((l.updOrder o.tag fun x => { x with cancel := true }).place c (.taken o.tag .aborting)).syncCadences c := by
  have effect : (Taking.holding l).cancelOrder c o =
      (Taking.holding l).on (Live.updOrder o.tag fun x => { x with cancel := true }) := by
    simp only [Taking.cancelOrder, state]
  unfold cancelTaking
  rw [effect, Taking.finish_idle rfl rfl rfl rfl]
  refine congrArg _ (cancel_aborting (q := { o with cancel := true }) rfl ?_ state)
  rw [Taking.on_live, Taking.holding_live, Live.updOrder_order?_self (f := fun x => { x with cancel := true }) fun _ => rfl,
    found]
  rfl

/-- A message of class 1 that is queued changes its link alone: no transmission that it may begin turns a mark (R176). -/
theorem Live.queue_first {j : SlotId} {m : HeadMsg} (first : m.cls = 1) (l : Live) :
    l.queue c j m = { l with heads := (l.queue c j m).heads } := by
  unfold Live.queue Live.beginHead
  split
  · next chosen =>
    have head : (l.updHead j fun k => { k with list := k.list ++ [m] }).heads[j].list = l.heads[j].list ++ [m] :=
      congrArg HeadLink.list (vmod_get_self _ _ _)
    rw [head] at chosen
    rw [Live.markSent_first (Live.chooseHead_first (List.mem_append_right _ List.mem_cons_self) first chosen)]
    rfl
  · rfl

/-- A CANCEL of an order in flight and not yet aborted flags it and aborts it (R45). -/
theorem Taking.cancelOrder_flying (flying : o.state = .issued ∨ o.state = .running ∨ o.state = .travelling) (t : Taking) :
    t.cancelOrder c o =
      (t.on (Live.updOrder o.tag fun x => { x with cancel := true })).abort c { o with cancel := true } .cancel := by
  unfold Taking.cancelOrder
  split
  case h_1 state => simp [state] at flying
  case h_2 state => simp [state] at flying
  case h_3 => rfl

/-- One whose message is sent is aborted (R45, R46). -/
theorem cancel_aborts (found : l.order? o.tag = some o) (flying : o.state = .issued ∨ o.state = .running ∨ o.state = .travelling)
    (sent : o.unsent = false) :
    (cancelTaking c o l).finish c =
      ((((((l.updOrder o.tag fun x => { x with cancel := true }).updOrder o.tag fun x =>
              { x with state := .aborting, cause := some .cancel
                       step := some (if o.state = .travelling then .travel else .operation) }).queue c o.slot
            (.abort o.tag)).startStage o.slot .abort (c.acted Timing.acceptLimit)).place c
            (.taken o.tag .aborting)).syncCadences c) := by
  have effect : (Taking.holding l).cancelOrder c o =
      (Taking.holding l).on fun l =>
        (((l.updOrder o.tag fun x => { x with cancel := true }).updOrder o.tag fun x =>
              { x with state := .aborting, cause := some .cancel
                       step := some (if o.state = .travelling then .travel else .operation) }).queue c o.slot
            (.abort o.tag)).startStage o.slot .abort (c.acted Timing.acceptLimit) := by
    rw [Taking.cancelOrder_flying flying, Taking.abort, 
      if_neg (Bool.eq_false_iff.1 (show Order.unsent { o with cancel := true } = false from sent))]
    rfl
  unfold cancelTaking
  rw [effect, Taking.finish_idle rfl rfl rfl rfl]
  refine congrArg _ (cancel_aborting (q := { o with
    cancel := true, state := .aborting, cause := some .cancel
    step := some (if o.state = .travelling then .travel else .operation) }) rfl ?_ rfl)
  rw [Taking.on_live, Taking.holding_live, Live.queue_first rfl]
  refine (Live.order?_congr rfl).trans (Live.updOrder_order?_self (f := fun x =>
    { x with state := .aborting, cause := some .cancel
             step := some (if o.state = .travelling then .travel else .operation) }) (fun _ => rfl)) |>.trans ?_
  rw [Live.updOrder_order?_self (f := fun x => { x with cancel := true }) fun _ => rfl, found]
  rfl

/-- A settled order that is flagged leaves CANCELLED, its ORDER DONE held for the reply. -/
theorem Taking.settleOrder_held (flag : o.cancel = true) (holds : t.holdDones = true) :
    (t.settleOrder c o).live.order? o.tag = none ∧ (t.settleOrder c o).gateDue = true
      ∧ (t.settleOrder c o).live.cell = t.live.cell
      ∧ (t.settleOrder c o).held = t.held ++ [orderDone (t.settleOrder c o).live o .cancelled none] := by
  have settles : t.settleOrder c o = t.leave c o .cancelled none none := by rw [Taking.settleOrder, if_pos flag]
  rw [settles]
  obtain ⟨cell, held⟩ := Taking.leave_held c o .cancelled none none t holds
  refine ⟨Taking.leave_order? .., rfl, cell, held.trans ?_⟩
  rw [orderDone_eq (by simp)]
  unfold orderDone Live.hole?
  rw [Taking.leave_holes]

/-- A flagged order whose message is unsent has it taken back and leaves CANCELLED, its ORDER DONE after the TAKEN (R45,
R47). -/
theorem Taking.abort_cancelled (flag : o.cancel = true) (unsent : o.unsent = true) (holds : t.holdDones = true)
    (held : t.held = []) :
    let u := ((t.abort c o .cancel).on fun l => l.place c (.taken o.tag (l.takenState o.tag))).flush c
    TakenBack c t.live o u.live ∧ u.live.order? o.tag = none ∧ u.gateDue = true ∧ u.live.notices = t.live.notices
      ∧ u.live.cell.bodies = t.live.cell.bodies ++ [.taken o.tag .left, orderDone u.live o .cancelled none] := by
  have back := Taking.abort_takenBack (c := c) (t := t) (cause := .cancel) unsent
  have notices := Taking.abort_notices (c := c) (t := t) (o := o) (cause := .cancel)
  rw [Taking.abort_unsent unsent] at back notices ⊢
  obtain ⟨gone, due, cell, after⟩ := Taking.settleOrder_held (c := c) (t := (t.undoUnsent c o).workEnds o.slot) flag
    (by simp [holds])
  rw [Taking.workEnds_held, Taking.undoUnsent_held, held, List.nil_append] at after
  rw [Taking.workEnds_cell, Taking.undoUnsent_cell] at cell
  dsimp only
  rw [cancel_replies gone after]
  refine ⟨takenBack_congr rfl rfl back, gone, due, notices, ?_⟩
  rw [Live.place_bodies, Live.place_bodies, cell, List.append_assoc]
  rfl

/-- One whose message is unsent has it taken back and leaves CANCELLED at once (R45, R47). -/
theorem cancel_takesBack (flying : o.state = .issued ∨ o.state = .running ∨ o.state = .travelling) (unsent : o.unsent = true) :
    let u := cancelTaking c o l
    TakenBack c l { o with cancel := true } u.live ∧ u.live.order? o.tag = none ∧ u.gateDue = true
      ∧ u.live.notices = l.notices
      ∧ u.live.cell.bodies =
          l.cell.bodies ++ [.taken o.tag .left, orderDone u.live { o with cancel := true } .cancelled none] := by
  dsimp only
  unfold cancelTaking
  rw [Taking.cancelOrder_flying flying]
  obtain ⟨back, rest⟩ := Taking.abort_cancelled (c := c) (o := { o with cancel := true })
    (t := (Taking.holding l).on (Live.updOrder o.tag fun x => { x with cancel := true })) rfl unsent rfl rfl
  exact ⟨takenBack_congr rfl rfl back, rest⟩

/-- A weighed CANCEL of a tag that is no order's (R45). -/
theorem cancel_unknown (w : Weighed s) (plain : Plain h 4) (unlocked : s.setup.lockout = false)
    (unknown : h.tag = 0 ∨ s.live.order? h.tag = none) :
    exec (.cancel h) s = .next (replied s (.refused h.tag .unknownTag)) := by
  rw [show exec (.cancel h) s = execCancel h s from rfl, execCancel, w.taken plain.holds.1 plain.holds.2 fun _ => unlocked]
  split
  · rfl
  · next tag => rw [show (closed s).live.order? h.tag = none from unknown.resolve_left tag]; rfl

/-- What a CANCEL of a WAITING order leaves at the end of its taking (R45, R61). -/
theorem cancel_waiting_ends (waiting : o.state = .waiting) :
    let u := (cancelTaking c o l).finish c
    u.order? o.tag = none ∧ u.request? o.tag = none ∧ u.notices = l.notices
      ∧ ∃ after, u.cell.bodies = l.cell.bodies ++ [.taken o.tag .left, orderDone l o .cancelled none] ++ after := by
  dsimp only
  have live := cancel_waiting (c := c) (l := l) waiting
  have examined := Taking.finish_examined c (cancelTaking c o l)
  have gone : (cancelTaking c o l).live.order? o.tag = none := by
    rw [live]
    exact Taking.leave_order? c o .cancelled none none (Taking.holding l)
  have unclaimed : (cancelTaking c o l).live.Unclaimed o.tag := by
    rw [live, Live.unclaimed_iff]
    exact Taking.leave_request? c o .cancelled none none (Taking.holding l)
  have bodies : (cancelTaking c o l).live.cell.bodies =
      l.cell.bodies ++ [.taken o.tag .left, orderDone l o .cancelled none] := by
    rw [live, Live.place_bodies, Live.place_bodies, (Taking.leave_held c o _ _ _ (Taking.holding l) rfl).1, List.append_assoc]
    rfl
  refine ⟨Taking.finish_order? gone, Live.unclaimed_iff.1 (unclaimed.finish gone), ?_, ?_⟩
  · rw [examined.notices, live, Live.place_notices, Live.place_notices, Taking.leave_notices]
    rfl
  · obtain ⟨after, grown⟩ := examined.bodies
    exact ⟨after, by rw [← grown, bodies]⟩

/-- Settles O27: CANCEL by the state its order is in, and the taking back of an unsent message whatever aborts its order. -/
theorem cancel : Obligations.Cancel := by
  refine ⟨fun h s w plain => ⟨fun locked => ?_, cancel_unknown w plain, fun o unlocked tag found => ?_⟩,
    fun c t o cause unsent placed found => ⟨Taking.abort_takenBack unsent, Taking.abort_goesBack unsent placed found,
      Taking.abort_notices, Taking.abort_gateDue unsent⟩⟩
  · rw [show exec (.cancel h) s = execCancel h s from rfl, execCancel, w.locked plain.holds.1 plain.holds.2 locked]
    rfl
  · have taken := cancel_taken w plain unlocked tag found
    have own : o.tag = h.tag := Live.order?_tag found
    have found' : (closed s).live.order? o.tag = some o := by rw [own]; exact found
    rw [taken, ← own]
    refine ⟨fun waiting => ?_, fun aborting => ?_, fun flying sent => ?_, fun flying unsent => ?_⟩
    · obtain ⟨gone, unclaimed, notices, after, bodies⟩ := cancel_waiting_ends (c := s.setup) (l := (closed s).live) waiting
      exact ⟨_, rfl, rfl, rfl, gone, unclaimed, notices, _, after, bodies, rfl⟩
    · exact congrArg (fun l => Host.Outcome.next { s with live := l }) (cancel_flags found' aborting)
    · exact congrArg (fun l => Host.Outcome.next { s with live := l }) (cancel_aborts found' flying sent)
    · obtain ⟨back, gone, due, notices, bodies⟩ :=
        cancel_takesBack (c := s.setup) (l := (closed s).live) flying unsent
      exact ⟨_, rfl, takenBack_congr rfl rfl back, gone, due, notices, bodies⟩

end CancelOrders

end Sys2Proof.Machine
end

section
/-! PROOFS. The ABORTED reports (O31). -/

namespace Sys2Proof.Machine

open Sys2Proof.Safety

/-! ### What the frame of a report leaves of the links -/

section Framed

variable {s : State} {slot : SlotId} {hs : Nat}

/-- The frame of a report changes of its link neither what it has to send nor its transmission. -/
theorem framed_own : (framed s slot hs).heads[slot].list = s.live.heads[slot].list
    ∧ (framed s slot hs).heads[slot].sending = s.live.heads[slot].sending := by
  have heard : (s.live.heard slot).heads[slot].list = s.live.heads[slot].list
      ∧ (s.live.heard slot).heads[slot].sending = s.live.heads[slot].sending := by
    simp only [Live.heard, Live.updHead_heads, vmod_get_self]
    split <;> exact ⟨rfl, rfl⟩
  unfold framed Live.headFrame
  dsimp only
  split <;> simpa only [Live.headError_heads, Live.updHead_heads, vmod_get_self] using heard

theorem framed_other {j : SlotId} (other : j ≠ slot) : (framed s slot hs).heads[j] = s.live.heads[j] := by
  unfold framed Live.headFrame Live.heard
  dsimp only
  split <;> simp only [Live.headError_heads, Live.updHead_heads, vmod_get_ne _ _ other]

/-- The frame of a report changes nothing that a hole's return reads. -/
theorem framed_hole? (n : Nat) : (framed s slot hs).hole? n = s.live.hole? n := by
  rw [framed_eq]
  rfl

theorem framed_holeClamped (c : Setup) (n : Nat) : (framed s slot hs).holeClamped c n = s.live.holeClamped c n := by
  rw [framed_eq]
  rfl

@[simp] theorem framed_pool : (framed s slot hs).pool = s.live.pool := by simp [framed]

@[simp] theorem framed_units : (framed s slot hs).unitsInUse = s.live.unitsInUse := by simp [framed]

@[simp] theorem framed_lanes : (framed s slot hs).lanes = s.live.lanes := by simp [framed]

@[simp] theorem framed_zones : (framed s slot hs).zones = s.live.zones := by simp [framed]

@[simp] theorem framed_slots : (framed s slot hs).slots = s.live.slots := by simp [framed]

@[simp] theorem framed_notices : (framed s slot hs).notices = s.live.notices := by simp [framed]

@[simp] theorem framed_bodies : (framed s slot hs).cell.bodies = s.live.cell.bodies := by simp [framed]

/-- Work that ends on the slot whose report was framed, where nothing between has changed a slot or a link (R134, R175). -/
theorem workEnds_over {t : Taking} (heads : t.live.heads = (framed s slot hs).heads) (slots : t.live.slots = s.live.slots) :
    WorkOver s.live slot (t.workEnds slot).live := by
  rw [Taking.workEnds_live]
  unfold WorkOver
  simp only [Live.unqueue_heads, Live.updSlot_heads, Live.unqueue_slots, Live.updSlot_slots, heads, slots, vmod_get_self,
    framed_own]
  refine ⟨trivial, trivial, trivial, fun j other => ?_⟩
  simp only [vmod_get_ne _ _ other, framed_other other, and_self]

theorem workOver_congr {l u u' : Live} (heads : u'.heads = u.heads) (slots : u'.slots = u.slots) (h : WorkOver l slot u) :
    WorkOver l slot u' := by
  unfold WorkOver
  rw [heads, slots]
  exact h

end Framed

/-! ### ABORTED (R48, R49) -/

section Aborted

variable {s : State} {slot : SlotId} {hs tag : Nat} {o : Order} {c : Setup} {t : Taking}

theorem Order.abortingOperation_iff : o.abortingOperation = true ↔ o.state = .aborting ∧ o.step = some .operation := by
  simp [Order.abortingOperation]

theorem framed_orderOf? : (framed s slot hs).orderOf? slot tag = s.live.orderOf? slot tag := by
  rw [framed_eq]
  rfl

/-- ABORTED NONE of an order of the slot. -/
theorem abortedNone_of (r : Reports s slot) (named : tag ≠ 0) (found : s.live.orderOf? slot tag = some o) :
    exec (.abortedNone slot hs tag) s = .next
      (if o.abortingOperation = true then
        settled s ((((Taking.start (framed s slot hs)).undoOperation s.setup o).workEnds slot).settleOrder s.setup o)
      else setAside s slot hs) := by
  rw [show exec (.abortedNone slot hs tag) s = execAbortedNone slot hs tag s from rfl, execAbortedNone, r.taken, if_neg named]
  dsimp only
  rw [framed_orderOf?, found]
  dsimp only
  split <;> rfl

/-- ABORTED PARTIAL of an order of the slot. -/
theorem abortedPartial_of (r : Reports s slot) (named : tag ≠ 0) (found : s.live.orderOf? slot tag = some o) :
    exec (.abortedPartial slot hs tag) s = .next
      (if o.abortingOperation = true then settled s ((Taking.start (framed s slot hs)).endPartial s.setup o)
      else setAside s slot hs) := by
  rw [show exec (.abortedPartial slot hs tag) s = execAbortedPartial slot hs tag s from rfl, execAbortedPartial, r.taken,
    if_neg named]
  dsimp only
  rw [framed_orderOf?, found]
  dsimp only
  split <;> rfl

/-- The live state in which a touched operation ends, before its units return. -/
def Live.partEnded (o : Order) (l : Live) : Live :=
  (((({ l with holes := l.holesEdited o (Hole.partial_ o) } : Live).dropRivetOf o).endHeat o).endUnclamp o)

theorem Live.partEnded_units (o : Order) (l : Live) : (l.partEnded o).unitsInUse = l.unitsInUse := by
  simp [Live.partEnded]

theorem Live.partEnded_holes (o : Order) (l : Live) : (l.partEnded o).holes = l.holesEdited o (Hole.partial_ o) := by
  simp [Live.partEnded]

theorem Live.partEnded_lane (o : Order) (i : LaneId) (l : Live) :
    (l.partEnded o).lanes[i] = { l.lanes[i] with
      stock := if rivetIn o i = true then stockWithout o.tag l.lanes[i].stock else l.lanes[i].stock
      heat := if o.kind = .heat ∧ o.target = .lane i then l.lanes[i].heatOff o.slot else l.lanes[i].heat } := by
  unfold Live.partEnded
  simp only [Live.endUnclamp_lanes]
  rw [Live.endHeat_lane, Live.dropRivetOf_lane]
  rfl

theorem Live.partEnded_zone (o : Order) (z : ZoneId) (l : Live) :
    (l.partEnded o).zones[z] =
      if o.kind = .unclamp ∧ o.target = .zone z then { l.zones[z] with expected := false } else l.zones[z] := by
  unfold Live.partEnded
  rw [Live.endUnclamp_zone]
  simp

/-- The units return and the work of the slot ends before the order leaves (R49). -/
theorem Taking.endPartial_eq (c : Setup) (o : Order) (t : Taking) :
    t.endPartial c o =
      (((t.on (Live.partEnded o)).returnUnits o).workEnds o.slot).leave c o .aborted (o.cause.map AbortCause.asPartial) none := by
  have edits : (fun l : Live => ((((match o.hole? with
      | some h => l.updHole h (Hole.partial_ o)
      | none => l).dropRivetOf o).endHeat o).endUnclamp o : Live)) = Live.partEnded o := by
    funext l
    exact congrArg (fun l : Live => ((l.dropRivetOf o).endHeat o).endUnclamp o) (Live.editHole_eq o (Hole.partial_ o) l)
  exact congrArg (fun g : Live → Live => (((t.on g).returnUnits o).workEnds o.slot).leave c o .aborted
    (o.cause.map AbortCause.asPartial) none) edits

theorem AbortCause.asPartial_eq (k : AbortCause) :
    k.asPartial = if k = .cancel then .cancelLate else k.asDone := by cases k <;> rfl

/-- What the end of an untouched operation leaves, the report's frame having been taken (R48, R17, R74, R85, R94, R106). -/
theorem abortedNone_works (mine : o.slot = slot) :
    let u := ((((Taking.start (framed s slot hs)).undoOperation s.setup o).workEnds slot).settleOrder s.setup o).live
    (∀ hole x b, o.hole? = some hole → s.live.hole? hole = some x → o.before = some b →
        u.hole? hole = some (Hole.returned (some b) (s.live.holeClamped s.setup hole) x))
      ∧ u.unitsInUse = s.live.unitsInUse - o.units.getD 0
      ∧ (∀ i : LaneId, o.kind = .heat → o.target = .lane i → u.lanes[i].heat = s.live.lanes[i].heatOff slot)
      ∧ (∀ z : ZoneId, o.kind = .unclamp → o.target = .zone z → u.zones[z].expected = false)
      ∧ (∀ i : LaneId, u.lanes[i].stock =
          if rivetIn o i = true then
            if s.setup.tables.lanes[i].slot.any (fun j => !s.live.slots[j].state.joined) = true then
              stockWithout o.tag s.live.lanes[i].stock
            else stockFreed o.tag s.live.lanes[i].stock
          else s.live.lanes[i].stock)
      ∧ WorkOver s.live slot u := by
  dsimp only
  have works := Taking.settleOrder_works (c := s.setup) (o := o)
    (t := ((Taking.start (framed s slot hs)).undoOperation s.setup o).workEnds slot)
  simp only [Live.works, Live.Works.mk.injEq, Taking.workEnds_holes, Taking.workEnds_unitsInUse, Taking.workEnds_lanes,
    Taking.workEnds_zones] at works
  obtain ⟨heads, slots, holes, units, lanes, zones, -⟩ := works
  simp only [units, lanes, zones, Live.hole?_congr holes, Taking.undoOperation_units, Taking.undoOperation_lane,
    Taking.undoOperation_zone, Taking.start_live, framed_units, framed_lanes, framed_zones, framed_slots, mine]
  refine ⟨fun hole x b aim entry before => ?_, trivial, fun i kind target => if_pos ⟨kind, target⟩, fun z kind target => ?_,
    fun _ => trivial,
    workOver_congr heads slots (workEnds_over Taking.undoOperation_heads (Taking.undoOperation_slots.trans framed_slots))⟩
  · rw [Taking.undoOperation_hole? aim ((framed_hole? hole).trans entry), Taking.start_live, framed_holeClamped, before]
  · rw [if_pos ⟨kind, target⟩]

/-- What the end of a touched operation leaves, the report's frame having been taken (R49, R18, R74, R85, R94, R106). -/
theorem abortedPartial_works (mine : o.slot = slot) :
    let u := ((Taking.start (framed s slot hs)).endPartial s.setup o).live
    (∀ hole x, o.hole? = some hole → s.live.hole? hole = some x → u.hole? hole = some (Hole.partial_ o x))
      ∧ u.unitsInUse = s.live.unitsInUse - o.units.getD 0
      ∧ (∀ i : LaneId, o.kind = .heat → o.target = .lane i → u.lanes[i].heat = s.live.lanes[i].heatOff slot)
      ∧ (∀ z : ZoneId, o.kind = .unclamp → o.target = .zone z → u.zones[z].expected = false)
      ∧ (∀ i : LaneId, u.lanes[i].stock =
          if rivetIn o i = true then stockWithout o.tag s.live.lanes[i].stock else s.live.lanes[i].stock)
      ∧ WorkOver s.live slot u := by
  dsimp only
  have heads : (((Taking.start (framed s slot hs)).on (Live.partEnded o)).returnUnits o).live.heads =
      (framed s slot hs).heads := by simp [Taking.returnUnits_live, Live.partEnded]
  have slots : (((Taking.start (framed s slot hs)).on (Live.partEnded o)).returnUnits o).live.slots = s.live.slots := by
    simp [Taking.returnUnits_live, Live.partEnded]
  rw [Taking.endPartial_eq, mine]
  simp only [Live.hole?_congr (Taking.leave_holes ..), Taking.leave_unitsInUse, Taking.leave_lanes, Taking.leave_zones,
    Live.hole?_congr (Taking.workEnds_holes ..), Taking.workEnds_unitsInUse, Taking.workEnds_lanes, Taking.workEnds_zones,
    Taking.returnUnits_live, Taking.on_live, Taking.start_live, Live.partEnded_lane, Live.partEnded_zone,
    Live.partEnded_units, framed_units, framed_lanes, framed_zones, mine]
  refine ⟨fun hole x aim entry => ?_, trivial, fun i kind target => if_pos ⟨kind, target⟩, fun z kind target => ?_,
    fun _ => trivial, workOver_congr (Taking.leave_heads ..) (Taking.leave_slots ..) (workEnds_over heads slots)⟩
  · refine (Live.holesEdited_hole? (n := hole) (Live.partEnded_holes o (framed s slot hs))).trans ?_
    rw [if_pos aim, framed_hole?, entry]
    rfl
  · rw [if_pos ⟨kind, target⟩]

/-- The order of an untouched operation goes by its flag and its slot (R48). -/
theorem abortedNone_goesBack (inPool : o ∈ s.live.pool) (unique : (s.live.pool.map Order.tag).Nodup) :
    GoesBack s.live o
      ((((Taking.start (framed s slot hs)).undoOperation s.setup o).workEnds slot).settleOrder s.setup o).live := by
  refine Taking.settleOrder_goesBack ?_ ?_ ?_
  · simp
  · rw [Live.order?_congr (Taking.workEnds_pool.trans (Taking.undoOperation_pool.trans framed_pool))]
    exact Live.order?_of_mem unique inPool
  · rw [Taking.workEnds_leaving, Taking.undoOperation_slots, Taking.start_live, framed_slots]

/-- The order of a touched operation leaves ABORTED (R49). -/
theorem abortedPartial_tells :
    let u := ((Taking.start (framed s slot hs)).endPartial s.setup o).live
    u.order? o.tag = none ∧ ∃ d, Says u (.orderDone d) ∧ d.tag = o.tag ∧ d.kind = o.kind ∧ d.slot = o.slot
      ∧ d.outcome = .aborted ∧ d.cause = o.cause.map (fun k => if k = .cancel then DoneCause.cancelLate else k.asDone)
      ∧ d.cancel = o.cancel ∧ d.holeInfo = (o.hole?.bind u.hole?).map fun x => (x.state, x.cls) := by
  dsimp only
  rw [Taking.endPartial_eq]
  obtain ⟨d, said, tag, kind, onSlot, -, outcome, cause, rest⟩ := Taking.leave_reports (c := s.setup) (o := o)
    (t := (((Taking.start (framed s slot hs)).on (Live.partEnded o)).returnUnits o).workEnds o.slot) (by simp) .aborted
    (o.cause.map AbortCause.asPartial) none
  exact ⟨Taking.leave_order? .., d, said, tag, kind, onSlot, outcome,
    cause.trans (congrArg (o.cause.map ·) (funext AbortCause.asPartial_eq)), rest⟩

/-- Settles O31: either report by what it does to the order, and by what it leaves of the order's work. -/
theorem abortedReports : Obligations.AbortedReports := by
  refine ⟨fun slot hs tag o s r named found not_ => ?_, fun slot hs tag o s r named found unique state step => ?_,
    fun slot hs tag o s r named found state step => ?_⟩
  · have stands : ¬ o.abortingOperation = true := fun h => not_ (Order.abortingOperation_iff.1 h)
    exact ⟨by rw [abortedNone_of r named found, if_neg stands], by rw [abortedPartial_of r named found, if_neg stands]⟩
  · obtain ⟨inPool, rfl, mine⟩ := Live.orderOf?_spec found
    obtain ⟨hole, units, heat, zone, stock, stopped⟩ := abortedNone_works (s := s) (hs := hs) mine
    obtain ⟨cancelled, withdrawn, waits⟩ := abortedNone_goesBack (slot := slot) (hs := hs) inPool unique
    refine ⟨_, by rw [abortedNone_of r named found, if_pos (Order.abortingOperation_iff.2 ⟨state, step⟩)],
      hole, units, heat, zone, stock, stopped, fun flag => ?_, fun flag leaving => ?_, fun flag stays => ?_⟩
    · obtain ⟨gone, d, said, tag, -, -, outcome, cause, -⟩ := cancelled flag
      exact ⟨gone, d, said, tag, outcome, cause⟩
    · obtain ⟨gone, d, said, tag, -, -, outcome, cause, -⟩ := withdrawn flag (mine ▸ leaving)
      exact ⟨gone, d, said, tag, outcome, cause⟩
    · exact waits flag (mine ▸ stays)
  · obtain ⟨-, rfl, mine⟩ := Live.orderOf?_spec found
    obtain ⟨hole, units, heat, zone, stock, stopped⟩ := abortedPartial_works (s := s) (hs := hs) mine
    obtain ⟨gone, d, said, tag, kind, onSlot, outcome, cause, cancel, info⟩ :=
      abortedPartial_tells (s := s) (slot := slot) (hs := hs) (o := o)
    refine ⟨_, d, by rw [abortedPartial_of r named found, if_pos (Order.abortingOperation_iff.2 ⟨state, step⟩)],
      said, tag, kind, onSlot.trans mine, outcome, cause, cancel, fun n x aim entry => ⟨hole n x aim entry, ?_⟩,
      units, heat, zone, stock, gone, stopped⟩
    rw [info, aim, Option.bind_some, hole n x aim entry]
    rfl

end Aborted

end Sys2Proof.Machine
end

section
/-! PROOFS. The DONE reports (O30). -/

namespace Sys2Proof.Machine

open Sys2Proof.Safety

/-! ### The steps of a completion (R41) -/

section Steps

variable {c : Setup} {o : Order} {l : Live} {t : Taking} {heat : Option Nat} {code value : Nat} {s : SlotId}

/-- The hole of a completed order, as its report spoils or gauges it (R15, R16). -/
def Order.completedHole (o : Order) (spoiled : Bool) (code value : Nat) (x : Hole) : Hole :=
  if o.kind = .set then Hole.riveted (o.rivet.map AssignedRivet.serial) spoiled code value x
  else Hole.drilled o.slot spoiled code value x

/-- A code that names no result, where the second case of R15 and R16 records it. -/
def Order.badCode (o : Order) (spoiled : Bool) (code : Nat) : Bool :=
  !spoiled && (if o.kind = .set then (Force.ofCode code).isNone else (Gauge.ofCode code).isNone)

theorem Order.badCode_iff {spoiled : Bool} : o.badCode spoiled code = true ↔
    spoiled = false ∧ code ≠ 1 ∧ code ≠ 2 ∧ code ≠ 3 := by
  have force : (Force.ofCode code).isNone = true ↔ code ≠ 1 ∧ code ≠ 2 ∧ code ≠ 3 := by
    unfold Force.ofCode
    split <;> simp_all
  have gauge : (Gauge.ofCode code).isNone = true ↔ code ≠ 1 ∧ code ≠ 2 ∧ code ≠ 3 := by
    unfold Gauge.ofCode
    split <;> simp_all
  unfold Order.badCode
  rw [Bool.and_eq_true]
  split
  · rw [force]; simp
  · rw [gauge]; simp

/-- The completion of an order's hole (R41 step 1): its entry, and PROTOCOL for a bad code. -/
theorem Live.completeHole_some {hole : Nat} (aim : o.hole? = some hole) (c : Setup) (l : Live) :
    let spoiled := o.spoiled (l.holeClamped c hole)
    let edited := l.updHole hole (o.completedHole spoiled code value)
    l.completeHole c o code value = if o.badCode spoiled code = true then edited.headError o.slot .protocol else edited := by
  dsimp only
  unfold Live.completeHole Order.completedHole Order.badCode
  rw [aim]
  dsimp only
  by_cases set : o.kind = .set
  · simp only [if_pos set]
  · simp only [if_neg set]

theorem Live.completeHole_none (aim : o.hole? = none) : l.completeHole c o code value = l := by
  unfold Live.completeHole
  rw [aim]

/-- What a DONE counts (R137): the record of the tool of a DRILL or REAM, and whether it is spent by it. -/
def Live.toolCounted (o : Order) (l : Live) : Live × Bool :=
  if o.kind = .drill ∨ o.kind = .ream then l.countTool o.slot o.tag else (l, false)

/-- The tool of a DRILL or REAM reaches its limit by this DONE (R137). -/
def Order.spends (o : Order) (l : Live) : Prop :=
  (o.kind = .drill ∨ o.kind = .ream)
    ∧ ∃ x, l.slots[o.slot].tool = some x ∧ x.spent = false ∧ x.limit ≤ min (x.count + 1) 65535

/-- The count spends a tool that was not spent (R137). -/
theorem Tool.counted_spent_iff (x : Tool) :
    (x.counted.spent && !x.spent) = true ↔ x.spent = false ∧ x.limit ≤ min (x.count + 1) 65535 := by
  unfold Tool.counted
  cases x.spent <;> simp

theorem Live.toolCounted_spends : (l.toolCounted o).2 = true ↔ o.spends l := by
  unfold Live.toolCounted Order.spends
  by_cases drills : o.kind = .drill ∨ o.kind = .ream
  · rw [if_pos drills]
    unfold Live.countTool
    cases tool : l.slots[o.slot].tool with
    | none => simp
    | some x =>
      dsimp only
      split
      case isTrue spent => exact ⟨fun _ => ⟨drills, x, rfl, x.counted_spent_iff.1 spent⟩, fun _ => rfl⟩
      case isFalse unspent =>
        refine ⟨nofun, ?_⟩
        rintro ⟨-, y, same, spends⟩
        obtain rfl := Option.some.inj same
        exact absurd (x.counted_spent_iff.2 spends) unspent
  · rw [if_neg drills]
    exact ⟨nofun, fun h => absurd h.1 drills⟩

theorem vmod_congr {α : Type} {n : Nat} (v : Vector α n) (i : Fin n) {f g : α → α} (h : f v[i] = g v[i]) :
    vmod v i f = vmod v i g := by
  apply vector_ext
  intro j
  rw [vmod_get, vmod_get]
  split
  · exact h
  · rfl

/-- The slot's record after a count (R137). -/
def Slot.toolCounted (o : Order) (x : Slot) : Slot :=
  if o.kind = .drill ∨ o.kind = .ream then { x with tool := x.tool.map Tool.counted } else x

/-- The count changes the slot's record and the notices alone. -/
theorem Live.toolCounted_eq : (l.toolCounted o).1 = { l with
    slots := vmod l.slots o.slot (Slot.toolCounted o)
    notices := if (l.toolCounted o).2 = true then (l.postSlot o.slot .toolSpent (.tag o.tag)).notices else l.notices } := by
  unfold Live.toolCounted Slot.toolCounted
  by_cases drills : o.kind = .drill ∨ o.kind = .ream
  · simp only [if_pos drills]
    unfold Live.countTool
    cases tool : l.slots[o.slot].tool with
    | none => rw [vmod_id _ _ _ (by rw [tool, Option.map_none, ← tool])]; rfl
    | some x =>
      have slots : vmod l.slots o.slot (fun z => { z with tool := some x.counted }) =
          vmod l.slots o.slot fun z => { z with tool := z.tool.map Tool.counted } :=
        vmod_congr _ _ (by rw [tool]; rfl)
      dsimp only
      split
      · rw [← slots]; rfl
      · rw [← slots]; rfl
  · simp only [if_neg drills]
    rw [vmod_id _ _ _ rfl]
    rfl

/-- The rivet of a completed HEAT joins its lane (R83). -/
def Taking.rivetJoined (c : Setup) (o : Order) (heat : Option Nat) (t : Taking) : Taking :=
  match o.kind, o.target, heat with
  | .heat, .lane i, some n => t.joinRivet c o.slot i n
  | _, _, _ => t

/-- DISCARD is of class 1: its transmission turns no mark. -/
theorem Live.queueDiscard_eq (c : Setup) (s : SlotId) (n : Nat) (l : Live) :
    l.queueDiscard c s n = { l with heads := (l.queueDiscard c s n).heads } := by
  unfold Live.queueDiscard
  split
  · rfl
  · exact Live.queue_first rfl l

/-- A rivet's joining changes the lane, and where it is discarded the slot's link and notice. -/
theorem Taking.rivetJoined_eq (c : Setup) (o : Order) (heat : Option Nat) (t : Taking) :
    (t.rivetJoined c o heat).live = { t.live with
      lanes := (t.rivetJoined c o heat).live.lanes, notices := (t.rivetJoined c o heat).live.notices
      heads := (t.rivetJoined c o heat).live.heads } := by
  unfold Taking.rivetJoined
  split
  · unfold Taking.joinRivet
    split
    · rfl
    · dsimp only
      split
      · rw [Taking.on_live, Live.queueDiscard_eq]; rfl
      · rfl
  · rfl

@[simp] theorem Taking.rivetJoined_holdDones (c : Setup) (o : Order) (heat : Option Nat) (t : Taking) :
    (t.rivetJoined c o heat).holdDones = t.holdDones := by
  unfold Taking.rivetJoined
  split
  · unfold Taking.joinRivet
    split
    · rfl
    · dsimp only
      split <;> rfl
  · rfl

theorem Live.queueDiscard_lines (n : Nat) (l : Live) : Live.LinesKept (· ≠ s) l (l.queueDiscard c s n) := by
  unfold Live.queueDiscard
  split
  · exact .refl _ _
  · exact .queue (by simp)

/-- Of the links a rivet's joining changes at most what its own slot's has to send. -/
theorem Taking.rivetJoined_lines (c : Setup) (o : Order) (heat : Option Nat) (t : Taking) :
    Live.LinesKept (· ≠ o.slot) t.live (t.rivetJoined c o heat).live := by
  unfold Taking.rivetJoined
  split
  · unfold Taking.joinRivet
    split
    · exact .refl _ _
    · dsimp only
      split
      · have lines := Live.queueDiscard_lines (c := c) (s := o.slot)
        exact ⟨fun j => (lines _ _).line j, fun j other => (lines _ _).other j other⟩
      · exact .of_heads rfl
  · exact .refl _ _

/-- The rivet of a heat that an order started is not discarded (R83). -/
theorem Taking.rivetJoined_heads
    (own : ∀ i g, o.target = .lane i → t.live.lanes[i].heatOn o.slot = some g → g.origin = .order) :
    (t.rivetJoined c o heat).live.heads = t.live.heads := by
  unfold Taking.rivetJoined
  split
  case h_1 _ i n _ target =>
    unfold Taking.joinRivet
    split
    · rfl
    · next g on_ =>
      dsimp only
      rw [if_neg (by simp [own i g target on_])]
      rfl
  case h_2 => rfl

theorem Taking.rivetJoined_other (kind : o.kind ≠ .heat) : t.rivetJoined c o heat = t := by
  unfold Taking.rivetJoined
  split
  · next is _ => exact absurd is kind
  · rfl

theorem Taking.joinRivet_lanes (c : Setup) (s : SlotId) (i : LaneId) (n : Nat) (t : Taking) :
    ∃ f, (t.joinRivet c s i n).live.lanes = vmod t.live.lanes i f := by
  unfold Taking.joinRivet
  split
  · exact ⟨id, (vmod_id _ _ _ rfl).symm⟩
  · dsimp only
    split
    · rw [Taking.on_live, Live.queueDiscard_eq]
      exact ⟨fun x => { x with heat := x.heatOff s, late := false }, rfl⟩
    · rw [Taking.wakeGate_live, Taking.on_live, Taking.on_live, Live.updLane_lanes, Live.updLane_lanes, vmod_vmod]
      exact ⟨_, rfl⟩

theorem Taking.rivetJoined_lane_other {i : LaneId} (other : ¬ (o.kind = .heat ∧ o.target = .lane i)) :
    (t.rivetJoined c o heat).live.lanes[i] = t.live.lanes[i] := by
  unfold Taking.rivetJoined
  split
  case h_1 _ j n kind target =>
    obtain ⟨f, lanes⟩ := Taking.joinRivet_lanes c o.slot j n t
    simp only [lanes]
    exact vmod_get_ne _ _ fun e => other ⟨kind, e ▸ target⟩
  case h_2 => rfl

/-- A completed HEAT's rivet joins its lane, the heat record closes and LATE clears (R83). -/
theorem Taking.rivetJoined_lane {i : LaneId} {n : Nat} {g : Heat} (kind : o.kind = .heat) (target : o.target = .lane i)
    (on_ : t.live.lanes[i].heatOn o.slot = some g) (joins : g.origin = .order ∨ c.tables.lanes[i].slot = some o.slot) :
    (t.rivetJoined c o (some n)).live.lanes[i] = { t.live.lanes[i] with
      heat := t.live.lanes[i].heatOff o.slot, late := false
      stock := t.live.lanes[i].stock ++
        [{ serial := n, cls := g.cls, heatEnd := c.now, window := c.acted Timing.heatWindow, tag := none }] } := by
  have stays : ¬ (g.origin = .lane ∧ c.tables.lanes[i].slot ≠ some o.slot) := by
    rintro ⟨lane, elsewhere⟩
    exact joins.elim (by rw [lane]; exact nofun) elsewhere
  have lanes : (t.rivetJoined c o (some n)).live.lanes =
      vmod (vmod t.live.lanes i fun x => { x with heat := x.heatOff o.slot, late := false }) i fun x =>
        { x with stock := x.stock ++
            [{ serial := n, cls := g.cls, heatEnd := c.now, window := c.acted Timing.heatWindow, tag := none }] } := by
    unfold Taking.rivetJoined
    rw [kind, target]
    dsimp only
    unfold Taking.joinRivet
    rw [on_]
    dsimp only
    rw [if_neg stays]
    rfl
  simp only [lanes]
  rw [vmod_get_self, vmod_get_self]

/-! ### The work of a completed order -/

/-- The work of a completed order, before the order leaves (R41 steps 1 to 6). -/
def Taking.worked (c : Setup) (o : Order) (code value : Nat) (heat : Option Nat) (t : Taking) : Taking :=
  let t := (t.on fun l => (l.completeHole c o code value).dropRivetOf o).returnUnits o
  (({ t with live := (t.live.toolCounted o).1 } : Taking).rivetJoined c o heat).on (Live.endUnclamp o)

/-- The order of a completion leaves, a tool spent by it withdraws the orders behind it, and the slot's work ends (R41, R137). -/
theorem Taking.complete_eq (c : Setup) (o : Order) (code value : Nat) (heat : Option Nat) (t : Taking) :
    t.complete c o code value heat =
      (let done := (t.worked c o code value heat).leave c o .completed
        (if o.state = .aborting then o.cause.map AbortCause.asDone else none) heat
      (if (t.live.toolCounted o).2 = true then
        done.withdrawWaiting c o.slot (fun x => x.kind == .drill || x.kind == .ream) .toolSpent
      else done).workEnds o.slot) := by
  have same : ((((t.on fun l => (l.completeHole c o code value).dropRivetOf o).returnUnits o).live.toolCounted o).2 = true) =
      ((t.live.toolCounted o).2 = true) := by
    rw [Live.toolCounted_spends, Live.toolCounted_spends]
    unfold Order.spends
    simp [Taking.returnUnits_live]
  unfold Taking.complete
  dsimp only
  simp only [← same]
  rfl

/-- The live state of a completed order's work, before its rivet joins and its zone's flag clears. -/
def Live.tallied (c : Setup) (o : Order) (code value : Nat) (l : Live) : Live :=
  { (l.completeHole c o code value).dropRivetOf o with
    unitsInUse := l.unitsInUse - o.units.getD 0
    slots := vmod l.slots o.slot (Slot.toolCounted o)
    notices := if (l.toolCounted o).2 = true then (l.postSlot o.slot .toolSpent (.tag o.tag)).notices else l.notices }

theorem Live.tallied_lane (i : LaneId) : (l.tallied c o code value).lanes[i] = { l.lanes[i] with
    stock := if rivetIn o i = true then stockWithout o.tag l.lanes[i].stock else l.lanes[i].stock } := by
  unfold Live.tallied
  dsimp only
  rw [Live.dropRivetOf_lane]
  simp only [Live.completeHole_lanes]

theorem Live.toolCounted_congr {l' : Live} (slots : l'.slots = l.slots) : (l'.toolCounted o).2 = (l.toolCounted o).2 := by
  rw [Bool.eq_iff_iff, Live.toolCounted_spends, Live.toolCounted_spends]
  unfold Order.spends
  rw [slots]

theorem Taking.worked_live (c : Setup) (o : Order) (code value : Nat) (heat : Option Nat) (t : Taking) :
    ∃ v : Taking, v.live = t.live.tallied c o code value ∧ v.holdDones = t.holdDones
      ∧ t.worked c o code value heat = (v.rivetJoined c o heat).on (Live.endUnclamp o) := by
  refine ⟨_, ?_, ?_, rfl⟩
  · dsimp only
    rw [Live.toolCounted_eq, Live.toolCounted_congr (l := t.live) (by simp [Taking.returnUnits_live])]
    simp [Taking.returnUnits_live, Live.tallied]
  · simp

section Worked

variable {w : Taking} {hole : Nat} {x : Hole}

theorem Taking.worked_holes : (t.worked c o code value heat).live.holes = (t.live.completeHole c o code value).holes := by
  obtain ⟨v, live, -, eq⟩ := t.worked_live c o code value heat
  rw [eq, Taking.on_live, Live.endUnclamp_holes, Taking.rivetJoined_eq, live]
  simp [Live.tallied]

theorem Taking.worked_units : (t.worked c o code value heat).live.unitsInUse = t.live.unitsInUse - o.units.getD 0 := by
  obtain ⟨v, live, -, eq⟩ := t.worked_live c o code value heat
  rw [eq, Taking.on_live, Live.endUnclamp_unitsInUse, Taking.rivetJoined_eq, live]
  simp [Live.tallied]

theorem Taking.worked_slots :
    (t.worked c o code value heat).live.slots = vmod t.live.slots o.slot (Slot.toolCounted o) := by
  obtain ⟨v, live, -, eq⟩ := t.worked_live c o code value heat
  rw [eq, Taking.on_live, Live.endUnclamp_slots, Taking.rivetJoined_eq, live]
  simp [Live.tallied]

theorem Taking.worked_pool : (t.worked c o code value heat).live.pool = t.live.pool := by
  obtain ⟨v, live, -, eq⟩ := t.worked_live c o code value heat
  rw [eq, Taking.on_live, Live.endUnclamp_pool, Taking.rivetJoined_eq, live]
  simp [Live.tallied]

theorem Taking.worked_cell : (t.worked c o code value heat).live.cell = t.live.cell := by
  obtain ⟨v, live, -, eq⟩ := t.worked_live c o code value heat
  rw [eq, Taking.on_live, Live.endUnclamp_cell, Taking.rivetJoined_eq, live]
  simp [Live.tallied]

@[simp] theorem Taking.worked_holdDones : (t.worked c o code value heat).holdDones = t.holdDones := by
  obtain ⟨v, -, holds, eq⟩ := t.worked_live c o code value heat
  rw [eq, Taking.on_holdDones, Taking.rivetJoined_holdDones, holds]

theorem Taking.worked_zone (z : ZoneId) : (t.worked c o code value heat).live.zones[z] =
    if o.kind = .unclamp ∧ o.target = .zone z then { t.live.zones[z] with expected := false } else t.live.zones[z] := by
  obtain ⟨v, live, -, eq⟩ := t.worked_live c o code value heat
  have zones : (v.rivetJoined c o heat).live.zones = t.live.zones := by
    rw [Taking.rivetJoined_eq, live]
    simp [Live.tallied]
  rw [eq, Taking.on_live, Live.endUnclamp_zone]
  simp only [zones]

theorem Taking.worked_lines : Live.LinesKept (· ≠ o.slot) (t.live.completeHole c o code value)
    (t.worked c o code value heat).live := by
  obtain ⟨v, live, -, eq⟩ := t.worked_live c o code value heat
  have lines := v.rivetJoined_lines c o heat
  rw [live] at lines
  rw [eq, Taking.on_live]
  refine .trans (b := t.live.tallied c o code value) (.of_heads ?_) (lines.trans (.of_heads ?_)) <;> simp [Live.tallied]

theorem Taking.worked_heads
    (own : ∀ i g, o.target = .lane i → t.live.lanes[i].heatOn o.slot = some g → g.origin = .order) :
    (t.worked c o code value heat).live.heads = (t.live.completeHole c o code value).heads := by
  obtain ⟨v, live, -, eq⟩ := t.worked_live c o code value heat
  rw [eq, Taking.on_live, Live.endUnclamp_heads, Taking.rivetJoined_heads, live]
  · simp [Live.tallied]
  · intro i g target on_
    rw [live, Live.tallied_lane] at on_
    exact own i g target on_

theorem Taking.worked_notices (kind : o.kind ≠ .heat) : (t.worked c o code value heat).live.notices =
    if (t.live.toolCounted o).2 = true then (t.live.postSlot o.slot .toolSpent (.tag o.tag)).notices
    else t.live.notices := by
  obtain ⟨v, live, -, eq⟩ := t.worked_live c o code value heat
  rw [eq, Taking.on_live, Live.endUnclamp_notices, Taking.rivetJoined_other kind, live]
  rfl

theorem Taking.worked_lane_other {i : LaneId} (other : ¬ (o.kind = .heat ∧ o.target = .lane i)) :
    (t.worked c o code value heat).live.lanes[i] = { t.live.lanes[i] with
      stock := if rivetIn o i = true then stockWithout o.tag t.live.lanes[i].stock else t.live.lanes[i].stock } := by
  obtain ⟨v, live, -, eq⟩ := t.worked_live c o code value heat
  rw [eq, Taking.on_live]
  simp only [Live.endUnclamp_lanes]
  rw [Taking.rivetJoined_lane_other other, live, Live.tallied_lane]

theorem Taking.worked_lane {i : LaneId} {n : Nat} {g : Heat} (kind : o.kind = .heat) (target : o.target = .lane i)
    (on_ : t.live.lanes[i].heatOn o.slot = some g) (joins : g.origin = .order ∨ c.tables.lanes[i].slot = some o.slot) :
    (t.worked c o code value (some n)).live.lanes[i] = { t.live.lanes[i] with
      heat := t.live.lanes[i].heatOff o.slot, late := false
      stock := (if rivetIn o i = true then stockWithout o.tag t.live.lanes[i].stock else t.live.lanes[i].stock) ++
        [{ serial := n, cls := g.cls, heatEnd := c.now, window := c.acted Timing.heatWindow, tag := none }] } := by
  obtain ⟨v, live, -, eq⟩ := t.worked_live c o code value (some n)
  have lane := Live.tallied_lane (l := t.live) (c := c) (o := o) (code := code) (value := value) i
  have same : v.live.lanes[i].heatOn o.slot = some g := by
    rw [live, lane]
    exact on_
  rw [eq, Taking.on_live]
  simp only [Live.endUnclamp_lanes]
  rw [Taking.rivetJoined_lane kind target same joins, live, lane]
  rfl

end Worked

/-! ### A completed order (R41) -/

section Completed

/-- The cause of a completed order's ORDER DONE (R50). -/
def Order.doneCause (o : Order) : Option DoneCause :=
  if o.state = .aborting then o.cause.map AbortCause.asDone else none

/-- The orders behind a completed one withdrawn, where it has spent the tool (R137). -/
def Taking.cutOff (c : Setup) (o : Order) (spent : Bool) (t : Taking) : Taking :=
  if spent = true then t.withdrawWaiting c o.slot (fun x => x.kind == .drill || x.kind == .ream) .toolSpent else t

/-- The taking of a completed order before its slot's work ends. -/
def Taking.completed (c : Setup) (o : Order) (code value : Nat) (heat : Option Nat) (t : Taking) : Taking :=
  ((t.worked c o code value heat).leave c o .completed o.doneCause heat).cutOff c o (t.live.toolCounted o).2

theorem Taking.complete_completed (c : Setup) (o : Order) (code value : Nat) (heat : Option Nat) (t : Taking) :
    t.complete c o code value heat = (t.completed c o code value heat).workEnds o.slot := Taking.complete_eq ..

/-- What no order's leaving changes. -/
theorem Taking.completed_keeps {α : Type} (g : Live → α)
    (leaves : ∀ (o : Order) (x : OrderOutcome) (y : Option DoneCause) (n : Option Nat) (t : Taking),
      g (t.leave c o x y n).live = g t.live) :
    g (t.completed c o code value heat).live = g (t.worked c o code value heat).live := by
  unfold Taking.completed Taking.cutOff Taking.withdrawWaiting
  split
  · rw [Taking.withdrawAll_keeps g _ _ fun o t => leaves o _ _ _ t, leaves]
  · rw [leaves]

theorem Taking.completed_holes : (t.completed c o code value heat).live.holes = (t.live.completeHole c o code value).holes :=
  (Taking.completed_keeps Live.holes (Taking.leave_holes c)).trans Taking.worked_holes

theorem Taking.completed_heads :
    (t.completed c o code value heat).live.heads = (t.worked c o code value heat).live.heads :=
  Taking.completed_keeps Live.heads (Taking.leave_heads c)

theorem Taking.completed_slots :
    (t.completed c o code value heat).live.slots = vmod t.live.slots o.slot (Slot.toolCounted o) :=
  (Taking.completed_keeps Live.slots (Taking.leave_slots c)).trans Taking.worked_slots

/-- The messages for the cell: the ORDER DONE, then those of the orders cut off. -/
theorem Taking.completed_bodies (placed : t.holdDones = false) :
    ∃ cut, (t.completed c o code value heat).live.cell.bodies = t.live.cell.bodies
        ++ [.orderDone (orderDoneOf (t.worked c o code value heat).live o .completed o.doneCause heat)] ++ cut
      ∧ ((t.live.toolCounted o).2 = true → ∀ x ∈ t.live.pool, x.slot = o.slot → x.state = .waiting →
          x.kind = .drill ∨ x.kind = .ream → x.tag ≠ o.tag →
          ∃ e, CellBody.orderDone e ∈ cut ∧ e.tag = x.tag ∧ e.outcome = .withdrawn ∧ e.cause = some .toolSpent) := by
  have left := Taking.leave_bodies c o .completed o.doneCause heat (t.worked c o code value heat) (by simp [placed])
  rw [Taking.worked_cell] at left
  unfold Taking.completed Taking.cutOff
  split
  · unfold Taking.withdrawWaiting
    rw [Taking.withdrawAll_bodies _ _ _ _ (by simp [placed]), left]
    refine ⟨_, rfl, fun _ x m onSlot waiting kind other => ⟨_, List.mem_map.2 ⟨x, ?_, rfl⟩, ?_⟩⟩
    · rw [Taking.leave_pool, Taking.worked_pool]
      simp [m, onSlot, waiting, kind, other]
    · obtain ⟨tag, -, -, -, outcome, cause, -⟩ := orderDoneOf_fields
        ((t.worked c o code value heat).leave c o .completed o.doneCause heat).live x .withdrawn (some .toolSpent) none
      exact ⟨tag, outcome, cause⟩
  · next unspent => exact ⟨[], by rw [left, List.append_nil], fun spent => absurd spent unspent⟩

/-- The order and its claim are gone, and where it spent the tool those behind it (R41, R137). -/
theorem Taking.completed_gone :
    (t.completed c o code value heat).live.order? o.tag = none
      ∧ ((t.live.toolCounted o).2 = true → ∀ x ∈ t.live.pool, x.slot = o.slot → x.state = .waiting →
          x.kind = .drill ∨ x.kind = .ream → x.tag ≠ o.tag →
          (t.completed c o code value heat).live.order? x.tag = none
            ∧ (t.completed c o code value heat).live.request? x.tag = none) := by
  have left := Taking.leave_order? c o .completed o.doneCause heat (t.worked c o code value heat)
  unfold Taking.completed Taking.cutOff
  split
  · unfold Taking.withdrawWaiting
    refine ⟨?_, fun _ x m onSlot waiting kind other => ?_⟩
    · rw [Live.order?_eq_none] at left ⊢
      rw [Taking.withdrawAll_pool]
      exact fun q m => left q (List.mem_filter.1 m).1
    · have cut : x ∈ ((t.worked c o code value heat).leave c o .completed o.doneCause heat).live.pool.filter fun q =>
          q.slot == o.slot && q.state == .waiting && (q.kind == .drill || q.kind == .ream) := by
        rw [Taking.leave_pool, Taking.worked_pool]
        simp [m, onSlot, waiting, kind, other]
      exact ⟨Taking.withdrawAll_order? _ _ _ _ cut, Taking.withdrawAll_request? _ _ _ _ cut⟩
  · next unspent => exact ⟨left, fun spent => absurd spent unspent⟩

theorem Taking.completed_gateDue : (t.completed c o code value heat).gateDue = true := by
  have withdraws (os : List Order) (k : DoneCause) (t : Taking) (due : t.gateDue = true) :
      (os.foldl (fun t o => t.withdraw c o k) t).gateDue = true := by
    induction os generalizing t with
    | nil => exact due
    | cons o os ih => exact ih _ rfl
  unfold Taking.completed Taking.cutOff Taking.withdrawWaiting
  split
  · exact withdraws _ _ _ rfl
  · rfl

/-- What spoils a completed hole, spelled out (R15, R16). -/
theorem Order.spoiled_eq (o : Order) (clamped : Bool) : o.spoiled clamped =
    ((o.state == .aborting && o.cause == some .clampLost)
      || (o.kind == .set && o.state == .aborting && o.cause == some .rivetCold) || !clamped
      || (o.kind == .set && o.rivet.any fun r => r.whereabouts == .cold)) := by
  unfold Order.spoiled
  cases o.state == .aborting <;> cases o.kind == .set <;> simp

/-- The completed hole's entry. -/
theorem Taking.completed_hole? {hole : Nat} {x : Hole} (aim : o.hole? = some hole) (entry : t.live.hole? hole = some x)
    {l : Live} (holes : l.holes = (t.live.completeHole c o code value).holes) :
    l.hole? hole = some (o.completedHole (o.spoiled (t.live.holeClamped c hole)) code value x) := by
  have edited : (t.live.completeHole c o code value).holes =
      (t.live.updHole hole (o.completedHole (o.spoiled (t.live.holeClamped c hole)) code value)).holes := by
    rw [Live.completeHole_some aim]
    split
    · rfl
    · rfl
  rw [Live.hole?_congr (holes.trans edited), Live.updHole_hole?, if_pos rfl, entry, Option.map_some]

theorem Taking.completed_hole?_other {hole : Nat} (other : o.hole? ≠ some hole) {l : Live}
    (holes : l.holes = (t.live.completeHole c o code value).holes) : l.hole? hole = t.live.hole? hole := by
  cases aim : o.hole? with
  | none =>
    rw [Live.completeHole_none aim] at holes
    exact Live.hole?_congr holes
  | some k =>
    have edited : l.holes = (t.live.updHole k (o.completedHole (o.spoiled (t.live.holeClamped c k)) code value)).holes := by
      rw [holes, Live.completeHole_some aim]
      split
      · rfl
      · rfl
    rw [Live.hole?_congr edited, Live.updHole_hole?, if_neg fun e : hole = k => other (by rw [e]; exact aim)]

/-- The link status after a completion: PROTOCOL for a bad code, in the second case of R15 and R16. -/
theorem Live.completeHole_status {hole : Nat} (aim : o.hole? = some hole) :
    (l.completeHole c o code value).heads[o.slot].status =
      if o.spoiled (l.holeClamped c hole) = false ∧ code ≠ 1 ∧ code ≠ 2 ∧ code ≠ 3 then
        l.heads[o.slot].status.record .protocol
      else l.heads[o.slot].status := by
  rw [Live.completeHole_some aim]
  by_cases bad : o.badCode (o.spoiled (l.holeClamped c hole)) code = true
  · rw [if_pos bad, if_pos (Order.badCode_iff.1 bad)]
    simp only [Live.headError_heads, Live.updHole_heads]
    rw [vmod_get_self]
  · rw [if_neg bad, if_neg fun h => bad (Order.badCode_iff.2 h)]
    simp only [Live.updHole_heads]

theorem Live.completeHole_heads (j : SlotId) :
    (l.completeHole c o code value).heads[j].list = l.heads[j].list
      ∧ (l.completeHole c o code value).heads[j].sending = l.heads[j].sending
      ∧ (j ≠ o.slot → (l.completeHole c o code value).heads[j] = l.heads[j]) := by
  cases aim : o.hole? with
  | none => rw [Live.completeHole_none aim]; exact ⟨rfl, rfl, fun _ => rfl⟩
  | some hole =>
    rw [Live.completeHole_some aim]
    split
    · simp only [Live.headError_heads, Live.updHole_heads]
      refine ⟨?_, ?_, fun other => vmod_get_ne _ _ other⟩ <;>
      · rw [vmod_get]
        split
        case isTrue own => rw [own]
        case isFalse => rfl
    · simp only [Live.updHole_heads]
      exact ⟨trivial, trivial, fun _ => trivial⟩

end Completed

end Steps

end Sys2Proof.Machine
end

section
/-! PROOFS. The DONE reports, clause by clause (O30). -/

namespace Sys2Proof.Machine

open Sys2Proof.Safety

section Done

variable {s : State} {slot : SlotId} {hs tag code value : Nat} {o : Order} {heat : Option Nat} {b : DoneBody}

/-- A DONE of an order that is not under its operation, or of a length that does not fit its kind. -/
theorem done_unfit (r : Reports s slot) (named : tag ≠ 0) (found : s.live.orderOf? slot tag = some o)
    (unfit : o.operating = false ∨ doneResult o.kind b = none) :
    exec (.done slot hs tag b) s = .next (setAside s slot hs) := by
  rw [show exec (.done slot hs tag b) s = execDone slot hs tag b s from rfl, execDone, r.taken, if_neg named]
  dsimp only
  rw [framed_orderOf?, found]
  dsimp only
  cases result : doneResult o.kind b with
  | none => rfl
  | some found =>
    dsimp only
    rw [if_neg (Bool.eq_false_iff.1 (unfit.resolve_right (by rw [result]; exact nofun)))]
    rfl

/-- A DONE of an order under its operation. -/
theorem done_fits (r : Reports s slot) (named : tag ≠ 0) (found : s.live.orderOf? slot tag = some o)
    (operating : o.operating = true) (result : doneResult o.kind b = some (code, value, heat)) :
    exec (.done slot hs tag b) s = .next
      (settled s ((Taking.start (framed s slot hs)).complete s.setup o code value heat)) := by
  rw [show exec (.done slot hs tag b) s = execDone slot hs tag b s from rfl, execDone, r.taken, if_neg named]
  dsimp only
  rw [framed_orderOf?, found]
  dsimp only
  rw [result]
  dsimp only
  rw [if_pos operating]
  rfl

/-- The live state in which a completion ends. -/
def doneLive (s : State) (slot : SlotId) (hs : Nat) (o : Order) (code value : Nat) (heat : Option Nat) : Live :=
  ((Taking.start (framed s slot hs)).complete s.setup o code value heat).live

/-- The taking of a completion before its slot's work ends. -/
def doneTaking (s : State) (slot : SlotId) (hs : Nat) (o : Order) (code value : Nat) (heat : Option Nat) : Taking :=
  (Taking.start (framed s slot hs)).completed s.setup o code value heat

/-- The ORDER DONE of a completion. -/
def doneMessage (s : State) (slot : SlotId) (hs : Nat) (o : Order) (code value : Nat) (heat : Option Nat) : OrderDone :=
  orderDoneOf ((Taking.start (framed s slot hs)).worked s.setup o code value heat).live o .completed o.doneCause heat

theorem doneLive_eq : doneLive s slot hs o code value heat = ((doneTaking s slot hs o code value heat).workEnds o.slot).live :=
  congrArg Taking.live (Taking.complete_completed ..)

theorem doneLive_holes : (doneLive s slot hs o code value heat).holes =
    ((framed s slot hs).completeHole s.setup o code value).holes := by
  rw [doneLive_eq, Taking.workEnds_holes]
  exact Taking.completed_holes

/-- The messages for the cell: the ORDER DONE added, and after it those of the orders cut off. -/
theorem done_says :
    Says (doneLive s slot hs o code value heat) (.orderDone (doneMessage s slot hs o code value heat))
      ∧ (∀ m ∈ s.live.cell.bodies, Says (doneLive s slot hs o code value heat) m)
      ∧ (o.spends s.live → ∀ x ∈ s.live.pool, x.slot = o.slot → x.state = .waiting →
          x.kind = .drill ∨ x.kind = .ream → x.tag ≠ o.tag →
          ∃ e, Says (doneLive s slot hs o code value heat) (.orderDone e) ∧ e.tag = x.tag ∧ e.outcome = .withdrawn
            ∧ e.cause = some .toolSpent) := by
  obtain ⟨cut, bodies, behind⟩ := Taking.completed_bodies (t := Taking.start (framed s slot hs)) (c := s.setup) (o := o)
    (code := code) (value := value) (heat := heat) rfl
  rw [Taking.start_live, framed_bodies] at bodies
  unfold Says
  rw [doneLive_eq, Taking.workEnds_cell, doneTaking, bodies]
  refine ⟨by simp [doneMessage], fun m old => by simp [old], fun spends x m onSlot waiting kind other => ?_⟩
  have spent : ((framed s slot hs).toolCounted o).2 = true := by
    rw [Live.toolCounted_congr framed_slots]
    exact Live.toolCounted_spends.2 spends
  obtain ⟨e, inCut, rest⟩ := behind spent x (by simpa using m) onSlot waiting kind other
  exact ⟨e, by simp [inCut], rest⟩

/-- The orders that are gone: the completed one, and those that the spent tool cuts off. -/
theorem done_gone :
    (doneLive s slot hs o code value heat).order? o.tag = none
      ∧ (o.spends s.live → ∀ x ∈ s.live.pool, x.slot = o.slot → x.state = .waiting →
          x.kind = .drill ∨ x.kind = .ream → x.tag ≠ o.tag →
          (doneLive s slot hs o code value heat).order? x.tag = none
            ∧ (doneLive s slot hs o code value heat).request? x.tag = none) := by
  obtain ⟨own, behind⟩ := Taking.completed_gone (t := Taking.start (framed s slot hs)) (c := s.setup) (o := o)
    (code := code) (value := value) (heat := heat)
  have pool : ∀ tag, (doneLive s slot hs o code value heat).order? tag =
      (doneTaking s slot hs o code value heat).live.order? tag := by
    intro tag
    rw [doneLive_eq, Live.order?_congr Taking.workEnds_pool]
  have requests : ∀ tag, (doneLive s slot hs o code value heat).request? tag =
      (doneTaking s slot hs o code value heat).live.request? tag := by
    intro tag
    rw [doneLive_eq, Taking.workEnds_live]
    rfl
  refine ⟨(pool _).trans own, fun spends x m onSlot waiting kind other => ?_⟩
  have spent : ((framed s slot hs).toolCounted o).2 = true := by
    rw [Live.toolCounted_congr framed_slots]
    exact Live.toolCounted_spends.2 spends
  rw [pool, requests]
  exact behind spent x (by simpa using m) onSlot waiting kind other

/-- The completed hole, and what of it the ORDER DONE carries (R15, R16, R44). -/
theorem done_hole {hole : Nat} {x : Hole} (aim : o.hole? = some hole) (entry : s.live.hole? hole = some x) :
    let y := o.completedHole (o.spoiled (s.live.holeClamped s.setup hole)) code value x
    let d := doneMessage s slot hs o code value heat
    (doneLive s slot hs o code value heat).hole? hole = some y ∧ d.holeInfo = some (y.state, y.cls)
      ∧ (o.kind = .drill ∨ o.kind = .ream → d.gauge = y.gauge ∧ d.measure = y.diameter)
      ∧ (o.kind = .set → d.force = y.force ∧ d.measure = y.peak ∧ d.serial = y.rivetSerial) := by
  dsimp only
  have entry' : (framed s slot hs).hole? hole = some x := (framed_hole? hole).trans entry
  have left := Taking.completed_hole? (t := Taking.start (framed s slot hs)) aim entry'
    (doneLive_holes (code := code) (value := value) (heat := heat))
  have worked := Taking.completed_hole? (t := Taking.start (framed s slot hs)) (c := s.setup) (code := code) (value := value)
    aim entry' (Taking.worked_holes (heat := heat))
  rw [Taking.start_live, framed_holeClamped] at left worked
  obtain ⟨-, -, -, -, -, -, -, info⟩ := orderDoneOf_fields
    ((Taking.start (framed s slot hs)).worked s.setup o code value heat).live o .completed o.doneCause heat
  rw [aim, Option.bind_some, worked] at info
  refine ⟨left, info, ?_, ?_⟩ <;> unfold doneMessage orderDoneOf <;> rw [aim, Option.bind_some, worked]
  · rintro (kind | kind) <;> rw [kind] <;> exact ⟨rfl, rfl⟩
  · intro kind
    rw [kind]
    exact ⟨rfl, rfl, rfl⟩

/-- A field of the links, the slots or the works that no order's leaving and no end of work changes. -/
theorem doneLive_keeps {α : Type} (g : Live → α)
    (leaves : ∀ (o : Order) (x : OrderOutcome) (y : Option DoneCause) (n : Option Nat) (t : Taking),
      g (t.leave s.setup o x y n).live = g t.live)
    (ends : ∀ (i : SlotId) (t : Taking), g (t.workEnds i).live = g t.live) :
    g (doneLive s slot hs o code value heat) =
      g ((Taking.start (framed s slot hs)).worked s.setup o code value heat).live := by
  rw [doneLive_eq, ends]
  exact Taking.completed_keeps g leaves

theorem done_units : (doneLive s slot hs o code value heat).unitsInUse = s.live.unitsInUse - o.units.getD 0 :=
  (doneLive_keeps Live.unitsInUse (Taking.leave_unitsInUse _) Taking.workEnds_unitsInUse).trans
    (Taking.worked_units.trans (by rw [Taking.start_live, framed_units]))

/-- The zone of a completed UNCLAMP (R106). -/
theorem done_zone (z : ZoneId) : (doneLive s slot hs o code value heat).zones[z] =
    if o.kind = .unclamp ∧ o.target = .zone z then { s.live.zones[z] with expected := false } else s.live.zones[z] := by
  have zones := doneLive_keeps (s := s) (slot := slot) (hs := hs) (o := o) (code := code) (value := value) (heat := heat)
    Live.zones (Taking.leave_zones _) Taking.workEnds_zones
  simp only [zones]
  rw [Taking.worked_zone]
  simp only [Taking.start_live, framed_zones]

/-- The lanes of a completed order (R83, R94). -/
theorem done_lane (i : LaneId) :
    let kept := if rivetIn o i = true then stockWithout o.tag s.live.lanes[i].stock else s.live.lanes[i].stock
    let x := (doneLive s slot hs o code value heat).lanes[i]
    (¬ (o.kind = .heat ∧ o.target = .lane i) → x = { s.live.lanes[i] with stock := kept })
      ∧ ∀ g n, o.kind = .heat → o.target = .lane i → heat = some n → s.live.lanes[i].heatOn o.slot = some g →
          g.origin = .order ∨ s.setup.tables.lanes[i].slot = some o.slot →
          x = { s.live.lanes[i] with
            heat := s.live.lanes[i].heatOff o.slot, late := false
            stock := kept ++ [{ serial := n, cls := g.cls, heatEnd := s.setup.now
                                window := s.setup.acted Timing.heatWindow, tag := none }] } := by
  have lanes := doneLive_keeps (s := s) (slot := slot) (hs := hs) (o := o) (code := code) (value := value) (heat := heat)
    Live.lanes (Taking.leave_lanes _) Taking.workEnds_lanes
  simp only [lanes]
  refine ⟨fun other => ?_, fun g n kind target serial on_ joins => ?_⟩
  · rw [Taking.worked_lane_other other]
    simp only [Taking.start_live, framed_lanes]
  · have same : (Taking.start (framed s slot hs)).live.lanes[i].heatOn o.slot = some g := by
      simp only [Taking.start_live, framed_lanes]
      exact on_
    subst serial
    rw [Taking.worked_lane kind target same joins]
    simp only [Taking.start_live, framed_lanes]

/-- The notices of a completion that is no HEAT's (R137). -/
theorem done_notices (kind : o.kind ≠ .heat) :
    (o.spends s.live → (doneLive s slot hs o code value heat).notices =
        (s.live.postSlot o.slot .toolSpent (.tag o.tag)).notices)
      ∧ (¬ o.spends s.live → (doneLive s slot hs o code value heat).notices = s.live.notices) := by
  have notices : (doneLive s slot hs o code value heat).notices = _ :=
    (doneLive_keeps Live.notices (Taking.leave_notices _) Taking.workEnds_notices).trans (Taking.worked_notices kind)
  have spent : ((framed s slot hs).toolCounted o).2 = true ↔ o.spends s.live := by
    rw [Live.toolCounted_congr framed_slots, Live.toolCounted_spends]
  rw [notices, Taking.start_live]
  refine ⟨fun spends => ?_, fun unspent => ?_⟩
  · rw [if_pos (spent.2 spends), Live.postSlot_notices, Live.postSlot_notices, framed_notices]
  · rw [if_neg fun h => unspent (spent.1 h), framed_notices]

/-- The slot of a completion: work and timer ended, READY from BUSY, its tool counted (R41, R134, R137). -/
theorem done_slot : (doneLive s slot hs o code value heat).slots[o.slot] = { (s.live.slots[o.slot].toolCounted o) with
    work := .idle, timer := none
    state := if s.live.slots[o.slot].state = .busy then .ready else s.live.slots[o.slot].state } := by
  have state : (s.live.slots[o.slot].toolCounted o).state = s.live.slots[o.slot].state := by
    unfold Slot.toolCounted
    split <;> rfl
  have slots : (doneTaking s slot hs o code value heat).live.slots = vmod s.live.slots o.slot (Slot.toolCounted o) :=
    Taking.completed_slots.trans (by rw [Taking.start_live, framed_slots])
  rw [doneLive_eq, Taking.workEnds_live]
  simp only [Live.unqueue_slots, Live.updSlot_slots, slots]
  rw [vmod_get_self, vmod_get_self, state]

/-- The links of a completion: nothing of them changes but what the slot has to send, and PROTOCOL (R175, R15, R16). -/
theorem done_links (mine : o.slot = slot) :
    let u := doneLive s slot hs o code value heat
    let l := (framed s slot hs).completeHole s.setup o code value
    (∀ j : SlotId, u.heads[j].status = l.heads[j].status)
      ∧ (∀ m ∈ u.heads[slot].list, m.isAbort = false)
      ∧ ((∀ i g, o.target = .lane i → s.live.lanes[i].heatOn slot = some g → g.origin = .order) →
        u.heads[slot].list = s.live.heads[slot].list.filter (fun m => !m.isAbort)
        ∧ u.heads[slot].sending = s.live.heads[slot].sending) := by
  subst mine
  dsimp only
  let t := Taking.start (framed s o.slot hs)
  have heads : (doneLive s o.slot hs o code value heat).heads =
      vmod (t.worked s.setup o code value heat).live.heads o.slot fun k =>
        { k with list := k.list.filter fun m => !m.isAbort } := by
    rw [doneLive_eq, Taking.workEnds_live, Live.unqueue_heads, Live.updSlot_heads]
    exact congrArg (fun v => vmod v o.slot _) Taking.completed_heads
  have lines := Taking.worked_lines (t := t) (c := s.setup) (o := o) (code := code) (value := value) (heat := heat)
  simp only [heads]
  refine ⟨fun j => ?_, ?_, fun own => ?_⟩
  · have status := congrArg (fun x : Bool × Option Nat × Receiver × HeadStatus => x.2.2.2) (lines.line j)
    rw [vmod_get]
    split
    case isTrue e =>
      subst e
      exact status
    case isFalse => exact status
  · rw [vmod_get_self]
    intro m inList
    simpa using (List.mem_filter.1 inList).2
  · have same : (t.worked s.setup o code value heat).live.heads = (t.live.completeHole s.setup o code value).heads := by
      refine Taking.worked_heads fun i g target on_ => own i g target ?_
      simpa only [t, Taking.start_live, framed_lanes] using on_
    obtain ⟨list, sending, -⟩ := Live.completeHole_heads (l := t.live) (c := s.setup) (o := o) (code := code)
      (value := value) o.slot
    rw [vmod_get_self]
    simp only [same, list, sending]
    exact ⟨congrArg _ framed_own.1, framed_own.2⟩

/-- Settles O30: what a DONE sets aside, and a completion clause by clause. -/
theorem doneReports : Obligations.DoneReports := by
  refine ⟨fun slot hs tag b o s r named found unfit => done_unfit r named found unfit,
    fun slot hs tag b o code value heat s r named found operating result => ?_⟩
  obtain ⟨-, rfl, rfl⟩ := Live.orderOf?_spec found
  obtain ⟨said, kept, told⟩ := done_says (s := s) (slot := o.slot) (hs := hs) (o := o) (code := code) (value := value)
    (heat := heat)
  obtain ⟨gone, behind⟩ := done_gone (s := s) (slot := o.slot) (hs := hs) (o := o) (code := code) (value := value)
    (heat := heat)
  obtain ⟨status, unaborted, list⟩ := done_links (s := s) (hs := hs) (o := o) (code := code) (value := value) (heat := heat) rfl
  have fields := orderDoneOf_fields
    ((Taking.start (framed s o.slot hs)).worked s.setup o code value heat).live o .completed o.doneCause heat
  obtain ⟨tag, kind, onSlot, target, outcome, cause, cancel, -⟩ := fields
  have slot_ := done_slot (s := s) (slot := o.slot) (hs := hs) (o := o) (code := code) (value := value) (heat := heat)
  refine ⟨_, doneMessage s o.slot hs o code value heat, done_fits r named found operating result,
    Taking.complete_completed .. ▸ Taking.workEnds_gateDue_of Taking.completed_gateDue, said, kept,
    ⟨tag, kind, onSlot, target, outcome, cause, cancel, ?_⟩, gone, ?_, ?_, ?_, ?_, done_units, ?_, ?_, ?_, unaborted, list,
    done_zone, done_lane, ?_⟩
  · intro heats
    unfold doneMessage orderDoneOf
    rw [heats]
    rfl
  · intro hole x aim entry
    dsimp only
    obtain ⟨left, info, gauge, force⟩ := done_hole (slot := o.slot) (hs := hs) (code := code) (value := value) (heat := heat)
      aim entry
    rw [← Order.spoiled_eq]
    refine ⟨left, info, gauge, force, (status o.slot).trans ?_⟩
    rw [Live.completeHole_status aim, framed_holeClamped]
  · intro hole other
    exact (Taking.completed_hole?_other (t := Taking.start (framed s o.slot hs)) other doneLive_holes).trans (framed_hole? hole)
  · intro aim
    exact (status o.slot).trans (by rw [Live.completeHole_none aim])
  · intro j other
    obtain ⟨-, -, same⟩ := Live.completeHole_heads (l := framed s o.slot hs) (c := s.setup) (o := o) (code := code)
      (value := value) j
    exact (status j).trans (by rw [same other, framed_other other])
  · exact congrArg Slot.work slot_
  · exact congrArg Slot.timer slot_
  · exact congrArg Slot.state slot_
  · dsimp only
    have tool := congrArg Slot.tool slot_
    refine ⟨fun idle => tool.trans ?_, fun drills => tool.trans ?_, fun unspent cold => (done_notices cold).2 unspent,
      fun spends => ⟨(done_notices ?_).1 spends, fun x m onSlot waiting kind other => ?_⟩⟩
    · show (s.live.slots[o.slot].toolCounted o).tool = _
      rw [Slot.toolCounted, if_neg idle]
    · show (s.live.slots[o.slot].toolCounted o).tool = _
      rw [Slot.toolCounted, if_pos drills]
      rfl
    · obtain ⟨drills, -⟩ := spends
      rintro heats
      rw [heats] at drills
      exact drills.elim nofun nofun
    · obtain ⟨absent, unclaimed⟩ := behind spends x m onSlot waiting kind other
      exact ⟨absent, unclaimed, told spends x m onSlot waiting kind other⟩

end Done

end Sys2Proof.Machine
end

section
/-! PROOFS. Taking each order of a list in turn, and what an abort leaves of everything but its own order (R44, R46, R47). -/

namespace Sys2Proof.Machine

open Sys2Proof.Safety

/-! ### Each order of a list in turn -/

section Each

variable {f : Taking → Order → Taking} {t : Taking} {tags : List Nat}

/-- The pool orders of some tags taken one by one, each as it is found then. -/
def Taking.each (f : Taking → Order → Taking) (tags : List Nat) (t : Taking) : Taking :=
  tags.foldl (fun t tag =>
    match t.live.order? tag with
    | some o => f t o
    | none => t) t

/-- A step that lets no order into the pool and leaves what is fixed of an order as it is. -/
def Keeps (f : Taking → Order → Taking) : Prop :=
  ∀ t o, ((f t o).live.pool.map Order.fixed).Sublist (t.live.pool.map Order.fixed)

/-- A step that concerns the record of no other tag. -/
def OwnOnly (f : Taking → Order → Taking) : Prop :=
  ∀ t o tag, tag ≠ o.tag → (f t o).live.order? tag = t.live.order? tag

theorem Taking.each_cons (tag : Nat) (tags : List Nat) (t : Taking) :
    t.each f (tag :: tags) = ((t.each f [tag]).each f tags) := rfl

theorem Taking.each_append (a b : List Nat) (t : Taking) : t.each f (a ++ b) = (t.each f a).each f b := List.foldl_append

theorem Taking.each_one {tag : Nat} {o : Order} (found : t.live.order? tag = some o) : t.each f [tag] = f t o := by
  show (match t.live.order? tag with
    | some o => f t o
    | none => t) = f t o
  rw [found]

theorem Taking.each_absent {tag : Nat} (absent : t.live.order? tag = none) : t.each f [tag] = t := by
  show (match t.live.order? tag with
    | some o => f t o
    | none => t) = t
  rw [absent]

/-- A relation that every step keeps holds of the whole, where the steps meet orders of the pool that `p` holds of. -/
theorem Taking.each_rel (keeps : Keeps f) {r : Taking → Taking → Prop} (refl : ∀ t, r t t)
    (trans : ∀ a b c, r a b → r b c → r a c) {p : Nat × OrderKind × SlotId × Target → Prop}
    (step : ∀ t o, p o.fixed → r t (f t o)) (all : ∀ o ∈ t.live.pool, o.tag ∈ tags → p o.fixed) : r t (t.each f tags) := by
  induction tags generalizing t with
  | nil => exact refl t
  | cons tag tags ih =>
    rw [Taking.each_cons]
    have later (u : Taking) (sub : (u.live.pool.map Order.fixed).Sublist (t.live.pool.map Order.fixed)) :
        r u (u.each f tags) := by
      refine ih fun o m inTags => ?_
      obtain ⟨q, mq, same⟩ := List.mem_map.1 (sub.subset (List.mem_map_of_mem (f := Order.fixed) m))
      have tag : q.tag = o.tag := congrArg Prod.fst same
      exact same ▸ all q mq (List.mem_cons_of_mem _ (tag ▸ inTags))
    cases found : t.live.order? tag with
    | none =>
      rw [Taking.each_absent found]
      exact later t (List.Sublist.refl _)
    | some o =>
      rw [Taking.each_one found]
      refine trans _ _ _ (step t o (all o (Live.order?_mem found) ?_)) (later _ (keeps t o))
      rw [Live.order?_tag found]
      exact List.mem_cons_self

/-- The pool's fixed facts after the whole. -/
theorem Taking.each_keeps (keeps : Keeps f) :
    ((t.each f tags).live.pool.map Order.fixed).Sublist (t.live.pool.map Order.fixed) :=
  Taking.each_rel (r := fun t u => (u.live.pool.map Order.fixed).Sublist (t.live.pool.map Order.fixed)) keeps
    (fun _ => List.Sublist.refl _) (fun _ _ _ h k => k.trans h) (p := fun _ => True) (fun t o _ => keeps t o) fun _ _ _ => trivial

/-- The record of a tag that is not of the list stands. -/
theorem Taking.each_order?_other (keeps : Keeps f) (own : OwnOnly f) {tag : Nat} (other : tag ∉ tags) :
    (t.each f tags).live.order? tag = t.live.order? tag :=
  Taking.each_rel (r := fun t u => u.live.order? tag = t.live.order? tag) keeps (fun _ => rfl)
    (fun _ _ _ h k => k.trans h) (p := fun o => o.1 ≠ tag) (fun t o ne => own t o tag fun e => ne e.symm)
    fun _ _ inTags e => other (e ▸ inTags)

/-- The turn of one order of the list: what comes before it leaves its record, what comes after it meets other tags. -/
theorem Taking.each_turn (keeps : Keeps f) (own : OwnOnly f) (nodup : tags.Nodup) {o : Order} (m : o.tag ∈ tags)
    (found : t.live.order? o.tag = some o) :
    ∃ before after, o.tag ∉ before ∧ o.tag ∉ after ∧ (∀ x ∈ before, x ∈ tags) ∧ (∀ x ∈ after, x ∈ tags)
      ∧ (t.each f before).live.order? o.tag = some o
      ∧ t.each f tags = (f (t.each f before) o).each f after := by
  obtain ⟨before, after, rfl⟩ := List.append_of_mem m
  obtain ⟨-, nodup, apart⟩ := List.nodup_append.1 nodup
  have notBefore : o.tag ∉ before := fun h => apart _ h _ List.mem_cons_self rfl
  have turn : (t.each f before).live.order? o.tag = some o := (Taking.each_order?_other keeps own notBefore).trans found
  refine ⟨before, after, notBefore, (List.nodup_cons.1 nodup).1, fun x h => by simp [h], fun x h => by simp [h], turn, ?_⟩
  rw [Taking.each_append, Taking.each_cons, Taking.each_one turn]

end Each

/-! ### What an abort leaves alone -/

section Abort

variable {c : Setup} {t : Taking} {o : Order} {k : AbortCause}

/-- The record that an abort of a sent order leaves (R46). -/
def Order.abortedBy (k : AbortCause) (o : Order) (x : Order) : Order :=
  { x with state := .aborting, cause := some k, step := some o.stepNow }

/-- The abort of an order whose message is sent (R46): its record, its slot's stage and its link. -/
theorem Taking.abort_sent (sent : o.unsent = false) : (t.abort c o k).live =
    { t.live with
      pool := t.live.pool.map fun x => if x.tag = o.tag then o.abortedBy k x else x
      heads := (t.live.queue c o.slot (.abort o.tag)).heads
      slots := vmod t.live.slots o.slot fun x =>
        { x with timer := some { stage := .abort, left := c.acted Timing.acceptLimit } } } := by
  unfold Taking.abort
  rw [if_neg (Bool.eq_false_iff.1 sent), Taking.on_live]
  dsimp only
  rw [Live.queue_first rfl]
  have heads : ∀ g : Order → Order, ((t.live.updOrder o.tag g).queue c o.slot (.abort o.tag)).heads =
      (t.live.queue c o.slot (.abort o.tag)).heads := fun g => Live.queue_heads_congr rfl
  rw [heads]
  rfl

theorem Taking.abort_order?_other {tag : Nat} (other : tag ≠ o.tag) :
    (t.abort c o k).live.order? tag = t.live.order? tag := by
  cases sent : o.unsent with
  | false =>
    rw [Taking.abort_sent sent]
    exact (Live.updOrder_order? (f := o.abortedBy k) (fun _ => rfl) tag).trans (if_neg other)
  | true =>
    rw [Taking.abort_unsent sent, ← Taking.unsentEnd_order? c o t tag]
    unfold Taking.settleOrder Taking.withdraw
    split
    · exact Live.order?_filter (Taking.leave_pool ..) other
    · split
      · exact Live.order?_filter (Taking.leave_pool ..) other
      · exact (Live.updOrder_order? (f := Order.requeued) (fun _ => rfl) tag).trans (if_neg other)

theorem Taking.abort_slot_other {j : SlotId} (other : j ≠ o.slot) : (t.abort c o k).live.slots[j] = t.live.slots[j] := by
  cases sent : o.unsent with
  | false =>
    rw [Taking.abort_sent sent]
    exact vmod_get_ne _ _ other
  | true =>
    obtain ⟨-, -, -, others, -⟩ := Taking.abort_takenBack (c := c) (t := t) (cause := k) sent
    exact (others j other).1

theorem Taking.abort_head_other {j : SlotId} (other : j ≠ o.slot) : (t.abort c o k).live.heads[j] = t.live.heads[j] :=
  (Taking.abort_lines (p := (· ≠ o.slot)) (by simp)).other j other

@[simp] theorem Taking.abort_holdDones : (t.abort c o k).holdDones = t.holdDones := by
  unfold Taking.abort
  split
  · unfold Taking.settleOrder Taking.withdraw
    split
    · simp
    · split <;> simp
  · rfl

theorem Order.hole?_eq_some {n : Nat} : o.hole? = some n ↔ o.target = .hole n := by
  unfold Order.hole?
  split <;> simp_all

theorem Taking.abort_hole?_other {n : Nat} (other : o.hole? ≠ some n) :
    (t.abort c o k).live.hole? n = t.live.hole? n := by
  cases sent : o.unsent with
  | false =>
    rw [Taking.abort_sent sent]
    rfl
  | true =>
    have works := Taking.settleOrder_works (c := c) (o := o) (t := (t.undoUnsent c o).workEnds o.slot)
    rw [Taking.abort_unsent sent, Live.hole?_congr (congrArg Live.Works.holes works),
      Live.hole?_congr (Taking.workEnds_holes ..)]
    by_cases mark : o.travelMark = none
    · rw [Taking.undoUnsent_issue mark]
      exact (Live.holesEdited_hole? (n := n) (Live.undone_holes c o (t.live.unqueue o.slot fun m => m.cls == 3))).trans
        (if_neg other)
    · obtain ⟨holdings, travels, live, -⟩ :=
        (t.on (Live.unqueue o.slot fun m => m.cls == 3)).restoreTravel_live o.slot
      rw [Taking.undoUnsent_travel mark, live]
      rfl

theorem Taking.abort_zone_state (z : ZoneId) : (t.abort c o k).live.zones[z].state = t.live.zones[z].state :=
  (Taking.abort_examined c o k t).zones z

/-- The abort of an order with no zone for its target changes no zone. -/
theorem Taking.abort_zones {n : Nat} (aim : o.hole? = some n) (z : ZoneId) :
    (t.abort c o k).live.zones[z] = t.live.zones[z] := by
  cases sent : o.unsent with
  | false =>
    rw [Taking.abort_sent sent]
  | true =>
    have target : ∀ y, o.target ≠ .zone y := by
      intro y h
      rw [Order.hole?, h] at aim
      exact absurd aim nofun
    obtain ⟨-, -, -, -, travelling, issued⟩ := Taking.abort_takenBack (c := c) (t := t) (cause := k) sent
    by_cases mark : o.travelMark = none
    · obtain ⟨-, -, -, -, -, -, zones⟩ := issued mark
      rw [zones z, if_neg fun h => target z h.2]
    · obtain ⟨-, -, -, zones, -⟩ := travelling mark
      rw [zones]

theorem Taking.abort_leaving (j : SlotId) :
    (t.abort c o k).live.slots[j].state = .leaving ↔ t.live.slots[j].state = .leaving := by
  by_cases own : j = o.slot
  · subst own
    cases sent : o.unsent with
    | false =>
      rw [Taking.abort_sent sent]
      dsimp only
      rw [vmod_get_self]
    | true =>
      obtain ⟨-, -, slot, -⟩ := Taking.abort_takenBack (c := c) (t := t) (cause := k) sent
      rw [slot]
      dsimp only
      split
      case isTrue busy => rw [busy]; exact ⟨nofun, nofun⟩
      case isFalse => exact Iff.rfl
  · rw [Taking.abort_slot_other own]

theorem Taking.undoUnsent_requests (c : Setup) (o : Order) (t : Taking) :
    (t.undoUnsent c o).live.requestsA = t.live.requestsA ∧ (t.undoUnsent c o).live.requestsB = t.live.requestsB := by
  by_cases mark : o.travelMark = none
  · rw [Taking.undoUnsent_issue mark]
    exact ⟨Live.undone_keeps Live.requestsA (fun _ _ => rfl) (fun _ _ => rfl) (fun _ _ => rfl) c o _,
      Live.undone_keeps Live.requestsB (fun _ _ => rfl) (fun _ _ => rfl) (fun _ _ => rfl) c o _⟩
  · obtain ⟨holdings, travels, live, -⟩ :=
      (t.on (Live.unqueue o.slot fun m => m.cls == 3)).restoreTravel_live o.slot
    rw [Taking.undoUnsent_travel mark, live]
    exact ⟨rfl, rfl⟩

/-- An abort files no claim. -/
theorem Taking.abort_unclaimed {tag : Nat} (h : t.live.Unclaimed tag) : (t.abort c o k).live.Unclaimed tag := by
  cases sent : o.unsent with
  | false =>
    rw [Taking.abort_sent sent]
    exact h.of_eq rfl rfl
  | true =>
    obtain ⟨a, b⟩ := Taking.undoUnsent_requests c o t
    have ended : ((t.undoUnsent c o).workEnds o.slot).live.Unclaimed tag := by
      rw [Taking.workEnds_live]
      exact h.of_eq a b
    rw [Taking.abort_unsent sent]
    unfold Taking.settleOrder
    split
    · exact ended.leave
    · split
      · exact ended.leave
      · exact ended.of_eq rfl rfl

/-- An abort queues no ISSUE or TRAVEL. -/
theorem Taking.abort_cls3 {j : SlotId} (h : ∀ m ∈ t.live.heads[j].list, m.cls ≠ 3) :
    ∀ m ∈ (t.abort c o k).live.heads[j].list, m.cls ≠ 3 := by
  by_cases own : j = o.slot
  · subst own
    cases sent : o.unsent with
    | false =>
      rw [Taking.abort_sent sent]
      intro m inList
      obtain old | rfl := Live.queue_list inList
      · exact h m old
      · exact nofun
    | true =>
      obtain ⟨list, -⟩ := Taking.abort_takenBack (c := c) (t := t) (cause := k) sent
      rw [list]
      exact fun m inList => h m (List.mem_filter.1 inList).1
  · rw [Taking.abort_head_other own]
    exact h

end Abort

/-! ### Steps that abort or withdraw -/

section Ends

/-- Each step aborts its order with CLAMP_LOST, withdraws it, or leaves it. -/
def Ends (c : Setup) (f : Taking → Order → Taking) : Prop :=
  ∀ t o, f t o = t ∨ f t o = t.abort c o .clampLost ∨ ∃ d, f t o = t.withdraw c o d

variable {c : Setup} {f : Taking → Order → Taking} {t : Taking} {o : Order} {tags : List Nat}

/-- What both an abort and a withdrawal keep, every step keeps. -/
theorem Ends.rel (ends : Ends c f) {r : Taking → Taking → Prop} (refl : r t t) (aborts : r t (t.abort c o .clampLost))
    (withdraws : ∀ d, r t (t.withdraw c o d)) : r t (f t o) := by
  obtain same | aborted | ⟨d, withdrawn⟩ := ends t o
  · rw [same]; exact refl
  · rw [aborted]; exact aborts
  · rw [withdrawn]; exact withdraws d

theorem Ends.keeps (ends : Ends c f) : Keeps f := fun t o =>
  ends.rel (r := fun t u => (u.live.pool.map Order.fixed).Sublist (t.live.pool.map Order.fixed)) (List.Sublist.refl _)
    (Taking.abort_examined c o .clampLost t).orders fun d => (Taking.withdraw_examined c o d t).orders

theorem Ends.ownOnly (ends : Ends c f) : OwnOnly f := fun _ _ tag other =>
  ends.rel (r := fun t u => u.live.order? tag = t.live.order? tag) rfl (Taking.abort_order?_other other) fun _ =>
    Live.order?_filter (Taking.leave_pool ..) other

/-- What every step keeps, whatever its order. -/
theorem Ends.each_all (ends : Ends c f) {r : Taking → Taking → Prop} (refl : ∀ t, r t t)
    (trans : ∀ a b c, r a b → r b c → r a c) (aborts : ∀ t o, r t (t.abort c o .clampLost))
    (withdraws : ∀ t o d, r t (t.withdraw c o d)) (tags : List Nat) (t : Taking) : r t (t.each f tags) :=
  Taking.each_rel (p := fun _ => True) ends.keeps refl trans
    (fun t o _ => ends.rel (refl t) (aborts t o) (withdraws t o)) fun _ _ _ => trivial

theorem Ends.each_bodies (ends : Ends c f) (tags : List Nat) (t : Taking) :
    t.live.cell.bodies <+: (t.each f tags).live.cell.bodies :=
  ends.each_all (r := fun t u => t.live.cell.bodies <+: u.live.cell.bodies) (fun _ => List.prefix_refl _)
    (fun _ _ _ h k => h.trans k) (fun t o => (Taking.abort_examined c o .clampLost t).bodies)
    (fun t o d => (Taking.withdraw_examined c o d t).bodies) tags t

theorem Ends.each_says (ends : Ends c f) {b : CellBody} (h : Says t.live b) : Says (t.each f tags).live b :=
  (ends.each_bodies tags t).subset h

theorem Ends.each_notices (ends : Ends c f) (tags : List Nat) (t : Taking) :
    (t.each f tags).live.notices = t.live.notices :=
  ends.each_all (r := fun t u => u.live.notices = t.live.notices) (fun _ => rfl) (fun _ _ _ h k => k.trans h)
    (fun _ _ => Taking.abort_notices) (fun t o _ => Taking.leave_notices c o _ _ _ t) tags t

theorem Ends.each_holdDones (ends : Ends c f) (tags : List Nat) (t : Taking) :
    (t.each f tags).holdDones = t.holdDones :=
  ends.each_all (r := fun t u => u.holdDones = t.holdDones) (fun _ => rfl) (fun _ _ _ h k => k.trans h)
    (fun _ _ => Taking.abort_holdDones) (fun t o _ => Taking.leave_holdDones c o _ _ _ t) tags t

theorem Ends.each_leaving (ends : Ends c f) (tags : List Nat) (t : Taking) (j : SlotId) :
    (t.each f tags).live.slots[j].state = .leaving ↔ t.live.slots[j].state = .leaving :=
  ends.each_all (r := fun t u => u.live.slots[j].state = .leaving ↔ t.live.slots[j].state = .leaving) (fun _ => Iff.rfl)
    (fun _ _ _ h k => k.trans h) (fun _ _ => Taking.abort_leaving j)
    (fun _ _ _ => by rw [Taking.withdraw, Taking.leave_slots]) tags t

theorem Ends.each_zone_state (ends : Ends c f) (tags : List Nat) (t : Taking) (z : ZoneId) :
    (t.each f tags).live.zones[z].state = t.live.zones[z].state :=
  ends.each_all (r := fun t u => u.live.zones[z].state = t.live.zones[z].state) (fun _ => rfl)
    (fun _ _ _ h k => k.trans h) (fun _ _ => Taking.abort_zone_state z)
    (fun _ _ _ => by rw [Taking.withdraw, Taking.leave_zones]) tags t

theorem Ends.each_unclaimed (ends : Ends c f) {tag : Nat} (h : t.live.Unclaimed tag) :
    (t.each f tags).live.Unclaimed tag :=
  ends.each_all (r := fun t u => t.live.Unclaimed tag → u.live.Unclaimed tag) (fun _ => id) (fun _ _ _ h k => k ∘ h)
    (fun _ _ => Taking.abort_unclaimed) (fun _ _ _ h => h.leave) tags t h

theorem Ends.each_cls3 (ends : Ends c f) {j : SlotId} (h : ∀ m ∈ t.live.heads[j].list, m.cls ≠ 3) :
    ∀ m ∈ (t.each f tags).live.heads[j].list, m.cls ≠ 3 :=
  ends.each_all (r := fun t u => (∀ m ∈ t.live.heads[j].list, m.cls ≠ 3) → ∀ m ∈ u.live.heads[j].list, m.cls ≠ 3)
    (fun _ => id) (fun _ _ _ h k => k ∘ h) (fun _ _ => Taking.abort_cls3)
    (fun _ _ _ => by rw [Taking.withdraw, Taking.leave_heads]; exact id) tags t h

/-- A slot none of whose orders is of the list, and its link, stand. -/
theorem Ends.each_slot (ends : Ends c f) {j : SlotId} (elsewhere : ∀ o ∈ t.live.pool, o.tag ∈ tags → o.slot ≠ j) :
    (t.each f tags).live.slots[j] = t.live.slots[j] ∧ (t.each f tags).live.heads[j] = t.live.heads[j] :=
  Taking.each_rel (p := fun o => o.2.2.1 ≠ j) (r := fun t u => u.live.slots[j] = t.live.slots[j] ∧ u.live.heads[j] = t.live.heads[j])
    ends.keeps (fun _ => ⟨rfl, rfl⟩) (fun _ _ _ h k => ⟨k.1.trans h.1, k.2.trans h.2⟩)
    (fun t o ne => ends.rel (r := fun t u => u.live.slots[j] = t.live.slots[j] ∧ u.live.heads[j] = t.live.heads[j])
      ⟨rfl, rfl⟩ ⟨Taking.abort_slot_other fun e => ne e.symm, Taking.abort_head_other fun e => ne e.symm⟩ fun d => by
      rw [Taking.withdraw, Taking.leave_slots, Taking.leave_heads]
      exact ⟨rfl, rfl⟩) elsewhere

/-- A hole that no order of the list has stands. -/
theorem Ends.each_hole? (ends : Ends c f) {n : Nat} (elsewhere : ∀ o ∈ t.live.pool, o.tag ∈ tags → o.hole? ≠ some n) :
    (t.each f tags).live.hole? n = t.live.hole? n := by
  refine Taking.each_rel (p := fun o => o.2.2.2 ≠ .hole n) (r := fun t u => u.live.hole? n = t.live.hole? n) ends.keeps
    (fun _ => rfl) (fun _ _ _ h k => k.trans h) (fun t o ne => ?_) fun o m inTags e => elsewhere o m inTags ?_
  · refine ends.rel (r := fun t u => u.live.hole? n = t.live.hole? n) rfl (Taking.abort_hole?_other ?_) fun d =>
      Live.hole?_congr (Taking.leave_holes ..)
    exact fun aim => ne (Order.hole?_eq_some.1 aim)
  · exact Order.hole?_eq_some.2 e

/-- A zone stands where every order of the list that is aborted has a hole. -/
theorem Ends.each_zone (ends : Ends c f) (z : ZoneId) (holes : ∀ o ∈ t.live.pool, o.tag ∈ tags → ∃ n, o.hole? = some n) :
    (t.each f tags).live.zones[z] = t.live.zones[z] :=
  Taking.each_rel (p := fun o => ∃ n, o.2.2.2 = .hole n) (r := fun t u => u.live.zones[z] = t.live.zones[z]) ends.keeps
    (fun _ => rfl) (fun _ _ _ h k => k.trans h)
    (fun t o aim => ends.rel (r := fun t u => u.live.zones[z] = t.live.zones[z]) rfl
      (by
        obtain ⟨n, target⟩ := aim
        exact Taking.abort_zones (Order.hole?_eq_some.2 target) z)
      fun d => by rw [Taking.withdraw, Taking.leave_zones])
    fun o m inTags => by
      obtain ⟨n, aim⟩ := holes o m inTags
      exact ⟨n, Order.hole?_eq_some.1 aim⟩

end Ends

/-! ### The turn of an order that is aborted -/

section Turn

variable {c : Setup} {f : Taking → Order → Taking} {t : Taking} {o : Order} {tags : List Nat}

/-- What a later pool of the run says of the orders that the rest of the list meets. -/
theorem Taking.each_later {u : Taking} (sub : (u.live.pool.map Order.fixed).Sublist (t.live.pool.map Order.fixed))
    {rest : List Nat} (subset : ∀ x ∈ rest, x ∈ tags) {p : Nat × OrderKind × SlotId × Target → Prop}
    (all : ∀ q ∈ t.live.pool, q.tag ∈ tags → p q.fixed) : ∀ q ∈ u.live.pool, q.tag ∈ rest → p q.fixed := by
  intro q m inRest
  obtain ⟨x, mx, same⟩ := List.mem_map.1 (sub.subset (List.mem_map_of_mem (f := Order.fixed) m))
  have tag : x.tag = q.tag := congrArg Prod.fst same
  exact same ▸ all x mx (tag ▸ subset _ inRest)

/-- The list reaches an order that it aborts. -/
structure Turn (c : Setup) (f : Taking → Order → Taking) (tags : List Nat) (o : Order) (t : Taking) : Prop where
  ends : Ends c f
  nodup : tags.Nodup
  listed : o.tag ∈ tags
  found : t.live.order? o.tag = some o
  aborts : ∀ u, f u o = u.abort c o .clampLost

/-- The taking as the order's turn finds it, and the rest of the list after its abort. -/
theorem Turn.split (h : Turn c f tags o t) :
    ∃ before after, o.tag ∉ before ∧ o.tag ∉ after ∧ (∀ x ∈ before, x ∈ tags) ∧ (∀ x ∈ after, x ∈ tags)
      ∧ (t.each f before).live.order? o.tag = some o
      ∧ t.each f tags = ((t.each f before).abort c o .clampLost).each f after := by
  obtain ⟨before, after, notBefore, notAfter, b, a, turn, whole⟩ :=
    Taking.each_turn h.ends.keeps h.ends.ownOnly h.nodup h.listed h.found
  exact ⟨before, after, notBefore, notAfter, b, a, turn, by rw [whole, h.aborts]⟩

/-- What is left of the pool when the order has been aborted. -/
theorem Turn.shrinks (h : Turn c f tags o t) (before : List Nat) :
    ((((t.each f before).abort c o .clampLost).live.pool.map Order.fixed)).Sublist (t.live.pool.map Order.fixed) :=
  (Taking.abort_examined c o .clampLost _).orders.trans (Taking.each_keeps h.ends.keeps)

/-- An order whose message is sent is ABORTING with CLAMP_LOST (R46, R108). -/
theorem Turn.sent (h : Turn c f tags o t) (sent : o.unsent = false) :
    (t.each f tags).live.order? o.tag = some (o.abortedBy .clampLost o) := by
  obtain ⟨before, after, -, notAfter, -, -, turn, whole⟩ := h.split
  rw [whole, Taking.each_order?_other h.ends.keeps h.ends.ownOnly notAfter, Taking.abort_sent sent]
  refine (Live.updOrder_order?_self (f := o.abortedBy .clampLost) fun _ => rfl).trans ?_
  rw [turn, Option.map_some]

theorem takeClass_keeps {k : Nat} {list rest : List HeadMsg} {x : HeadMsg} (e : takeClass k list = some (x, rest)) :
    ∀ m ∈ list, m = x ∨ m ∈ rest := by
  induction list generalizing rest with
  | nil => cases e
  | cons y ys ih =>
    unfold takeClass at e
    split at e
    · cases e
      exact fun m inList => List.mem_cons.1 inList
    · split at e
      · cases e
      · next found =>
        cases e
        intro m inList
        obtain rfl | inList := List.mem_cons.1 inList
        · exact .inr List.mem_cons_self
        · exact (ih found m inList).imp_right (List.mem_cons_of_mem _)

/-- The choice of the next message takes that one alone (R176). -/
theorem chooseHead_keeps {list rest : List HeadMsg} {x : HeadMsg} (e : chooseHead list = some (x, rest)) :
    ∀ m ∈ list, m = x ∨ m ∈ rest := by
  unfold chooseHead at e
  split at e
  · next found => cases e; exact takeClass_keeps found
  · split at e
    · next found => cases e; exact takeClass_keeps found
    · exact takeClass_keeps e

/-- A queued message stands on the list, or it is the one in transmission. -/
theorem Live.mem_queue {j : SlotId} (m : HeadMsg) (l : Live) :
    m ∈ (l.queue c j m).heads[j].sending.toList ++ (l.queue c j m).heads[j].list := by
  have head : (l.updHead j fun k => { k with list := k.list ++ [m] }).heads[j] =
      { l.heads[j] with list := l.heads[j].list ++ [m] } := vmod_get_self _ _ _
  unfold Live.queue
  rw [Live.beginHead_head, head]
  split
  · next x rest _ idle chosen =>
    have kept := chooseHead_keeps chosen m (List.mem_append_right _ List.mem_cons_self)
    simpa using kept
  · simp

/-- Where it is the one order of its slot that is met, the ABORT stage is in full and ABORT is queued (R46, R132). -/
theorem Turn.stage (h : Turn c f tags o t) (sent : o.unsent = false)
    (alone : ∀ q ∈ t.live.pool, q.tag ∈ tags → q.slot = o.slot → q.tag = o.tag) :
    (t.each f tags).live.slots[o.slot].timer = some { stage := .abort, left := c.acted Timing.acceptLimit }
      ∧ HeadMsg.abort o.tag ∈
        (t.each f tags).live.heads[o.slot].sending.toList ++ (t.each f tags).live.heads[o.slot].list := by
  obtain ⟨before, after, -, notAfter, -, a, -, whole⟩ := h.split
  have elsewhere : ∀ q ∈ ((t.each f before).abort c o .clampLost).live.pool, q.tag ∈ after → q.slot ≠ o.slot := by
    intro q m inAfter same
    have := Taking.each_later (h.shrinks before) a (p := fun x => x.2.2.1 = o.slot → x.1 = o.tag)
      alone q m inAfter same
    exact notAfter (this ▸ inAfter)
  obtain ⟨slot, head⟩ := h.ends.each_slot elsewhere
  rw [whole, slot, head, Taking.abort_sent sent]
  refine ⟨?_, Live.mem_queue ..⟩
  dsimp only
  rw [vmod_get_self]

/-- What becomes of an untouched order, stated of states in which its slot is LEAVING alike, its record stands and nothing said
is unsaid. -/
theorem goesBack_congr {l l' u u' : Live}
    (leaving : l'.slots[o.slot].state = .leaving ↔ l.slots[o.slot].state = .leaving)
    (stands : u'.order? o.tag = u.order? o.tag) (said : ∀ b, Says u b → Says u' b) (h : GoesBack l o u) : GoesBack l' o u' := by
  obtain ⟨cancelled, withdrawn, waits⟩ := h
  unfold GoesBack
  rw [stands]
  refine ⟨fun flag => ?_, fun flag there => ?_, fun flag stays => waits flag fun e => stays (leaving.2 e)⟩
  · obtain ⟨gone, d, says_, rest⟩ := cancelled flag
    exact ⟨gone, d, said _ says_, rest⟩
  · obtain ⟨gone, d, says_, rest⟩ := withdrawn flag (leaving.1 there)
    exact ⟨gone, d, said _ says_, rest⟩

/-- An order whose message is unsent goes as its flag and its slot say (R47). -/
theorem Turn.goesBack (h : Turn c f tags o t) (unsent : o.unsent = true) (placed : t.holdDones = false) :
    GoesBack t.live o (t.each f tags).live := by
  obtain ⟨before, after, -, notAfter, -, -, turn, whole⟩ := h.split
  have gone := Taking.abort_goesBack (c := c) (t := t.each f before) (cause := .clampLost) unsent
    (by rw [h.ends.each_holdDones, placed]) turn
  refine goesBack_congr (h.ends.each_leaving before t o.slot).symm ?_ (fun b said => ?_) gone
  · rw [whole, Taking.each_order?_other h.ends.keeps h.ends.ownOnly notAfter]
  · rw [whole]
    exact h.ends.each_says said

/-- No ISSUE or TRAVEL is left queued to the slot of an order whose message is taken back (R47). -/
theorem Turn.cls3 (h : Turn c f tags o t) (unsent : o.unsent = true) :
    ∀ m ∈ (t.each f tags).live.heads[o.slot].list, m.cls ≠ 3 := by
  obtain ⟨before, after, -, -, -, -, -, whole⟩ := h.split
  obtain ⟨list, -⟩ := Taking.abort_takenBack (c := c) (t := t.each f before) (cause := .clampLost) unsent
  rw [whole]
  refine h.ends.each_cls3 ?_
  rw [list]
  intro m inList
  have kept := (List.mem_filter.1 inList).2
  simp only [Bool.and_eq_true, bne_iff_ne] at kept
  exact kept.1

/-- The hole that no other order has returns (R17): as SUSPECT from DRILLED or OVERSIZE, its zone not being CLAMPED. -/
theorem Turn.hole (h : Turn c f tags o t) (unsent : o.unsent = true) {n : Nat} {x : Hole} {b : HoleState}
    (aim : o.hole? = some n) (alone : ∀ q ∈ t.live.pool, q.hole? = some n → q.tag = o.tag) (entry : t.live.hole? n = some x)
    (before : o.before = some b) (mark : o.travelMark = none) {r : PatternRow} (row : c.row? n = some r)
    (open_ : t.live.zones[r.zone].state ≠ .clamped) :
    (t.each f tags).live.hole? n = some { x with state := if b = .drilled ∨ b = .oversize then .suspect else b } := by
  obtain ⟨first, after, notFirst, notAfter, f_, a, -, whole⟩ := h.split
  have elsewhere {u : Taking} (sub : (u.live.pool.map Order.fixed).Sublist (t.live.pool.map Order.fixed)) {rest : List Nat}
      (subset : ∀ x ∈ rest, x ∈ tags) (absent : o.tag ∉ rest) : ∀ q ∈ u.live.pool, q.tag ∈ rest → q.hole? ≠ some n := by
    intro q m inRest same
    have target : q.target = .hole n := Order.hole?_eq_some.1 same
    have tag := Taking.each_later (t := t) (u := u) (tags := tags) sub subset (p := fun x => x.2.2.2 = .hole n → x.1 = o.tag)
      (fun q m _ same => alone q m (Order.hole?_eq_some.2 same)) q m inRest target
    exact absent (tag ▸ inRest)
  have found : (t.each f first).live.hole? n = some x :=
    (h.ends.each_hole? (elsewhere (List.Sublist.refl _) f_ notFirst)).trans entry
  have still : (t.each f first).live.holeClamped c n = false := by
    unfold Live.holeClamped Live.clamped
    rw [row]
    dsimp only
    rw [h.ends.each_zone_state]
    simpa using open_
  obtain ⟨-, -, -, -, -, issued⟩ := Taking.abort_takenBack (c := c) (t := t.each f first) (cause := .clampLost) unsent
  obtain ⟨-, -, returned, -⟩ := issued mark
  rw [whole, h.ends.each_hole? (elsewhere (h.shrinks first) a notAfter), returned n x b aim found before, still]
  simp [Hole.returned]

end Turn

end Sys2Proof.Machine
end

section
/-! PROOFS. The CLAMP STATE reports (O40): what a loss of clamp does to the orders at work in a zone (R108). -/

namespace Sys2Proof.Machine

open Sys2Proof.Safety

/-! ### A loss of clamp over a list of orders -/

section ClampLoss

variable {c : Setup} {f : Taking → Order → Taking} {t : Taking} {tags : List Nat} {l : Live} {hit : Order → Bool}

/-- The list meets every order that `hit` holds of and aborts it, from a state in which those orders and their slots stand as
in `l`, and their holes as in `l` but for their states. -/
structure ClampRun (c : Setup) (f : Taking → Order → Taking) (tags : List Nat) (hit : Order → Bool) (l : Live)
    (t : Taking) : Prop where
  ends : Ends c f
  nodup : tags.Nodup
  placed : t.holdDones = false
  working : ∀ o, hit o = true → o.state = .issued ∨ o.state = .running
  listed : ∀ o ∈ l.pool, hit o = true → o.tag ∈ tags
  found : ∀ o ∈ l.pool, hit o = true → t.live.order? o.tag = some o
  aborts : ∀ o, hit o = true → ∀ u, f u o = u.abort c o .clampLost
  leaving : ∀ o, hit o = true → (t.live.slots[o.slot].state = .leaving ↔ l.slots[o.slot].state = .leaving)
  onSlot : ∀ o ∈ l.pool, hit o = true → ∀ q ∈ t.live.pool, q.tag ∈ tags → q.slot = o.slot → hit q = true
  pool : ∀ q ∈ t.live.pool, q ∈ l.pool
  open_ : ∀ o, hit o = true → ∀ n, o.hole? = some n → ∃ r, c.row? n = some r ∧ t.live.zones[r.zone].state ≠ .clamped
  entry : ∀ o ∈ l.pool, hit o = true → ∀ n x, o.hole? = some n → (∀ q ∈ l.pool, q.hole? = some n → q.tag = o.tag) →
    l.hole? n = some x → ∃ state, t.live.hole? n = some { x with state }

theorem ClampRun.turn (h : ClampRun c f tags hit l t) {o : Order} (m : o ∈ l.pool) (hits : hit o = true) :
    Turn c f tags o t :=
  ⟨h.ends, h.nodup, h.listed o m hits, h.found o m hits, h.aborts o hits⟩

/-- What a loss of clamp does to the orders at work (R108, R46, R47). -/
theorem ClampRun.clampAborts (h : ClampRun c f tags hit l t) : ClampAborts c l hit (t.each f tags).live := by
  refine ⟨fun o m hits sent => ⟨?_, fun alone => (h.turn m hits).stage sent fun q mq inTags same =>
    alone q (h.pool q mq) (h.onSlot o m hits q mq inTags same) same⟩, fun o m hits unsent => ⟨?_, (h.turn m hits).cls3 unsent,
    fun n x b aim alone entry before mark => ?_⟩⟩
  · have step : o.stepNow = .operation := by
      unfold Order.stepNow
      obtain state | state := h.working o hits <;> rw [state] <;> rfl
    rw [(h.turn m hits).sent sent, Order.abortedBy, step]
  · exact goesBack_congr (h.leaving o hits).symm rfl (fun _ => id) ((h.turn m hits).goesBack unsent h.placed)
  · obtain ⟨r, row, clamp⟩ := h.open_ o hits n aim
    obtain ⟨state, entry'⟩ := h.entry o m hits n x aim alone entry
    exact (h.turn m hits).hole (x := { x with state := state }) unsent aim (fun q mq => alone q (h.pool q mq)) entry' before mark row clamp

/-- What a loss of clamp has done stands where nothing after it changes those orders, their slots, links and holes. -/
theorem clampAborts_congr {u u' : Live} (orders : ∀ o ∈ l.pool, hit o = true → u'.order? o.tag = u.order? o.tag)
    (slots : ∀ o ∈ l.pool, hit o = true → u'.slots[o.slot] = u.slots[o.slot] ∧ u'.heads[o.slot] = u.heads[o.slot])
    (holes : u'.holes = u.holes) (said : ∀ b, Says u b → Says u' b) (h : ClampAborts c l hit u) : ClampAborts c l hit u' := by
  obtain ⟨sent, unsent⟩ := h
  refine ⟨fun o m hits s => ?_, fun o m hits s => ?_⟩
  · obtain ⟨slot, head⟩ := slots o m hits
    rw [orders o m hits, slot, head]
    exact sent o m hits s
  · obtain ⟨-, head⟩ := slots o m hits
    obtain ⟨back, rest⟩ := unsent o m hits s
    rw [head]
    simp only [Live.hole?_congr holes]
    exact ⟨goesBack_congr Iff.rfl (orders o m hits) said back, rest⟩

end ClampLoss

/-! ### Aborting several orders -/

section AbortAll

variable {c : Setup} {t : Taking} {tags : List Nat} {k : AbortCause}

/-- One order of an event that aborts several. -/
def abortStep (c : Setup) (t : Taking) (o : Order) : Taking := if o.abortable then t.abort c o .clampLost else t

theorem Taking.abortAll_each (c : Setup) (tags : List Nat) (t : Taking) :
    t.abortAll c .clampLost tags = t.each (abortStep c) tags := rfl

theorem abortStep_ends (c : Setup) : Ends c (abortStep c) := by
  intro t o
  unfold abortStep
  split
  · exact .inr (.inl rfl)
  · exact .inl rfl

end AbortAll

end Sys2Proof.Machine
end

section
/-! PROOFS. The CLAMP STATE reports, case by case (O40). -/

namespace Sys2Proof.Machine

open Sys2Proof.Safety

/-! ### Holes under sweeps and aborts -/

section Holes

variable {c : Setup} {l : Live} {t : Taking} {o : Order} {n : Nat} {z : ZoneId} {zones : List ZoneId}

/-- A hole under the sweep of one zone (R20). -/
theorem Live.sweep_hole?_map (c : Setup) (z : ZoneId) (n : Nat) (l : Live) :
    (l.sweep c z).hole? n = (l.hole? n).map (sweptIn c (· == z) n) := by
  cases entry : l.hole? n with
  | none =>
    cases after : (l.sweep c z).hole? n with
    | none => rfl
    | some x =>
      exfalso
      obtain ⟨low, at_⟩ := Live.hole?_eq_some.1 after
      have inside : n - 1 < l.holes.length := by
        rw [← sweepFrom_length (c := c) (z := z) 1 l.holes]
        exact (List.getElem?_eq_some_iff.1 at_).1
      have found : l.hole? n = some l.holes[n - 1] :=
        Live.hole?_eq_some.2 ⟨low, List.getElem?_eq_getElem inside⟩
      rw [entry] at found
      cases found
  | some x =>
    rw [Live.sweep_hole? entry, Option.map_some]
    unfold sweptIn holeIn
    simp only [Setup.inZone_iff]

theorem sweptIn_sweptIn (p q : ZoneId → Bool) (x : Hole) :
    sweptIn c p n (sweptIn c q n x) = sweptIn c (fun z => p z || q z) n x := by
  unfold sweptIn holeIn
  cases c.row? n with
  | none => simp
  | some r =>
    simp only [Option.any_some]
    by_cases inQ : q r.zone = true
    · cases state : x.state <;> simp [inQ, state]
    · simp [inQ]

theorem sweptIn_congr {p q : ZoneId → Bool} (same : ∀ r, c.row? n = some r → p r.zone = q r.zone) (x : Hole) :
    sweptIn c p n x = sweptIn c q n x := by
  unfold sweptIn holeIn
  cases row : c.row? n with
  | none => rfl
  | some r => rw [Option.any_some, Option.any_some, same r row]

theorem sweptIn_none (row : c.row? n = none) (p : ZoneId → Bool) (x : Hole) : sweptIn c p n x = x := by
  unfold sweptIn holeIn
  rw [row]
  exact if_neg fun h => absurd h.1 nofun

theorem Setup.row?_none (unbound : c.frame = none) : c.row? n = none := by
  unfold Setup.row?
  rw [unbound]

/-- A hole under the sweep of several zones (R107 step 2). -/
theorem Live.sweepZones_hole? (c : Setup) (zones : List ZoneId) (n : Nat) (l : Live) :
    (l.sweepZones c zones).hole? n = (l.hole? n).map (sweptIn c zones.contains n) := by
  have swept (zones : List ZoneId) (l : Live) :
      (zones.foldl (fun l z => l.sweep c z) l).hole? n = (l.hole? n).map (sweptIn c zones.contains n) := by
    induction zones generalizing l with
    | nil =>
      have same : sweptIn c (List.contains ([] : List ZoneId)) n = id := by
        funext x
        unfold sweptIn holeIn
        cases c.row? n <;> simp
      rw [same, Option.map_id]
      rfl
    | cons z zones ih =>
      rw [List.foldl_cons, ih, Live.sweep_hole?_map, Option.map_map]
      congr 1
      funext x
      rw [Function.comp, sweptIn_sweptIn]
      refine sweptIn_congr (fun r _ => ?_) x
      rw [List.contains_cons, Bool.or_comm]
  unfold Live.sweepZones
  split
  · exact swept zones l
  · next unbound =>
    have row : c.row? n = none := Setup.row?_none (by simpa using unbound)
    have same : sweptIn c zones.contains n = id := funext fun x => sweptIn_none row _ x
    rw [same, Option.map_id]
    rfl

/-- A swept hole is neither DRILLED nor OVERSIZE. -/
theorem sweptIn_state {p : ZoneId → Bool} (inside : holeIn c p n = true) (x : Hole) :
    (sweptIn c p n x).state ≠ .drilled ∧ (sweptIn c p n x).state ≠ .oversize := by
  unfold sweptIn
  rw [inside]
  cases state : x.state <;> simp [state]

theorem sweptIn_eq_state (p : ZoneId → Bool) (x : Hole) : ∃ state, sweptIn c p n x = { x with state } := by
  unfold sweptIn
  split
  · exact ⟨_, rfl⟩
  · exact ⟨x.state, rfl⟩

/-- What an abort can do to a hole: return it, as its zone then is. -/
theorem Taking.abort_hole? (k : AbortCause) (n : Nat) : (t.abort c o k).live.hole? n = t.live.hole? n
    ∨ (t.abort c o k).live.hole? n = (t.live.hole? n).map (Hole.returned o.before (t.live.holeClamped c n)) := by
  by_cases other : o.hole? = some n
  · cases sent : o.unsent with
    | false =>
      rw [Taking.abort_sent sent]
      exact .inl rfl
    | true =>
      have works := Taking.settleOrder_works (c := c) (o := o) (t := (t.undoUnsent c o).workEnds o.slot)
      rw [Taking.abort_unsent sent, Live.hole?_congr (congrArg Live.Works.holes works),
        Live.hole?_congr (Taking.workEnds_holes ..)]
      by_cases mark : o.travelMark = none
      · right
        rw [Taking.undoUnsent_issue mark]
        have edited := Live.holesEdited_hole? (n := n) (Live.undone_holes c o (t.live.unqueue o.slot fun m => m.cls == 3))
        rw [if_pos other] at edited
        refine edited.trans ?_
        unfold Order.holeClamped
        rw [other]
        rfl
      · left
        obtain ⟨holdings, travels, live, -⟩ :=
          (t.on (Live.unqueue o.slot fun m => m.cls == 3)).restoreTravel_live o.slot
        rw [Taking.undoUnsent_travel mark, live]
        rfl
  · exact .inl (Taking.abort_hole?_other other)

/-- In a zone that is not CLAMPED no end leaves a hole DRILLED or OVERSIZE that was not (R17). -/
theorem Ends.each_unfit {f : Taking → Order → Taking} (ends : Ends c f) {r : PatternRow} (row : c.row? n = some r)
    {tags : List Nat} (open_ : t.live.zones[r.zone].state ≠ .clamped)
    (unfit : ∀ y, t.live.hole? n = some y → y.state ≠ .drilled ∧ y.state ≠ .oversize) :
    ∀ y, (t.each f tags).live.hole? n = some y → y.state ≠ .drilled ∧ y.state ≠ .oversize := by
  let good : Taking → Prop := fun t => t.live.zones[r.zone].state ≠ .clamped
    ∧ ∀ y, t.live.hole? n = some y → y.state ≠ .drilled ∧ y.state ≠ .oversize
  have aborts (t : Taking) (o : Order) (h : good t) : good (t.abort c o .clampLost) := by
    obtain ⟨clamp, clean⟩ := h
    refine ⟨by rw [Taking.abort_zone_state]; exact clamp, fun y left => ?_⟩
    obtain same | returned := Taking.abort_hole? (c := c) (t := t) (o := o) .clampLost n
    · exact clean y (same ▸ left)
    · have still : t.live.holeClamped c n = false := by
        unfold Live.holeClamped Live.clamped
        rw [row]
        simpa using clamp
      rw [returned, still] at left
      obtain ⟨x, entry, rfl⟩ := Option.map_eq_some_iff.1 left
      unfold Hole.returned
      cases o.before with
      | none => exact clean x entry
      | some b => cases b <;> simp
  have whole := ends.each_all (r := fun t u => good t → good u) (fun _ => id) (fun _ _ _ h k => k ∘ h) aborts
    (fun t o d h => ⟨by rw [Taking.withdraw, Taking.leave_zones]; exact h.1, fun y left =>
      h.2 y ((Live.hole?_congr (Taking.leave_holes ..)).symm.trans left)⟩) tags t
  exact (whole ⟨open_, unfit⟩).2

/-! ### The orders at work in some zones -/

theorem worksIn_iff {p : ZoneId → Bool} : worksIn c p o = true ↔
    (o.state = .issued ∨ o.state = .running) ∧ ∃ n r, o.hole? = some n ∧ c.row? n = some r ∧ p r.zone = true := by
  unfold worksIn holeIn
  cases o.hole? with
  | none => simp
  | some n => simp [Option.any_eq_true]

/-- The orders that a loss of clamp aborts are those at work in its zones (R108). -/
theorem mem_workOfZones (unique : (l.pool.map Order.tag).Nodup) (m : o ∈ l.pool) :
    o.tag ∈ l.workOfZones c zones ↔ worksIn c zones.contains o = true := by
  have works : ∀ o : Order, (((o.state == .issued || o.state == .running)
      && (o.hole?.bind c.row?).any fun r => zones.contains r.zone) = true) ↔ worksIn c zones.contains o = true := by
    intro o
    unfold worksIn holeIn
    cases o.hole? with
    | none => simp
    | some n => simp
  unfold Live.workOfZones
  rw [List.mem_map]
  constructor
  · rintro ⟨q, mq, same⟩
    obtain ⟨inPool, works_⟩ := List.mem_filter.1 mq
    rw [← List.inj_on_of_nodup_map unique inPool m same]
    exact (works q).1 works_
  · intro h
    exact ⟨o, List.mem_filter.2 ⟨m, (works o).2 h⟩, rfl⟩

theorem workOfZones_nodup (unique : (l.pool.map Order.tag).Nodup) : (l.workOfZones c zones).Nodup :=
  unique.sublist (List.filter_sublist.map _)

theorem Order.abortable_of_worksIn {p : ZoneId → Bool} (works : worksIn c p o = true) : o.abortable = true := by
  obtain ⟨state, -⟩ := worksIn_iff.1 works
  unfold Order.abortable
  obtain state | state := state <;> rw [state] <;> rfl

end Holes

/-! ### A loss of clamp by a report (R107, R108) -/

section ClampLost

variable {s : State} {slot : SlotId} {hs : Nat} {z : ZoneId} {now : Zone}

/-- The report's frame taken, its zone in its new state and swept (R107 steps 1 and 2). -/
def Taking.zoneLeft (s : State) (slot : SlotId) (hs : Nat) (z : ZoneId) (now : Zone) : Taking :=
  ((Taking.start (framed s slot hs)).on fun l => l.updZone z fun _ => now).on (Live.sweepZones s.setup [z])

theorem Taking.zoneLeft_keeps {α : Type} (g : Live → α) (holes : ∀ (l : Live) (y : ZoneId), g (l.sweep s.setup y) = g l)
    (zones : ∀ (l : Live) (f : Zone → Zone), g (l.updZone z f) = g l) :
    g (Taking.zoneLeft s slot hs z now).live = g (framed s slot hs) :=
  (Taking.sweepZones_keeps g holes [z] _).trans (zones _ _)

@[simp] theorem Taking.zoneLeft_pool : (Taking.zoneLeft s slot hs z now).live.pool = s.live.pool :=
  (Taking.zoneLeft_keeps Live.pool (by simp) (by simp)).trans framed_pool

@[simp] theorem Taking.zoneLeft_slots : (Taking.zoneLeft s slot hs z now).live.slots = s.live.slots :=
  (Taking.zoneLeft_keeps Live.slots (by simp) (by simp)).trans framed_slots

@[simp] theorem Taking.zoneLeft_notices : (Taking.zoneLeft s slot hs z now).live.notices = s.live.notices :=
  (Taking.zoneLeft_keeps Live.notices (by simp) (by simp)).trans framed_notices

theorem Taking.zoneLeft_zones : (Taking.zoneLeft s slot hs z now).live.zones = vmod s.live.zones z fun _ => now := by
  refine (Taking.sweepZones_keeps Live.zones (by simp) [z] _).trans ?_
  simp

theorem Taking.zoneLeft_hole? (n : Nat) : (Taking.zoneLeft s slot hs z now).live.hole? n =
    (s.live.hole? n).map (sweptIn s.setup (· == z) n) := by
  have only : (List.contains [z] : ZoneId → Bool) = (· == z) := by
    funext y
    simp [beq_eq_decide]
  refine (Live.sweepZones_hole? s.setup [z] n _).trans ?_
  rw [only]
  exact congrArg (Option.map _) ((Live.hole?_congr rfl).trans (framed_hole? n))

/-- The orders at work in the zone as the aborts begin. -/
theorem mem_zoneLeft_work (unique : (s.live.pool.map Order.tag).Nodup) {o : Order} (m : o ∈ s.live.pool) :
    o.tag ∈ (Taking.zoneLeft s slot hs z now).live.workOfZones s.setup [z] ↔ worksIn s.setup (· == z) o = true := by
  have only : (List.contains [z] : ZoneId → Bool) = (· == z) := by
    funext y
    simp [beq_eq_decide]
  rw [mem_workOfZones (by simpa using unique) (by simpa using m), only]

/-- A loss of clamp by a report meets the orders at work in its zone. -/
theorem zoneLeft_run (unique : (s.live.pool.map Order.tag).Nodup) (left : now.state ≠ .clamped) :
    ClampRun s.setup (abortStep s.setup) ((Taking.zoneLeft s slot hs z now).live.workOfZones s.setup [z])
      (worksIn s.setup (· == z)) s.live (Taking.zoneLeft s slot hs z now) where
  ends := abortStep_ends _
  nodup := workOfZones_nodup (by simpa using unique)
  placed := rfl
  working o hit := (worksIn_iff.1 hit).1
  listed o m hit := (mem_zoneLeft_work unique m).2 hit
  found o m _ := (Live.order?_congr Taking.zoneLeft_pool).trans (Live.order?_of_mem unique m)
  aborts o hit u := if_pos (Order.abortable_of_worksIn hit)
  leaving o _ := by rw [Taking.zoneLeft_slots]
  onSlot o _ _ q mq inTags _ := (mem_zoneLeft_work unique (Taking.zoneLeft_pool ▸ mq)).1 inTags
  pool q mq := Taking.zoneLeft_pool ▸ mq
  open_ o hit n aim := by
    obtain ⟨-, m, r, aim', row, here⟩ := worksIn_iff.1 hit
    rw [aim] at aim'
    cases aim'
    refine ⟨r, row, ?_⟩
    cases beq_iff_eq.1 here
    rw [Taking.zoneLeft_zones, vmod_get_self]
    exact left
  entry o _ _ n x _ _ entry := by
    obtain ⟨state, same⟩ := sweptIn_eq_state (c := s.setup) (n := n) (· == z) x
    exact ⟨state, by rw [Taking.zoneLeft_hole?, entry, Option.map_some, same]⟩

/-- What a loss of clamp by a report leaves before its notice. -/
def Taking.clampLeft (s : State) (slot : SlotId) (hs : Nat) (z : ZoneId) (now : Zone) : Taking :=
  (Taking.zoneLeft s slot hs z now).abortAll s.setup .clampLost
    ((Taking.zoneLeft s slot hs z now).live.workOfZones s.setup [z])

theorem Taking.clampLeft_each : Taking.clampLeft s slot hs z now = (Taking.zoneLeft s slot hs z now).each (abortStep s.setup)
    ((Taking.zoneLeft s slot hs z now).live.workOfZones s.setup [z]) := Taking.abortAll_each ..

/-- An order in flight in the zone has a hole. -/
theorem zoneLeft_work_hole (unique : (s.live.pool.map Order.tag).Nodup) :
    ∀ o ∈ (Taking.zoneLeft s slot hs z now).live.pool,
      o.tag ∈ (Taking.zoneLeft s slot hs z now).live.workOfZones s.setup [z] → ∃ n, o.hole? = some n := by
  intro o m inTags
  obtain ⟨-, n, -, aim, -⟩ := worksIn_iff.1 ((mem_zoneLeft_work unique (Taking.zoneLeft_pool ▸ m)).1 inTags)
  exact ⟨n, aim⟩

theorem Taking.clampLeft_zone (unique : (s.live.pool.map Order.tag).Nodup) (y : ZoneId) :
    (Taking.clampLeft s slot hs z now).live.zones[y] = (vmod s.live.zones z fun _ => now)[y] := by
  rw [Taking.clampLeft_each, (abortStep_ends _).each_zone y (zoneLeft_work_hole unique), Taking.zoneLeft_zones]

theorem Taking.clampLeft_notices : (Taking.clampLeft s slot hs z now).live.notices = s.live.notices := by
  rw [Taking.clampLeft_each, (abortStep_ends _).each_notices, Taking.zoneLeft_notices]

/-- No hole of the zone is left DRILLED or OVERSIZE (R20, R17). -/
theorem Taking.clampLeft_unfit (left : now.state ≠ .clamped) {n : Nat} {y : Hole}
    (entry : (Taking.clampLeft s slot hs z now).live.hole? n = some y)
    (inside : (s.setup.row? n).map PatternRow.zone = some z) : y.state ≠ .drilled ∧ y.state ≠ .oversize := by
  obtain ⟨r, row, rfl⟩ := Option.map_eq_some_iff.1 inside
  refine (abortStep_ends s.setup).each_unfit row ?_ (fun x at_ => ?_) y entry
  · rw [Taking.zoneLeft_zones, vmod_get_self]
    exact left
  · rw [Taking.zoneLeft_hole?] at at_
    obtain ⟨x, -, rfl⟩ := Option.map_eq_some_iff.1 at_
    refine sweptIn_state ?_ x
    unfold holeIn
    rw [row]
    simp

/-- A hole that no order has is swept and no more. -/
theorem Taking.clampLeft_hole? {k : Nat} (free : ∀ o ∈ s.live.pool, o.target ≠ .hole k) :
    (Taking.clampLeft s slot hs z now).live.hole? k = (s.live.hole? k).map fun y =>
      if (s.setup.row? k).map PatternRow.zone = some z ∧ (y.state = .drilled ∨ y.state = .oversize) then
        { y with state := .suspect } else y := by
  rw [Taking.clampLeft_each, (abortStep_ends _).each_hole? fun o m _ aim =>
    free o (Taking.zoneLeft_pool ▸ m) (Order.hole?_eq_some.1 aim), Taking.zoneLeft_hole?]
  congr 1
  funext y
  unfold sweptIn holeIn
  cases s.setup.row? k <;> simp

/-- An order that is not at work in the zone stands. -/
theorem Taking.clampLeft_stands (unique : (s.live.pool.map Order.tag).Nodup) {o : Order} (m : o ∈ s.live.pool)
    (elsewhere : worksIn s.setup (· == z) o = false) :
    (Taking.clampLeft s slot hs z now).live.order? o.tag = some o := by
  have notMet : o.tag ∉ (Taking.zoneLeft s slot hs z now).live.workOfZones s.setup [z] := fun h => by
    rw [(mem_zoneLeft_work unique m).1 h] at elsewhere
    cases elsewhere
  rw [Taking.clampLeft_each, Taking.each_order?_other (abortStep_ends _).keeps (abortStep_ends _).ownOnly notMet,
    Live.order?_congr Taking.zoneLeft_pool, Live.order?_of_mem unique m]

theorem Taking.clampLeft_aborts (unique : (s.live.pool.map Order.tag).Nodup) (left : now.state ≠ .clamped) :
    ClampAborts s.setup s.live (worksIn s.setup (· == z)) (Taking.clampLeft s slot hs z now).live :=
  (zoneLeft_run unique left).clampAborts

/-- The aborts end no order but those they meet, and begin none. -/
theorem Taking.clampLeft_orders :
    ((Taking.clampLeft s slot hs z now).live.pool.map Order.fixed).Sublist (s.live.pool.map Order.fixed) := by
  rw [Taking.clampLeft_each, ← Taking.zoneLeft_pool (s := s) (slot := slot) (hs := hs) (z := z) (now := now)]
  exact Taking.each_keeps (abortStep_ends _).keeps

/-- No order is left at work in the zone (R108). -/
theorem Taking.clampLeft_idle (unique : (s.live.pool.map Order.tag).Nodup) (left : now.state ≠ .clamped) :
    ∀ o ∈ (Taking.clampLeft s slot hs z now).live.pool, o.state = .issued ∨ o.state = .running →
      (o.hole?.bind s.setup.row?).map PatternRow.zone ≠ some z := by
  intro o m works here
  have tags : ((Taking.clampLeft s slot hs z now).live.pool.map Order.tag).Sublist (s.live.pool.map Order.tag) := by
    have := Taking.clampLeft_orders (s := s) (slot := slot) (hs := hs) (z := z) (now := now) |>.map Prod.fst
    rwa [List.map_map, List.map_map] at this
  have found := Live.order?_of_mem (unique.sublist tags) m
  obtain ⟨q, mq, same⟩ := List.mem_map.1 (Taking.clampLeft_orders.subset (List.mem_map_of_mem (f := Order.fixed) m))
  have tag : q.tag = o.tag := congrArg Prod.fst same
  rw [← tag] at found
  cases hit : worksIn s.setup (· == z) q with
  | false =>
    rw [Taking.clampLeft_stands unique mq hit] at found
    cases found
    obtain ⟨n, aim, row⟩ := Option.bind_eq_some_iff.1 (Option.map_eq_some_iff.1 here).choose_spec.1
    have inZone := (Option.map_eq_some_iff.1 here).choose_spec.2
    rw [worksIn_iff.2 ⟨works, n, _, aim, row, by simpa using inZone⟩] at hit
    cases hit
  | true =>
    obtain ⟨sent, unsent⟩ := Taking.clampLeft_aborts (slot := slot) (hs := hs) unique left
    cases message : q.unsent with
    | false =>
      rw [(sent q mq hit message).1] at found
      cases found
      simp at works
    | true =>
      obtain ⟨⟨cancelled, withdrawn, waits⟩, -⟩ := unsent q mq hit message
      cases flag : q.cancel with
      | true =>
        rw [(cancelled flag).1] at found
        cases found
      | false =>
        by_cases leaving : s.live.slots[q.slot].state = .leaving
        · rw [(withdrawn flag leaving).1] at found
          cases found
        · rw [waits flag leaving] at found
          cases found
          simp at works

end ClampLost

/-! ### CLAMP STATE (R102, R103) -/

section Reports

variable {s : State} {slot : SlotId} {hs channel code n : Nat} {z : ZoneId} {x : ZoneState}

theorem clampState_taken (held : s.setup.resetHeld = false) : exec (.clampState slot hs channel code) s =
    .next (({ s with live := framed s slot hs } : State).clampReport slot channel code) := by
  rw [show exec (.clampState slot hs channel code) s = execClampState slot hs channel code s from rfl, execClampState,
    event_taken held]
  rfl

/-- A CLAMP STATE of a joined CLAMP head for a channel it has. -/
theorem clampState_of (held : s.setup.resetHeld = false) (joined : s.live.slots[slot].state.joined = true)
    (channels : s.live.slots[slot].channels? = some n) (low : 1 ≤ channel) (high : channel ≤ n)
    (read : ZoneState.ofCode code = some x) : exec (.clampState slot hs channel code) s = .next
      (match s.setup.zoneAt slot channel with
      | none => { s with live := framed s slot hs }
      | some z => settled s ((Taking.start (framed s slot hs)).zoneReport s.setup z slot x)) := by
  have inside : within 1 n channel = true := by simp [within, low, high]
  rw [clampState_taken held]
  simp only [State.clampReport, framed_slots, joined, channels, inside, read]
  cases s.setup.zoneAt slot channel <;> rfl

/-- A CLAMP STATE with no such channel, or with no such code. -/
theorem clampState_bad (held : s.setup.resetHeld = false) (joined : s.live.slots[slot].state.joined = true)
    (channels : s.live.slots[slot].channels? = some n)
    (bad : channel = 0 ∨ n < channel ∨ ZoneState.ofCode code = none) :
    exec (.clampState slot hs channel code) s = .next (setAside s slot hs) := by
  rw [clampState_taken held]
  simp only [State.clampReport, framed_slots, joined, channels]
  have outside : within 1 n channel = false ∨ ZoneState.ofCode code = none := by
    unfold within
    rcases bad with rfl | big | bad
    · simp
    · simp [Nat.not_le.2 big]
    · exact .inr bad
  rcases outside with outside | outside <;> rw [outside]
  · rfl
  · cases within 1 n channel <;> rfl

theorem Setup.zoneAt_spec {c : Setup} (e : c.zoneAt slot channel = some z) :
    c.tables.zones[z] = some { slot, channel } := by
  simpa using List.find?_some e

/-- The record that a report leaves of its zone (R103, R106). -/
def zoneAfter (l : Live) (z : ZoneId) (x : ZoneState) : Zone :=
  { state := x, expected := flagAfterReport l.zones[z].state x (l.unclamping z) l.zones[z].expected }

theorem Taking.zoneReport_same (same : (framed s slot hs).zones[z].state = x) (c : Setup) :
    (Taking.start (framed s slot hs)).zoneReport c z slot x = Taking.start (framed s slot hs) := if_pos same

theorem Taking.zoneReport_moves (changed : (framed s slot hs).zones[z].state ≠ x)
    (open_ : (framed s slot hs).zones[z].state ≠ .clamped) (c : Setup) :
    (Taking.start (framed s slot hs)).zoneReport c z slot x =
      (Taking.start ((framed s slot hs).updZone z fun _ => zoneAfter (framed s slot hs) z x)).wakeGate :=
  (if_neg changed).trans (if_neg open_)

theorem Taking.zoneReport_leaves (clamped : (framed s slot hs).zones[z].state = .clamped) (left : x ≠ .clamped) :
    (Taking.start (framed s slot hs)).zoneReport s.setup z slot x =
      (if (framed s slot hs).zones[z].expected then Taking.zoneLeft s slot hs z (zoneAfter (framed s slot hs) z x)
      else (Taking.clampLeft s slot hs z (zoneAfter (framed s slot hs) z x)).on (Live.postClampLost slot [z])).wakeGate :=
  (if_neg (clamped ▸ left.symm)).trans (if_pos clamped)

theorem zoneAfter_framed : zoneAfter (framed s slot hs) z x = zoneAfter s.live z x := by
  simp only [zoneAfter, Live.unclamping, framed_zones, framed_pool]

theorem zoneAfter_lost (clamped : s.live.zones[z].state = .clamped) (lost : s.live.zones[z].expected = false) :
    zoneAfter s.live z x = { state := x, expected := false } := by
  simp only [zoneAfter, flagAfterReport, clamped, lost]
  simp

/-- A zone whose unclamp was expected leaves CLAMPED (R107 step 2). -/
theorem Taking.zoneLeft_sweep : Taking.zoneLeft s slot hs z now = Taking.start
    (if s.setup.frame = none then (framed s slot hs).updZone z fun _ => now
    else ((framed s slot hs).updZone z fun _ => now).sweep s.setup z) := by
  refine congrArg (fun l : Live => Taking.start l)
    (?_ : ((framed s slot hs).updZone z fun _ => now).sweepZones s.setup [z] = _)
  unfold Live.sweepZones
  cases s.setup.frame <;> rfl

/-- Settles O40, case by case; the loss of clamp by what its aborts leave of orders, holes, zones and notices. -/
theorem clampReports : Obligations.ClampReports := by
  intro slot hs channel code s held
  refine ⟨fun apart => ?_, fun joined none_ => ?_, fun n joined channels => ⟨fun bad => clampState_bad held joined channels bad,
    fun x low high read => ⟨fun unmapped => ?_, fun z mapped => ⟨Setup.zoneAt_spec mapped, fun same => ?_,
      fun changed open_ => ?_, fun clamped left expected => ?_, fun clamped left lost unique => ?_⟩⟩⟩⟩
  · rw [clampState_taken held]
    simp only [State.clampReport, framed_slots, apart]
    rfl
  · rw [clampState_taken held]
    simp only [State.clampReport, framed_slots, joined, none_]
    rfl
  · rw [clampState_of held joined channels low high read, unmapped]
  all_goals rw [clampState_of held joined channels low high read, mapped]; dsimp only
  · rw [Taking.zoneReport_same (by rwa [framed_zones])]
  · rw [Taking.zoneReport_moves (by rwa [framed_zones]) (by rwa [framed_zones]), zoneAfter_framed]
    rfl
  · rw [Taking.zoneReport_leaves (by rwa [framed_zones]) left, if_pos (by rwa [framed_zones]), zoneAfter_framed,
      Taking.zoneLeft_sweep]
    rfl
  · have after := zoneAfter_lost (x := x) clamped lost
    refine ⟨_, rfl, ?_⟩
    rw [Taking.zoneReport_leaves (by rwa [framed_zones]) left, if_neg (by rw [framed_zones, lost]; exact Bool.false_ne_true), zoneAfter_framed, after]
    refine ⟨rfl, ?_, fun y other => ?_, ?_, fun k y entry inside => ?_, fun k free => ?_, ?_, fun o m elsewhere => ?_, ?_⟩
    · refine (Taking.clampLeft_zone unique z).trans ?_
      rw [vmod_get_self]
    · refine (Taking.clampLeft_zone unique y).trans ?_
      rw [vmod_get_ne _ _ other]
    · refine (vmod_get_self _ _ _).trans ?_
      rw [Taking.clampLeft_notices]
      rfl
    · exact Taking.clampLeft_unfit left entry inside
    · exact Taking.clampLeft_hole? free
    · exact clampAborts_congr (fun _ _ _ => rfl) (fun _ _ _ => ⟨rfl, rfl⟩) rfl (fun _ => id)
        (Taking.clampLeft_aborts unique left)
    · exact Taking.clampLeft_stands unique m elsewhere
    · exact Taking.clampLeft_idle unique left

end Reports

end Sys2Proof.Machine
end

section
/-! PROOFS. What the loss of a slot does to its work in flight (R52, R90). -/

namespace Sys2Proof.Machine

open Sys2Proof.Safety

/-! ### A heat that fails (R90) -/

section FailHeat

variable {l : Live} {o : Order} {s : SlotId} {i j : LaneId} {k : LossCause} {code : Option Nat} {g : Heat}

theorem Lane.heatOff_of_none {x : Lane} (e : x.heatOn s = none) : x.heatOff s = x.heat := by
  unfold Lane.heatOn at e
  unfold Lane.heatOff
  cases heat : x.heat with
  | none => rfl
  | some h =>
    rw [heat, Option.filter_eq_none_iff] at e
    simpa using e h rfl

/-- A lane at the end of a heat that fails. -/
theorem Live.failHeat_lane (e : l.lanes[i].heatOn s = some g) (j : LaneId) :
    (l.failHeat s i k code).lanes[j] = if j = i then
      { l.lanes[j] with
        heat := l.lanes[j].heatOff s, fault := some { tag := g.tag, slot := s, cause := k, code, serial := g.serial } }
      else l.lanes[j] := by
  unfold Live.failHeat
  rw [e]
  dsimp only
  rw [Live.postSlot_lanes, Live.updLane_lanes, vmod_get]
  split
  case isTrue same => rw [same]
  case isFalse => rfl

theorem Live.failHeat_notices (e : l.lanes[i].heatOn s = some g) :
    (l.failHeat s i k code).notices = (l.postSlot s .heatFailed (.lane i)).notices := by
  unfold Live.failHeat
  rw [e]
  rfl

theorem Live.failHeat_lanes_congr {l' : Live} (same : l'.lanes = l.lanes) :
    (l'.failHeat s i k code).lanes = (l.failHeat s i k code).lanes := by
  have heat : l'.lanes[i].heatOn s = l.lanes[i].heatOn s := by rw [same]
  cases e : l.lanes[i].heatOn s with
  | none => rw [Live.failHeat_elsewhere e, Live.failHeat_elsewhere (heat.trans e), same]
  | some g =>
    unfold Live.failHeat
    rw [heat, e]
    dsimp only
    rw [Live.postSlot_lanes, Live.postSlot_lanes, Live.updLane_lanes, Live.updLane_lanes, same]

/-- The heat record after the loss of its slot: one on another slot stands. -/
theorem Live.failHeat_heat (j : LaneId) :
    (l.failHeat s i k code).lanes[j].heat = if j = i then l.lanes[j].heatOff s else l.lanes[j].heat := by
  cases e : l.lanes[i].heatOn s with
  | none =>
    rw [Live.failHeat_elsewhere e]
    split
    case isTrue same => rw [same, Lane.heatOff_of_none e]
    case isFalse => rfl
  | some g =>
    rw [Live.failHeat_lane e]
    split <;> rfl

theorem Live.failHeat_stock (j : LaneId) : (l.failHeat s i k code).lanes[j].stock = l.lanes[j].stock := by
  cases e : l.lanes[i].heatOn s with
  | none => rw [Live.failHeat_elsewhere e]
  | some g =>
    rw [Live.failHeat_lane e]
    split <;> rfl

/-- The lane that a HEAT order heats. -/
def Order.heatLane? (o : Order) : Option LaneId :=
  match o.kind, o.target with
  | .heat, .lane i => some i
  | _, _ => none

theorem Order.heatLane?_iff : o.heatLane? = some i ↔ o.kind = .heat ∧ o.target = .lane i := by
  unfold Order.heatLane?
  split
  case h_1 j kind target => simp [kind, target]
  case h_2 other => exact ⟨nofun, fun h => absurd h.2 (other i h.1)⟩

/-- The heat of an order fails with its slot (R52, R90). -/
def Live.failHeatOf (o : Order) (k : LossCause) (code : Option Nat) (l : Live) : Live :=
  match o.heatLane? with
  | some i => l.failHeat o.slot i k code
  | none => l

theorem Live.failHeatOf_eq : (match o.kind, o.target with
    | .heat, .lane i => l.failHeat o.slot i k code
    | _, _ => l) = l.failHeatOf o k code := by
  unfold Live.failHeatOf Order.heatLane?
  split <;> rfl

/-- What the failing of an order's heat keeps: a field that is not the lanes or the notices. -/
theorem Live.failHeatOf_keeps {α : Type} (f : Live → α) (h : ∀ i, f (l.failHeat o.slot i k code) = f l) :
    f (l.failHeatOf o k code) = f l := by
  unfold Live.failHeatOf
  split
  · exact h _
  · rfl

theorem Live.failHeatOf_lanes_congr {l' : Live} (same : l'.lanes = l.lanes) :
    (l'.failHeatOf o k code).lanes = (l.failHeatOf o k code).lanes := by
  unfold Live.failHeatOf
  cases o.heatLane? with
  | none => exact same
  | some i => exact Live.failHeat_lanes_congr same

theorem Live.failHeatOf_heat (j : LaneId) : (l.failHeatOf o k code).lanes[j].heat =
    if o.kind = .heat ∧ o.target = .lane j then l.lanes[j].heatOff o.slot else l.lanes[j].heat := by
  simp only [← Order.heatLane?_iff]
  unfold Live.failHeatOf
  cases o.heatLane? with
  | none => rw [if_neg nofun]
  | some i =>
    refine (Live.failHeat_heat j).trans ?_
    simp only [Option.some.injEq, eq_comm]

theorem Live.failHeatOf_stock (j : LaneId) : (l.failHeatOf o k code).lanes[j].stock = l.lanes[j].stock :=
  Live.failHeatOf_keeps (fun l => l.lanes[j].stock) fun _ => Live.failHeat_stock j

/-- The heat that an order has on its slot, with its lane. -/
def Order.heat? (o : Order) (l : Live) : Option (LaneId × Heat) :=
  o.heatLane?.bind fun i => (l.lanes[i].heatOn o.slot).map fun g => (i, g)

theorem Live.failHeatOf_fault_kept (j : LaneId) (apart : ∀ g, o.heat? l ≠ some (j, g)) :
    (l.failHeatOf o k code).lanes[j].fault = l.lanes[j].fault := by
  unfold Order.heat? at apart
  unfold Live.failHeatOf
  cases lane : o.heatLane? with
  | none => rfl
  | some i =>
    dsimp only
    rw [lane] at apart
    cases e : l.lanes[i].heatOn o.slot with
    | none => rw [Live.failHeat_elsewhere e]
    | some g =>
      rw [Live.failHeat_lane e, if_neg]
      rintro rfl
      exact apart g (by rw [Option.bind_some, e, Option.map_some])

theorem Live.failHeatOf_fault (heat : o.heat? l = some (j, g)) : (l.failHeatOf o k code).lanes[j].fault =
    some { tag := g.tag, slot := o.slot, cause := k, code, serial := g.serial } := by
  obtain ⟨i, lane, found⟩ := Option.bind_eq_some_iff.1 heat
  obtain ⟨g', e, same⟩ := Option.map_eq_some_iff.1 found
  cases same
  unfold Live.failHeatOf
  rw [lane]
  dsimp only
  rw [Live.failHeat_lane e, if_pos rfl]

/-- The notices once a heat that fails, if any, has posted HEAT_FAILED (R90). -/
def Live.heatNoticed (s : SlotId) (failing : Option (LaneId × Heat)) (l : Live) : Vector (Option Notice) 52 :=
  match failing with
  | some (i, _) => (l.postSlot s .heatFailed (.lane i)).notices
  | none => l.notices

theorem Live.failHeatOf_notices : (l.failHeatOf o k code).notices = l.heatNoticed o.slot (o.heat? l) := by
  unfold Order.heat? Live.failHeatOf
  cases lane : o.heatLane? with
  | none => rfl
  | some i =>
    dsimp only
    rw [Option.bind_some]
    cases e : l.lanes[i].heatOn o.slot with
    | none => rw [Live.failHeat_elsewhere e]; rfl
    | some g => exact Live.failHeat_notices e

end FailHeat

/-! ### The end of an order in flight with its slot (R52) -/

section LoseOrder

variable {c : Setup} {l : Live} {t : Taking} {o : Order} {k : LossCause} {code : Option Nat} {w : DoneCause} {i : LaneId}

/-- The live state in which an order under its operation is lost, before its units return. -/
def Live.lostUnder (o : Order) (k : LossCause) (code : Option Nat) (l : Live) : Live :=
  ((({ l with holes := l.holesEdited o (Hole.uncertain o) } : Live).failHeatOf o k code).dropRivetOf o).endUnclamp o

/-- An order whose message is sent is lost under its operation (R52). -/
theorem Taking.loseOrder_operating (sent : o.unsent = false) (operating : o.operating = true) :
    t.loseOrder c o k code w = ((t.on (Live.lostUnder o k code)).returnUnits o).leave c o .failed (some k.asDone) none := by
  have edits : (fun l : Live => (((match o.kind, o.target with
      | .heat, .lane i => (match o.hole? with
        | some h => l.updHole h (Hole.uncertain o)
        | none => l).failHeat o.slot i k code
      | _, _ => (match o.hole? with
        | some h => l.updHole h (Hole.uncertain o)
        | none => l)).dropRivetOf o).endUnclamp o : Live)) = Live.lostUnder o k code := by
    funext l
    exact (congrArg (fun x : Live => ((match o.kind, o.target with
      | .heat, .lane i => x.failHeat o.slot i k code
      | _, _ => x).dropRivetOf o).endUnclamp o) (Live.editHole_eq o (Hole.uncertain o) l)).trans
      (congrArg (fun x : Live => (x.dropRivetOf o).endUnclamp o) Live.failHeatOf_eq)
  unfold Taking.loseOrder
  rw [if_neg (by simp [sent]), if_pos operating]
  exact congrArg (fun g : Live → Live => ((t.on g).returnUnits o).leave c o .failed (some k.asDone) none) edits

/-- An order in travel whose message is sent is lost (R52). -/
theorem Taking.loseOrder_travelling (sent : o.unsent = false) (travelling : o.operating = false) :
    t.loseOrder c o k code w = (t.on (Live.setTravel o.slot none)).leave c o .failed (some k.asDone) none := by
  unfold Taking.loseOrder
  rw [if_neg (by simp [sent]), if_neg (by simp [travelling])]

/-- An order whose message is unsent is withdrawn (R52, R47). -/
theorem Taking.loseOrder_unsent (unsent : o.unsent = true) :
    t.loseOrder c o k code w = (t.undoUnsent c o).withdraw c o w := if_pos unsent

theorem Live.lostUnder_hole? (n : Nat) : (l.lostUnder o k code).hole? n =
    if o.hole? = some n then (l.hole? n).map (Hole.uncertain o) else l.hole? n := by
  refine Live.holesEdited_hole? ?_
  unfold Live.lostUnder
  rw [Live.endUnclamp_holes, Live.dropRivetOf_holes, Live.failHeatOf_keeps Live.holes (by simp)]

theorem Live.lostUnder_lane : (l.lostUnder o k code).lanes[i] = { (l.failHeatOf o k code).lanes[i] with
    stock := if rivetIn o i = true then stockWithout o.tag l.lanes[i].stock else l.lanes[i].stock } := by
  have lanes : (({ l with holes := l.holesEdited o (Hole.uncertain o) } : Live).failHeatOf o k code).lanes =
      (l.failHeatOf o k code).lanes := Live.failHeatOf_lanes_congr rfl
  unfold Live.lostUnder
  simp only [Live.endUnclamp_lanes]
  rw [Live.dropRivetOf_lane]
  simp only [lanes, Live.failHeatOf_stock]

theorem Live.lostUnder_zone (z : ZoneId) : (l.lostUnder o k code).zones[z] =
    if o.kind = .unclamp ∧ o.target = .zone z then { l.zones[z] with expected := false } else l.zones[z] := by
  unfold Live.lostUnder
  rw [Live.endUnclamp_zone]
  simp only [Live.dropRivetOf_zones, Live.failHeatOf_keeps Live.zones (by simp)]

theorem Live.lostUnder_notices : (l.lostUnder o k code).notices = l.heatNoticed o.slot (o.heat? l) := by
  unfold Live.lostUnder
  rw [Live.endUnclamp_notices, Live.dropRivetOf_notices, Live.failHeatOf_notices]
  rfl

/-- What the loss of an order under its operation keeps. -/
theorem Live.lostUnder_keeps {α : Type} (f : Live → α) (holes : ∀ (l : Live) (x : List Hole), f { l with holes := x } = f l)
    (lanes : ∀ (l : Live) (x : Vector Lane 2), f { l with lanes := x } = f l)
    (zones : ∀ (l : Live) (x : Vector Zone 8), f { l with zones := x } = f l)
    (fails : ∀ (l : Live) (i : LaneId), f (l.failHeat o.slot i k code) = f l) : f (l.lostUnder o k code) = f l := by
  unfold Live.lostUnder
  rw [Live.endUnclamp_eq, zones, Live.dropRivetOf_eq, lanes, Live.failHeatOf_keeps f (fails _), holes]

/-- The order leaves with its ORDER DONE (R52, R44). -/
theorem Taking.loseOrder_tells (placed : t.holdDones = false) : (t.loseOrder c o k code w).live.order? o.tag = none
    ∧ ∃ d, Says (t.loseOrder c o k code w).live (.orderDone d) ∧ d.tag = o.tag
      ∧ (if o.unsent = true then d.outcome = .withdrawn ∧ d.cause = some w
        else d.outcome = .failed ∧ d.cause = some k.asDone) := by
  cases sent : o.unsent with
  | true =>
    rw [Taking.loseOrder_unsent sent]
    obtain ⟨gone, d, said, tag, -, -, outcome, cause, -⟩ :=
      Taking.leave_tells (c := c) (o := o) (t := t.undoUnsent c o) (by simpa) .withdrawn (some w) none
    exact ⟨gone, d, said, tag, outcome, cause⟩
  | false =>
    cases operating : o.operating with
    | true =>
      rw [Taking.loseOrder_operating sent operating]
      obtain ⟨gone, d, said, tag, -, -, outcome, cause, -⟩ := Taking.leave_tells (c := c) (o := o)
        (t := (t.on (Live.lostUnder o k code)).returnUnits o) (by simpa) .failed (some k.asDone) none
      exact ⟨gone, d, said, tag, outcome, cause⟩
    | false =>
      rw [Taking.loseOrder_travelling sent operating]
      obtain ⟨gone, d, said, tag, -, -, outcome, cause, -⟩ := Taking.leave_tells (c := c) (o := o)
        (t := t.on (Live.setTravel o.slot none)) placed .failed (some k.asDone) none
      exact ⟨gone, d, said, tag, outcome, cause⟩

/-- The record of every other order stands. -/
theorem Taking.loseOrder_order?_other {tag : Nat} (other : tag ≠ o.tag) :
    (t.loseOrder c o k code w).live.order? tag = t.live.order? tag := by
  cases sent : o.unsent with
  | true =>
    rw [Taking.loseOrder_unsent sent]
    exact (Live.order?_filter (Taking.leave_pool ..) other).trans (Live.order?_congr (Taking.undoUnsent_pool ..))
  | false =>
    cases operating : o.operating with
    | true =>
      rw [Taking.loseOrder_operating sent operating]
      refine (Live.order?_filter (Taking.leave_pool ..) other).trans (Live.order?_congr ?_)
      rw [Taking.returnUnits_live]
      exact Live.lostUnder_keeps Live.pool (fun _ _ => rfl) (fun _ _ => rfl) (fun _ _ => rfl) (by simp)
    | false =>
      rw [Taking.loseOrder_travelling sent operating]
      exact Live.order?_filter (Taking.leave_pool ..) other

theorem Taking.loseOrder_holdDones : (t.loseOrder c o k code w).holdDones = t.holdDones := by
  cases sent : o.unsent with
  | true =>
    rw [Taking.loseOrder_unsent sent]
    simp [Taking.withdraw]
  | false =>
    cases operating : o.operating with
    | true => simp [Taking.loseOrder_operating sent operating]
    | false => simp [Taking.loseOrder_travelling sent operating]

end LoseOrder

/-! ### The work in flight of a lost slot -/

/-- No hole, pump unit or stock has changed. -/
def Standing (l u : Live) : Prop :=
  (∀ n, u.hole? n = l.hole? n) ∧ u.unitsInUse = l.unitsInUse ∧ ∀ i : LaneId, u.lanes[i].stock = l.lanes[i].stock

/-- What the end of an order's operation has left of its hole, its pump units, its rivet and its zone's flag. -/
def OrderEnded (l : Live) (o : Order) (hole : Hole → Hole) (stock : LaneId → List Rivet → List Rivet) (u : Live) : Prop :=
  (∀ n, u.hole? n = if o.hole? = some n then (l.hole? n).map hole else l.hole? n)
    ∧ u.unitsInUse = l.unitsInUse - o.units.getD 0
    ∧ (∀ i : LaneId, u.lanes[i].stock = if rivetIn o i = true then stock i l.lanes[i].stock else l.lanes[i].stock)
    ∧ ∀ z : ZoneId, o.kind = .unclamp → o.target = .zone z → u.zones[z].expected = false

/-- The stock of a lane once the rivet of an order untouched at the loss of its slot is freed, or dropped with its heater (R94). -/
def stockGivenBack (c : Setup) (l : Live) (slot : SlotId) (tag : Nat) (i : LaneId) (stock : List Rivet) : List Rivet :=
  if c.tables.lanes[i].slot.any fun h => h == slot || !l.slots[h].state.joined then stockWithout tag stock
  else stockFreed tag stock

/-- What the loss of its slot leaves of an order in flight, by its message and its step (R52). -/
def OrderLost (c : Setup) (l : Live) (slot : SlotId) (o : Order) (u : Live) : Prop :=
  (o.unsent = false → o.operating = true → OrderEnded l o (Hole.uncertain o) (fun _ => stockWithout o.tag) u)
    ∧ (o.unsent = false → o.operating = false → Standing l u)
    ∧ (o.unsent = true → o.travelMark ≠ none → Standing l u)
    ∧ (o.unsent = true → o.travelMark = none →
        OrderEnded l o (Hole.returned o.before (o.holeClamped c l)) (stockGivenBack c l slot o.tag) u)

/-- What the loss of a slot leaves of its work in flight, before its zones and its lane (R52, R90). -/
structure WorkLost (c : Setup) (l : Live) (slot : SlotId) (cause : LossCause) (code : Option Nat) (u : Live) : Prop where
  heat : ∀ i : LaneId, u.lanes[i].heat = if heatCloses l slot i = true then l.lanes[i].heatOff slot else l.lanes[i].heat
  fault_kept : ∀ i : LaneId, (∀ g, failingHeat l slot ≠ some (i, g)) → u.lanes[i].fault = l.lanes[i].fault
  fault : ∀ (i : LaneId) g, failingHeat l slot = some (i, g) →
    u.lanes[i].fault = some { tag := g.tag, slot, cause, code, serial := g.serial }
  standing : (∀ tag, l.slots[slot].work = .order tag → l.orderOf? slot tag = none) → Standing l u
  order : ∀ tag o, l.slots[slot].work = .order tag → l.orderOf? slot tag = some o → OrderLost c l slot o u
  notices : u.notices = l.heatNoticed slot (failingHeat l slot)

section LoseWork

variable {c : Setup} {l : Live} {t : Taking} {o : Order} {s : SlotId} {k : LossCause} {code : Option Nat} {w : DoneCause}
  {i : LaneId} {tag : Nat}

theorem failingHeat_of_order (work : l.slots[s].work = .order tag) (found : l.orderOf? s tag = some o) :
    failingHeat l s = if o.operating = true ∧ o.unsent = false then o.heat? l else none := by
  obtain ⟨-, -, mine⟩ := Live.orderOf?_spec found
  unfold failingHeat Order.heat? Order.heatLane?
  rw [work]
  dsimp only
  rw [found, Option.bind_some, mine]
  split
  case h_1 i kind target =>
    simp only [kind, target, Option.bind_some]
    cases l.lanes[i].heatOn s with
    | none => simp
    | some g => simp
  case h_2 => simp

theorem heatCloses_of_order (work : l.slots[s].work = .order tag) (found : l.orderOf? s tag = some o) :
    heatCloses l s i = true ↔ (o.kind = .heat ∧ o.target = .lane i)
      ∧ (if o.unsent then o.travelMark.isNone else o.operating) = true := by
  unfold heatCloses
  rw [work]
  dsimp only
  rw [found]
  simp

/-- No order of the slot's is in flight: what its work leaves is what it leaves of the lanes and the notices. -/
theorem WorkLost.of_same (noOrder : ∀ tag, l.slots[s].work = .order tag → l.orderOf? s tag = none)
    (quiet : failingHeat l s = none) (open_ : ∀ i : LaneId, heatCloses l s i = false) {u : Live} (holes : u.holes = l.holes)
    (units : u.unitsInUse = l.unitsInUse) (lanes : u.lanes = l.lanes) (notices : u.notices = l.notices) :
    WorkLost c l s k code u where
  heat i := by rw [lanes, open_, if_neg Bool.false_ne_true]
  fault_kept i _ := by rw [lanes]
  fault i g failing := by rw [quiet] at failing; cases failing
  standing _ := ⟨fun _ => Live.hole?_congr holes, units, fun _ => by rw [lanes]⟩
  order tag o work found := by rw [noOrder tag work] at found; cases found
  notices := by rw [quiet]; exact notices

theorem Live.closeHeat_lane (j : LaneId) : (l.closeHeat s i).lanes[j] =
    if j = i then { l.lanes[j] with heat := l.lanes[j].heatOff s } else l.lanes[j] := by
  rw [Live.closeHeat_lanes, vmod_get]
  split
  case isTrue same => rw [same]
  case isFalse => rfl

/-- The heat that a lane's own work has on the slot, and whether it fails (R90). -/
theorem failingHeat_of_heat (work : l.slots[s].work = .heat i) : failingHeat l s =
    (l.lanes[i].heatOn s).bind fun g => if g.mark ≠ some .unsent then some (i, g) else none := by
  unfold failingHeat
  rw [work]

theorem heatCloses_of_heat (work : l.slots[s].work = .heat i) (j : LaneId) : heatCloses l s j = true ↔ j = i := by
  unfold heatCloses
  rw [work]
  exact beq_iff_eq.trans eq_comm

/-- A lane's own heat on the slot is lost (R90). -/
theorem Live.loseHeat_lost (work : l.slots[s].work = .heat i) (slots : Vector Slot 12) :
    WorkLost c l s k code (({ l with slots } : Live).loseHeat s i k code) := by
  have noOrder : ∀ tag o, l.slots[s].work = .order tag → l.orderOf? s tag = some o → ∀ p : Prop, p := fun tag o h => by
    rw [work] at h
    cases h
  have failing := failingHeat_of_heat work
  cases e : l.lanes[i].heatOn s with
  | none =>
    rw [Live.loseHeat_elsewhere (l := { l with slots }) e]
    rw [e, Option.bind_none] at failing
    refine ⟨fun j => ?_, fun _ _ => rfl, fun j g h => ?_, fun _ => ⟨fun _ => rfl, rfl, fun _ => rfl⟩,
      fun tag o h found => noOrder tag o h found _, by rw [failing]; rfl⟩
    · simp only [heatCloses_of_heat work]
      split
      case isTrue same => rw [same, Lane.heatOff_of_none e]
      case isFalse => rfl
    · rw [failing] at h
      cases h
  | some g =>
    rw [e, Option.bind_some] at failing
    by_cases unsent : g.mark = some .unsent
    · have closed : ({ l with slots } : Live).loseHeat s i k code = ({ l with slots } : Live).closeHeat s i := by
        unfold Live.loseHeat
        simp only [e, unsent, if_true]
      rw [if_neg (by simp [unsent])] at failing
      have lane := Live.closeHeat_lane (l := { l with slots }) (s := s) (i := i)
      rw [closed]
      refine ⟨fun j => ?_, fun j _ => ?_, fun j g h => ?_, fun _ => ⟨fun _ => rfl, rfl, fun j => ?_⟩,
        fun tag o h found => noOrder tag o h found _, by rw [failing]; rfl⟩
      · simp only [heatCloses_of_heat work, lane]
        split <;> rfl
      · rw [lane]
        split <;> rfl
      · rw [failing] at h
        cases h
      · rw [lane]
        split <;> rfl
    · have failed : ({ l with slots } : Live).loseHeat s i k code = ({ l with slots } : Live).failHeat s i k code := by
        unfold Live.loseHeat
        simp only [e, unsent, if_false]
      rw [if_pos unsent] at failing
      have lane := Live.failHeat_lane (l := { l with slots }) (k := k) (code := code) e
      rw [failed]
      refine ⟨fun j => ?_, fun j apart => ?_, fun j g h => ?_, fun _ => ⟨fun _ => Live.hole?_congr (by simp), by simp, fun j => ?_⟩,
        fun tag o h found => noOrder tag o h found _, ?_⟩
      · simp only [heatCloses_of_heat work, lane]
        split <;> rfl
      · rw [lane, if_neg]
        rintro rfl
        exact apart g failing
      · rw [failing] at h
        cases h
        rw [lane, if_pos rfl]
      · rw [lane]
        split <;> rfl
      · rw [failing]
        exact Live.failHeat_notices (l := { l with slots }) e

/-- The order in flight of a lost slot, `u` being what its end has left: its hole, units, rivet and flag by `OrderLost`, the
lanes' heats by whether the heat was its own, and HEAT_FAILED where that heat fails. -/
theorem WorkLost.of_order (work : l.slots[s].work = .order tag) (found : l.orderOf? s tag = some o) {u : Live}
    (lost : OrderLost c l s o u)
    (heat : ∀ i : LaneId, u.lanes[i].heat =
      if (o.kind = .heat ∧ o.target = .lane i) ∧ (if o.unsent then o.travelMark.isNone else o.operating) = true then
        l.lanes[i].heatOff s else l.lanes[i].heat)
    (kept : ∀ i : LaneId, (o.operating = true → o.unsent = false → ∀ g, o.heat? l ≠ some (i, g)) →
      u.lanes[i].fault = l.lanes[i].fault)
    (fault : ∀ (i : LaneId) g, o.operating = true → o.unsent = false → o.heat? l = some (i, g) →
      u.lanes[i].fault = some { tag := g.tag, slot := s, cause := k, code, serial := g.serial })
    (notices : u.notices = l.heatNoticed s (if o.operating = true ∧ o.unsent = false then o.heat? l else none)) :
    WorkLost c l s k code u := by
  have failing := failingHeat_of_order work found
  refine ⟨fun i => ?_, fun i apart => kept i fun operating sent g => ?_, fun i g h => ?_, fun noOrder => ?_,
    fun tag' o' work' found' => ?_, by rw [failing, notices]⟩
  · simp only [heat, heatCloses_of_order work found]
  · have := apart g
    rwa [failing, if_pos ⟨operating, sent⟩] at this
  · rw [failing] at h
    split at h
    case isTrue ends => exact fault i g ends.1 ends.2 h
    case isFalse => cases h
  · rw [noOrder tag work] at found
    cases found
  · rw [work] at work'
    cases work'
    rw [found] at found'
    cases found'
    exact lost

/-- What leaves the holes, the units, the lanes and the notices leaves the works of a slot as they stand. -/
theorem Standing.of_same {u : Live} (holes : u.holes = l.holes) (units : u.unitsInUse = l.unitsInUse) (lanes : u.lanes = l.lanes) :
    Standing l u := ⟨fun _ => Live.hole?_congr holes, units, fun _ => by rw [lanes]⟩

/-- An order in travel is lost with its slot: nothing is left of its travel (R52, R69). -/
theorem WorkLost.of_travel (work : l.slots[s].work = .order tag) (found : l.orderOf? s tag = some o) {u : Live}
    (travels : if o.unsent then o.travelMark ≠ none else o.operating = false) (holes : u.holes = l.holes)
    (units : u.unitsInUse = l.unitsInUse) (lanes : u.lanes = l.lanes) (notices : u.notices = l.notices) :
    WorkLost c l s k code u := by
  have standing : Standing l u := .of_same holes units lanes
  have idle : ¬ (o.operating = true ∧ o.unsent = false) := by
    rintro ⟨operating, sent⟩
    rw [if_neg (by simp [sent]), operating] at travels
    cases travels
  refine WorkLost.of_order work found ⟨fun sent operating => absurd ⟨operating, sent⟩ idle, fun _ _ => standing,
    fun _ _ => standing, fun unsent mark => ?_⟩ (fun i => ?_) (fun i _ => by rw [lanes])
    (fun i g operating sent => absurd ⟨operating, sent⟩ idle) ?_
  · rw [if_pos unsent] at travels
    exact absurd mark travels
  · rw [lanes, if_neg]
    rintro ⟨-, h⟩
    cases unsent : o.unsent <;> rw [unsent] at h travels
    · exact idle ⟨h, unsent⟩
    · exact travels (Option.isNone_iff_eq_none.1 h)
  · rw [if_neg idle, notices]
    rfl

/-- An unsent ISSUE taken back with its slot (R52, R47): the rivet is dropped where its heater is the slot (R94). -/
theorem Taking.loseOrder_issue_lost (work : l.slots[s].work = .order tag) (found : l.orderOf? s tag = some o)
    (unsent : o.unsent = true) (mark : o.travelMark = none) {slots : Vector Slot 12} (gone : slots[s].state.joined = false)
    (others : ∀ j, j ≠ s → slots[j] = l.slots[j]) (live : t.live = { l with slots }) :
    WorkLost c l s k code (t.loseOrder c o k code w).live := by
  obtain ⟨-, -, mine⟩ := Live.orderOf?_spec found
  have idle : ¬ (o.operating = true ∧ o.unsent = false) := fun h => nomatch unsent.symm.trans h.2
  have back : (t.undoUnsent c o).live = { ({ l with slots } : Live).unqueue o.slot (fun m => m.cls == 3) |>.undone c o with
      unitsInUse := l.unitsInUse - o.units.getD 0 } := by rw [Taking.undoUnsent_issue mark, live]
  rw [Taking.loseOrder_unsent unsent, Taking.withdraw]
  have lane (i : LaneId) : (t.undoUnsent c o).live.lanes[i] = _ :=
    (congrArg (fun l : Live => l.lanes[i]) back).trans (Live.undone_lane c o i _)
  refine WorkLost.of_order work found ⟨fun sent => (nomatch unsent.symm.trans sent), fun sent => (nomatch unsent.symm.trans sent),
    fun _ travels => absurd mark travels, fun _ _ => ⟨fun n => ?_, ?_, fun i => ?_, fun z kind target => ?_⟩⟩
    (fun i => ?_) (fun i _ => ?_) (fun i g _ sent => (nomatch unsent.symm.trans sent)) ?_
  · have edited := Live.holesEdited_hole? (n := n)
      (Live.undone_holes c o (({ l with slots } : Live).unqueue o.slot fun m => m.cls == 3))
    rw [Live.hole?_congr (Taking.leave_holes ..), back]
    exact edited
  · rw [Taking.leave_unitsInUse, back]
  · have heater : (fun j : SlotId => !slots[j].state.joined) = fun h => h == s || !l.slots[h].state.joined := by
      funext j
      by_cases same : j = s
      · subst same
        rw [gone, beq_self_eq_true]
        rfl
      · rw [others j same, beq_eq_false_iff_ne.2 same]
        rfl
    rw [Taking.leave_lanes, lane, stockGivenBack, ← heater]
    rfl
  · rw [Taking.leave_zones, back]
    refine (congrArg Zone.expected (Live.undone_zone c o z _)).trans ?_
    rw [if_pos ⟨kind, target⟩]
  · rw [Taking.leave_lanes, lane]
    simp only [unsent, mark, if_true, mine, Option.isNone_none, and_true]
    rfl
  · rw [Taking.leave_lanes, lane]
    rfl
  · rw [Taking.leave_notices, back, if_neg idle]
    exact Live.undone_keeps Live.notices (fun _ _ => rfl) (fun _ _ => rfl) (fun _ _ => rfl) c o _

/-- An order lost under its operation (R52, R19, R74, R90, R94, R106). -/
theorem Taking.loseOrder_operating_lost (work : l.slots[s].work = .order tag) (found : l.orderOf? s tag = some o)
    (sent : o.unsent = false) (operating : o.operating = true) {slots : Vector Slot 12} (live : t.live = { l with slots }) :
    WorkLost c l s k code (t.loseOrder c o k code w).live := by
  obtain ⟨-, -, mine⟩ := Live.orderOf?_spec found
  have lane (i : LaneId) : (t.live.lostUnder o k code).lanes[i] = { (l.failHeatOf o k code).lanes[i] with
      stock := if rivetIn o i = true then stockWithout o.tag l.lanes[i].stock else l.lanes[i].stock } := by
    rw [Live.lostUnder_lane, live]
    simp only [Live.failHeatOf_lanes_congr (l := l) (l' := { l with slots }) rfl]
  rw [Taking.loseOrder_operating sent operating]
  refine WorkLost.of_order work found ⟨fun _ _ => ⟨fun n => ?_, ?_, fun i => ?_, fun z kind target => ?_⟩,
    fun _ idle => (nomatch operating.symm.trans idle), fun unsent => (nomatch unsent.symm.trans sent),
    fun unsent => (nomatch unsent.symm.trans sent)⟩ (fun i => ?_) (fun i apart => ?_) (fun i g _ _ heat => ?_) ?_
  · rw [Live.hole?_congr (Taking.leave_holes ..), Taking.returnUnits_live]
    refine (Live.lostUnder_hole? (l := t.live) n).trans ?_
    rw [live]
    rfl
  · rw [Taking.leave_unitsInUse, Taking.returnUnits_live, Taking.on_live, Live.lostUnder_keeps Live.unitsInUse (fun _ _ => rfl)
      (fun _ _ => rfl) (fun _ _ => rfl) (by simp), live]
  · rw [Taking.leave_lanes, Taking.returnUnits_live, Taking.on_live, lane]
  · rw [Taking.leave_zones, Taking.returnUnits_live, Taking.on_live, Live.lostUnder_zone, if_pos ⟨kind, target⟩]
  · rw [Taking.leave_lanes, Taking.returnUnits_live, Taking.on_live, lane]
    simp only [sent, operating, and_true, Bool.false_eq_true, if_false, Live.failHeatOf_heat, mine]
  · rw [Taking.leave_lanes, Taking.returnUnits_live, Taking.on_live, lane]
    exact Live.failHeatOf_fault_kept i (apart operating sent)
  · rw [Taking.leave_lanes, Taking.returnUnits_live, Taking.on_live, lane]
    exact (Live.failHeatOf_fault heat).trans (by rw [mine])
  · rw [Taking.leave_notices, Taking.returnUnits_live, Taking.on_live, Live.lostUnder_notices, if_pos ⟨operating, sent⟩, live, mine]
    rfl

/-- The work in flight of a lost slot, once its record says that the slot is gone (R127 step 3, R129 step 3). -/
theorem Taking.loseWork_lost (c : Setup) (k : LossCause) (code : Option Nat) (w : DoneCause) (t : Taking)
    {slots : Vector Slot 12} (gone : slots[s].state.joined = false) (others : ∀ j, j ≠ s → slots[j] = t.live.slots[j]) :
    WorkLost c t.live s k code ((t.on fun l => { l with slots }).loseWork c s t.live.slots[s].work k code w).live := by
  unfold Taking.loseWork
  cases work : t.live.slots[s].work with
  | idle =>
    refine WorkLost.of_same (fun tag h => ?_) ?_ (fun i => ?_) rfl rfl rfl rfl
    · rw [work] at h
      cases h
    · unfold failingHeat
      rw [work]
    · unfold heatCloses
      rw [work]
  | heat i => exact Live.loseHeat_lost work slots
  | order tag =>
    dsimp only
    rw [show (t.on fun l => { l with slots }).live.orderOf? s tag = t.live.orderOf? s tag from rfl]
    cases found : t.live.orderOf? s tag with
    | none =>
      refine WorkLost.of_same (fun tag' h => ?_) ?_ (fun i => ?_) rfl rfl rfl rfl
      · rw [work] at h
        cases h
        exact found
      · unfold failingHeat
        rw [work]
        dsimp only
        rw [found]
        rfl
      · unfold heatCloses
        rw [work]
        dsimp only
        rw [found]
        rfl
    | some o =>
      dsimp only
      cases sent : o.unsent with
      | true =>
        by_cases mark : o.travelMark = none
        · exact Taking.loseOrder_issue_lost work found sent mark gone others rfl
        · rw [Taking.loseOrder_unsent sent, Taking.withdraw]
          obtain ⟨holdings, travels, live, -⟩ :=
            ((t.on fun l => { l with slots }).on (Live.unqueue o.slot fun m => m.cls == 3)).restoreTravel_live o.slot
          refine WorkLost.of_travel work found (by rwa [if_pos sent]) ?_ ?_ ?_ ?_
          · rw [Taking.leave_holes, Taking.undoUnsent_travel mark, live]
            rfl
          · rw [Taking.leave_unitsInUse, Taking.undoUnsent_travel mark, live]
            rfl
          · rw [Taking.leave_lanes, Taking.undoUnsent_travel mark, live]
            rfl
          · rw [Taking.leave_notices, Taking.undoUnsent_travel mark, live]
            rfl
      | false =>
        cases operating : o.operating with
        | true => exact Taking.loseOrder_operating_lost work found sent operating rfl
        | false =>
          rw [Taking.loseOrder_travelling sent operating]
          refine WorkLost.of_travel work found (by rwa [if_neg (by simp [sent])]) ?_ ?_ ?_ ?_
          · rw [Taking.leave_holes]; rfl
          · rw [Taking.leave_unitsInUse]; rfl
          · rw [Taking.leave_lanes]; rfl
          · rw [Taking.leave_notices]; rfl

end LoseWork

end Sys2Proof.Machine
end

section
/-! PROOFS. The orders and the zones of a lost slot (R53, R107 to R109). -/

namespace Sys2Proof.Machine

open Sys2Proof.Safety

/-! ### What the end of a lost slot's work leaves of the rest -/

section LoseOrder

variable {c : Setup} {t : Taking} {k : LossCause} {code : Option Nat} {w : DoneCause} {o : Order}

/-- Taking back an unsent message sets no zone's flag. -/
theorem Taking.undoUnsent_flag (z : ZoneId) (clear : t.live.zones[z].expected = false) :
    (t.undoUnsent c o).live.zones[z].expected = false := by
  by_cases mark : o.travelMark = none
  · rw [Taking.undoUnsent_issue mark]
    refine (congrArg Zone.expected (Live.undone_zone c o z _)).trans ?_
    split
    · rfl
    · exact clear
  · obtain ⟨holdings, travels, live, -⟩ :=
      (t.on (Live.unqueue o.slot fun m => m.cls == 3)).restoreTravel_live o.slot
    rw [Taking.undoUnsent_travel mark, live]
    exact clear

/-- The end of an order with its slot changes no holding but by taking back an unsent TRAVEL (R52, R69). -/
theorem Taking.loseOrder_holdings (stays : o.unsent = false ∨ o.travelMark = none) :
    (t.loseOrder c o k code w).live.holdings = t.live.holdings := by
  cases sent : o.unsent with
  | true =>
    have mark : o.travelMark = none := stays.resolve_left (by simp [sent])
    rw [Taking.loseOrder_unsent sent, Taking.withdraw, Taking.leave_holdings, Taking.undoUnsent_issue mark]
    exact Live.undone_keeps Live.holdings (fun _ _ => rfl) (fun _ _ => rfl) (fun _ _ => rfl) c o _
  | false =>
    cases operating : o.operating with
    | true =>
      rw [Taking.loseOrder_operating sent operating, Taking.leave_holdings, Taking.returnUnits_live]
      exact Live.lostUnder_keeps Live.holdings (fun _ _ => rfl) (fun _ _ => rfl) (fun _ _ => rfl) (by simp)
    | false =>
      rw [Taking.loseOrder_travelling sent operating, Taking.leave_holdings]
      rfl

/-- An unsent TRAVEL taken back with its slot restores the holding (R69). -/
theorem Taking.loseOrder_restores (unsent : o.unsent = true) (mark : o.travelMark ≠ none) {v : Travel} {g : Holding}
    (travel : t.live.travels[o.slot] = some v) (holding : t.live.holdings[o.slot] = some g) :
    (t.loseOrder c o k code w).live.holdings[o.slot] = some { rail := g.rail, run := v.former } := by
  obtain ⟨holdings, travels, live, restored⟩ :=
    (t.on (Live.unqueue o.slot fun m => m.cls == 3)).restoreTravel_live o.slot
  rw [Taking.loseOrder_unsent unsent, Taking.withdraw, Taking.leave_holdings, Taking.undoUnsent_travel mark, live]
  exact (restored v g travel holding).1

end LoseOrder

section LoseWork

variable {c : Setup} {t : Taking} {s : SlotId} {k : LossCause} {code : Option Nat} {w : DoneCause} {o : Order} {work : Work}

/-- The loss of the work ends its order in flight, or is one of a lane's heat. -/
theorem Taking.loseWork_rel {r : Taking → Taking → Prop} (same : r t t) (heat : ∀ i, r t (t.on (Live.loseHeat s i k code)))
    (order : ∀ tag o, work = .order tag → t.live.orderOf? s tag = some o → r t (t.loseOrder c o k code w)) :
    r t (t.loseWork c s work k code w) := by
  unfold Taking.loseWork
  cases work with
  | idle => exact same
  | heat i => exact heat i
  | order tag =>
    dsimp only
    split
    case h_1 => exact same
    case h_2 o found => exact order tag o rfl found

/-- The record of an order that is not the slot's own in flight stands. -/
theorem Taking.loseWork_order?_other {tag : Nat} (other : work = .order tag → t.live.orderOf? s tag = none) :
    (t.loseWork c s work k code w).live.order? tag = t.live.order? tag := by
  refine Taking.loseWork_rel (r := fun t u => u.live.order? tag = t.live.order? tag) rfl
    (fun i => Live.order?_congr (by simp)) fun tag' o order found => Taking.loseOrder_order?_other ?_
  rintro rfl
  obtain ⟨-, rfl, -⟩ := Live.orderOf?_spec found
  rw [other order] at found
  cases found

theorem Taking.loseWork_holdDones : (t.loseWork c s work k code w).holdDones = t.holdDones :=
  Taking.loseWork_rel (r := fun t u => u.holdDones = t.holdDones) rfl (fun _ => rfl) fun _ _ _ _ => Taking.loseOrder_holdDones

/-- The slot's own order in flight leaves with its ORDER DONE (R52). -/
theorem Taking.loseWork_tells {tag : Nat} (order : work = .order tag) (found : t.live.orderOf? s tag = some o)
    (placed : t.holdDones = false) : (t.loseWork c s work k code w).live.order? tag = none
      ∧ ∃ d, Says (t.loseWork c s work k code w).live (.orderDone d) ∧ d.tag = tag
        ∧ (if o.unsent = true then d.outcome = .withdrawn ∧ d.cause = some w
          else d.outcome = .failed ∧ d.cause = some k.asDone) := by
  obtain ⟨-, rfl, -⟩ := Live.orderOf?_spec found
  subst order
  have lost : t.loseWork c s (.order o.tag) k code w = t.loseOrder c o k code w := by
    unfold Taking.loseWork
    dsimp only
    rw [found]
  rw [lost]
  exact Taking.loseOrder_tells placed

/-- The holdings stand but where an unsent TRAVEL is taken back. -/
theorem Taking.loseWork_holdings
    (stays : ∀ tag o, work = .order tag → t.live.orderOf? s tag = some o → o.unsent = false ∨ o.travelMark = none) :
    (t.loseWork c s work k code w).live.holdings = t.live.holdings :=
  Taking.loseWork_rel (r := fun t u => u.live.holdings = t.live.holdings) rfl (fun i => by simp)
    fun tag o order found => Taking.loseOrder_holdings (stays tag o order found)

end LoseWork

/-! ### The zones of a lost slot (R109, R107) -/

section Zones

variable {c : Setup} {l l' : Live} {s : SlotId} {z : ZoneId} {n : Nat}

theorem clampedOf_zonesOf : clampedOf (l.zonesOf c s) = (List.finRange 8).filter (ownClamped c l s) := by
  unfold clampedOf Live.zonesOf ownClamped allZones
  rw [List.filter_map, List.map_map, List.filter_filter]
  simp [Function.comp_def, Bool.and_comm]

theorem clampLostOf_zonesOf : clampLostOf (l.zonesOf c s) = (List.finRange 8).filter (ownLost c l s) := by
  unfold clampLostOf Live.zonesOf ownLost ownClamped allZones
  rw [List.filter_map, List.map_map, List.filter_filter]
  simp [Function.comp_def, Bool.and_comm, Bool.and_assoc, Bool.and_left_comm]

theorem clampedOf_contains : (clampedOf (l.zonesOf c s)).contains = ownClamped c l s := by
  funext z
  rw [clampedOf_zonesOf, Bool.eq_iff_iff]
  simp

theorem clampLostOf_contains : (clampLostOf (l.zonesOf c s)).contains = ownLost c l s := by
  funext z
  rw [clampLostOf_zonesOf, Bool.eq_iff_iff]
  simp

/-- The zone is mapped to the slot. -/
def Setup.zoneOf (c : Setup) (s : SlotId) (z : ZoneId) : Bool := (c.tables.zones[z]).any fun m => m.slot == s

theorem Setup.zoneOf_iff : c.zoneOf s z = true ↔ ∃ m, c.tables.zones[z] = some m ∧ m.slot = s := by
  unfold Setup.zoneOf
  simp [Option.any_eq_true]

theorem mem_zonesOf : z ∈ (l.zonesOf c s).map Prod.fst ↔ c.zoneOf s z = true := by
  unfold Live.zonesOf allZones
  rw [List.map_map, show (Prod.fst ∘ fun z => (z, l.zones[z])) = id from rfl, List.map_id, List.mem_filter]
  exact and_iff_right (List.mem_finRange z)

/-- The records of the zones of a lost module (R109). -/
def Live.zonesUnknown (zones : List (ZoneId × Zone)) (l : Live) : Live :=
  zones.foldl (fun l z => l.updZone z.1 fun _ => { state := .unknown, expected := false }) l

theorem Live.zonesUnknown_zone (zones : List (ZoneId × Zone)) : (l.zonesUnknown zones).zones[z] =
    if z ∈ zones.map Prod.fst then { state := .unknown, expected := false } else l.zones[z] := by
  unfold Live.zonesUnknown
  induction zones generalizing l with
  | nil => rfl
  | cons y zones ih =>
    rw [List.foldl_cons, ih, Live.updZone_zones, vmod_get, List.map_cons]
    by_cases later : z ∈ zones.map Prod.fst
    · rw [if_pos later, if_pos (List.mem_cons_of_mem _ later)]
    · rw [if_neg later]
      by_cases now : z = y.1
      · rw [if_pos now, if_pos (now ▸ List.mem_cons_self)]
      · rw [if_neg now, if_neg fun h => (List.mem_cons.1 h).elim now later]

theorem Live.zonesUnknown_holes (zones : List (ZoneId × Zone)) : (l.zonesUnknown zones).holes = l.holes := by
  unfold Live.zonesUnknown
  induction zones generalizing l with
  | nil => rfl
  | cons y zones ih => rw [List.foldl_cons, ih, Live.updZone_holes]

/-- The zones of a lost module, read as the loss found them in `l'`. -/
theorem Live.zonesGone_zone : (l.zonesGone c (l'.zonesOf c s)).zones[z] =
    if c.zoneOf s z = true then { state := .unknown, expected := false } else l.zones[z] := by
  refine (congrArg (fun v : Vector Zone 8 => v[z]) (Taking.sweepZones_keeps Live.zones (by simp) _ _)).trans ?_
  refine (Live.zonesUnknown_zone _).trans ?_
  simp only [mem_zonesOf]

/-- The holes of a lost module's zones (R109, R20). -/
theorem Live.zonesGone_hole? : (l.zonesGone c (l'.zonesOf c s)).hole? n =
    (l.hole? n).map (sweptIn c (ownClamped c l' s) n) := by
  refine (Live.sweepZones_hole? c _ n _).trans ?_
  rw [clampedOf_contains]
  exact congrArg _ (Live.hole?_congr (Live.zonesUnknown_holes _))

end Zones

/-! ### The orders that a loss takes (R53, R108) -/

section LossOrder

variable {c : Setup} {l : Live} {s : SlotId} {zones : List ZoneId} {b : Bool} {o : Order}

/-- The orders that a loss takes, in the order of arrival. -/
def Live.lossOthers (c : Setup) (s : SlotId) (zones : List ZoneId) (l : Live) : List Order :=
  l.pool.filter fun o => (o.slot == s && o.state == .waiting) || (l.workOfZones c zones).contains o.tag

/-- One of them at most goes ahead of its turn. -/
theorem Live.lossOrder_eq : l.lossOrder c s zones b = (l.lossOthers c s zones).map Order.tag
    ∨ ∃ q ∈ l.lossOthers c s zones,
      l.lossOrder c s zones b = q.tag :: ((l.lossOthers c s zones).map Order.tag).filter (· != q.tag) := by
  unfold Live.lossOrder
  dsimp only
  split
  case h_1 q e =>
    right
    cases b with
    | true => cases e
    | false => exact ⟨q, List.mem_of_find?_eq_some e, rfl⟩
  case h_2 => exact .inl rfl

theorem Live.lossOrder_nodup (unique : (l.pool.map Order.tag).Nodup) : (l.lossOrder c s zones b).Nodup := by
  have others : ((l.lossOthers c s zones).map Order.tag).Nodup := unique.sublist (List.filter_sublist.map _)
  obtain e | ⟨q, -, e⟩ := Live.lossOrder_eq (c := c) (l := l) (s := s) (zones := zones) (b := b)
  · rwa [e]
  · rw [e, List.nodup_cons]
    exact ⟨by simp, others.filter _⟩

theorem Live.mem_lossOrder {tag : Nat} :
    tag ∈ l.lossOrder c s zones b ↔ tag ∈ (l.lossOthers c s zones).map Order.tag := by
  obtain e | ⟨q, mq, e⟩ := Live.lossOrder_eq (c := c) (l := l) (s := s) (zones := zones) (b := b)
  · rw [e]
  · rw [e, List.mem_cons, List.mem_filter]
    by_cases same : tag = q.tag
    · exact ⟨fun _ => same ▸ List.mem_map_of_mem mq, fun _ => .inl same⟩
    · simp [same]

/-- The orders that a loss takes are the slot's waiting ones and those at work in the zones that lose their clamp. -/
theorem Live.mem_lossOrder_iff (unique : (l.pool.map Order.tag).Nodup) (m : o ∈ l.pool) :
    o.tag ∈ l.lossOrder c s zones b ↔ (o.slot = s ∧ o.state = .waiting) ∨ worksIn c zones.contains o = true := by
  have met (o : Order) (m : o ∈ l.pool) : o ∈ l.lossOthers c s zones ↔
      (o.slot = s ∧ o.state = .waiting) ∨ worksIn c zones.contains o = true := by
    unfold Live.lossOthers
    rw [List.mem_filter, ← mem_workOfZones unique m]
    simp [m]
  rw [Live.mem_lossOrder, List.mem_map, ← met o m]
  refine ⟨fun ⟨q, mq, same⟩ => ?_, fun h => ⟨o, h, rfl⟩⟩
  rwa [← List.inj_on_of_nodup_map unique (List.mem_filter.1 mq).1 m same]

end LossOrder

/-! ### Orders met as they stand -/

section Found

variable {f : Taking → Order → Taking} {t : Taking} {tags : List Nat}

/-- A relation that every step keeps whose order is met as it stands in the pool at first. -/
theorem Taking.each_rel_found (keeps : Keeps f) (own : OwnOnly f) (nodup : tags.Nodup) {r : Taking → Taking → Prop}
    (refl : ∀ t, r t t) (trans : ∀ a b c, r a b → r b c → r a c)
    (step : ∀ u o, t.live.order? o.tag = some o → o.tag ∈ tags → r u (f u o)) : r t (t.each f tags) := by
  induction tags generalizing t with
  | nil => exact refl t
  | cons tag tags ih =>
    obtain ⟨fresh, nodup⟩ := List.nodup_cons.1 nodup
    rw [Taking.each_cons]
    refine trans _ _ _ ?_ (ih nodup fun u o found inTags => step u o ?_ (List.mem_cons_of_mem _ inTags))
    · cases found : t.live.order? tag with
      | none =>
        rw [Taking.each_absent found]
        exact refl t
      | some o =>
        have named := Live.order?_tag found
        rw [Taking.each_one found]
        exact step t o (named ▸ found) (named ▸ List.mem_cons_self)
    · have other : o.tag ∉ [tag] := fun h => fresh (List.mem_singleton.1 h ▸ inTags)
      rwa [Taking.each_order?_other keeps own other] at found

end Found

end Sys2Proof.Machine
end

section
/-! PROOFS. The loss of a slot: its work, its zones and the orders it takes (R127 steps 3 and 4, R129 steps 3 and 4). -/

namespace Sys2Proof.Machine

open Sys2Proof.Safety

/-! ### The loss, step by step -/

section Steps

variable (c : Setup) (s : SlotId) (slots : Vector Slot 12) (k : LossCause) (code : Option Nat) (d : DoneCause) (t : Taking)

/-- One order that a loss takes: a waiting one of the slot is withdrawn, one in flight aborted (R53, R108). -/
def lossStep (t : Taking) (o : Order) : Taking :=
  if o.slot = s ∧ o.state = .waiting then t.withdraw c o d else if o.abortable then t.abort c o .clampLost else t

/-- The slot's record gone and its work in flight ended. -/
def Taking.lossWorked : Taking :=
  (t.on fun l => { l with slots }).loseWork c s t.live.slots[s].work k code d

/-- Its zones UNKNOWN and swept. -/
def Taking.lossSwept : Taking := (t.lossWorked c s slots k code d).on (Live.zonesGone c (t.live.zonesOf c s))

/-- The orders that the loss takes then. -/
def Taking.lossTags : List Nat :=
  (t.lossSwept c s slots k code d).live.lossOrder c s (clampLostOf (t.live.zonesOf c s))
    (t.live.ownOrder s t.live.slots[s].work)

/-- Those orders withdrawn and aborted. -/
def Taking.lossTaken : Taking := (t.lossSwept c s slots k code d).each (lossStep c s d) (t.lossTags c s slots k code d)

/-- The steps above are the loss of a slot's work, zones and orders as the model takes it. -/
theorem Taking.lossTaken_eq : (t.lossWorked c s slots k code d).ordersLost c s (t.live.zonesOf c s) d
    (t.live.ownOrder s t.live.slots[s].work) = t.lossTaken c s slots k code d := rfl

theorem lossStep_ends : Ends c (lossStep c s d) := by
  intro t o
  unfold lossStep
  split
  · exact .inr (.inr ⟨d, rfl⟩)
  · split
    · exact .inr (.inl rfl)
    · exact .inl rfl

/-- The order is one of another slot's at work in a zone of the slot's own that loses its clamp (R109, R108). -/
def lossHit (l : Live) (o : Order) : Bool := worksIn c (ownLost c l s) o && o.slot != s

end Steps

/-- A slot is being lost: its record says so, and no other record has changed. -/
structure LossOf (s : SlotId) (slots : Vector Slot 12) (t : Taking) : Prop where
  unique : (t.live.pool.map Order.tag).Nodup
  placed : t.holdDones = false
  gone : slots[s].state.joined = false
  others : ∀ j, j ≠ s → slots[j] = t.live.slots[j]

section Loss

variable {c : Setup} {s : SlotId} {slots : Vector Slot 12} {k : LossCause} {code : Option Nat} {d : DoneCause} {t : Taking}
  {o : Order} {z : ZoneId} {n : Nat}

/-! ### As the loss begins to take orders -/

theorem LossOf.worked (h : LossOf s slots t) : WorkLost c t.live s k code (t.lossWorked c s slots k code d).live :=
  Taking.loseWork_lost c k code d t h.gone h.others

theorem Taking.lossSwept_keeps {α : Type} (f : Live → α) (h : ∀ (l : Live) (z : ZoneId), f (l.sweep c z) = f l)
    (g : ∀ (l : Live) (z : ZoneId) (x : Zone → Zone), f (l.updZone z x) = f l) :
    f (t.lossSwept c s slots k code d).live = f (t.lossWorked c s slots k code d).live := zonesGone_keeps f h g _ _

theorem Taking.lossSwept_pool : (t.lossSwept c s slots k code d).live.pool.Sublist t.live.pool := by
  rw [Taking.lossSwept_keeps Live.pool (by simp) (by simp)]
  exact loseWork_pool

theorem Taking.lossSwept_slots : (t.lossSwept c s slots k code d).live.slots = slots := by
  rw [Taking.lossSwept_keeps Live.slots (by simp) (by simp)]
  exact loseWork_slots

/-- The record of an order that is not the slot's own in flight. -/
theorem LossOf.found (h : LossOf s slots t) (m : o ∈ t.live.pool) (other : o.slot = s → t.live.slots[s].work ≠ .order o.tag) :
    (t.lossSwept c s slots k code d).live.order? o.tag = some o := by
  have pool := Taking.lossSwept_keeps (c := c) (s := s) (slots := slots) (k := k) (code := code) (d := d) (t := t) Live.pool
    (by simp) (by simp)
  rw [Live.order?_congr pool]
  refine (Taking.loseWork_order?_other fun own => ?_).trans (Live.order?_of_mem h.unique m)
  cases found : (t.on fun l => { l with slots }).live.orderOf? s o.tag with
  | none => rfl
  | some q =>
    obtain ⟨mq, tag, slot⟩ := Live.orderOf?_spec found
    cases List.inj_on_of_nodup_map h.unique mq m tag
    exact absurd own (other slot)

theorem Taking.lossSwept_zone_own (own : c.zoneOf s z = true) :
    (t.lossSwept c s slots k code d).live.zones[z] = { state := .unknown, expected := false } := by
  refine (Live.zonesGone_zone (l := (t.lossWorked c s slots k code d).live)).trans ?_
  rw [if_pos own]

theorem Taking.lossSwept_flag (clear : (t.lossWorked c s slots k code d).live.zones[z].expected = false) :
    (t.lossSwept c s slots k code d).live.zones[z].expected = false := by
  refine (congrArg Zone.expected (Live.zonesGone_zone (l := (t.lossWorked c s slots k code d).live))).trans ?_
  split
  · rfl
  · exact clear

theorem Taking.lossSwept_hole? : (t.lossSwept c s slots k code d).live.hole? n =
    ((t.lossWorked c s slots k code d).live.hole? n).map (sweptIn c (ownClamped c t.live s) n) :=
  Live.zonesGone_hole?

theorem LossOf.unique_swept (h : LossOf s slots t) : ((t.lossSwept c s slots k code d).live.pool.map Order.tag).Nodup :=
  h.unique.sublist (Taking.lossSwept_pool.map _)

theorem LossOf.nodup (h : LossOf s slots t) : (t.lossTags c s slots k code d).Nodup := Live.lossOrder_nodup h.unique_swept

theorem LossOf.mem_tags (h : LossOf s slots t) (m : o ∈ (t.lossSwept c s slots k code d).live.pool) :
    o.tag ∈ t.lossTags c s slots k code d ↔ (o.slot = s ∧ o.state = .waiting) ∨ worksIn c (ownLost c t.live s) o = true := by
  rw [Taking.lossTags, Live.mem_lossOrder_iff h.unique_swept m, clampLostOf_contains]

/-- A hole that the slot's own order in flight does not have is as it was before its zones were swept. -/
theorem WorkLost.hole? {l u : Live} (h : WorkLost c l s k code u)
    (other : ∀ tag q, l.slots[s].work = .order tag → l.orderOf? s tag = some q → q.hole? ≠ some n) :
    u.hole? n = l.hole? n := by
  by_cases noOrder : ∀ tag, l.slots[s].work = .order tag → l.orderOf? s tag = none
  · exact (h.standing noOrder).1 n
  · push Not at noOrder
    obtain ⟨tag, work, found⟩ := noOrder
    obtain ⟨q, found⟩ := Option.ne_none_iff_exists'.1 found
    obtain ⟨under, travelling, unsentTravel, unsentIssue⟩ := h.order tag q work found
    have apart := other tag q work found
    cases sent : q.unsent with
    | false =>
      cases operating : q.operating with
      | false => exact (travelling sent operating).1 n
      | true => rw [(under sent operating).1 n, if_neg apart]
    | true =>
      by_cases mark : q.travelMark = none
      · rw [(unsentIssue sent mark).1 n, if_neg apart]
      · exact (unsentTravel sent mark).1 n

/-! ### The loss of clamps (R109, R108) -/

/-- The loss of a slot meets the orders of other slots at work in its zones. -/
theorem LossOf.run (h : LossOf s slots t) : ClampRun c (lossStep c s d) (t.lossTags c s slots k code d)
    (lossHit c s t.live) t.live (t.lossSwept c s slots k code d) := by
  have split {o : Order} (hit : lossHit c s t.live o = true) :
      worksIn c (ownLost c t.live s) o = true ∧ o.slot ≠ s := by simpa [lossHit] using hit
  have found {o : Order} (m : o ∈ t.live.pool) (hit : lossHit c s t.live o = true) :
      (t.lossSwept c s slots k code d).live.order? o.tag = some o := h.found m fun own => absurd own (split hit).2
  refine
    { ends := lossStep_ends c s d
      nodup := h.nodup
      placed := Taking.loseWork_holdDones.trans h.placed
      working := fun o hit => (worksIn_iff.1 (split hit).1).1
      listed := fun o m hit => (h.mem_tags (Live.order?_mem (found m hit))).2 (.inr (split hit).1)
      found := fun o m hit => found m hit
      aborts := fun o hit u => ?_
      leaving := fun o hit => by rw [Taking.lossSwept_slots, h.others _ (split hit).2]
      onSlot := fun o m hit q mq inTags same => ?_
      pool := fun q mq => Taking.lossSwept_pool.subset mq
      open_ := fun o hit n aim => ?_
      entry := fun o m hit n x aim alone entry => ?_ }
  · unfold lossStep
    rw [if_neg fun own => (split hit).2 own.1, if_pos (Order.abortable_of_worksIn (split hit).1)]
  · have apart : q.slot ≠ s := same ▸ (split hit).2
    obtain own | works := (h.mem_tags mq).1 inTags
    · exact absurd own.1 apart
    · simpa [lossHit, works] using apart
  · obtain ⟨-, n', r, aim', row, lost⟩ := worksIn_iff.1 (split hit).1
    rw [aim] at aim'
    cases aim'
    have own : c.zoneOf s r.zone = true := by
      simp only [ownLost, ownClamped, Bool.and_eq_true] at lost
      exact lost.1.1
    exact ⟨r, row, by rw [Taking.lossSwept_zone_own own]; exact nofun⟩
  · obtain ⟨state, same⟩ := sweptIn_eq_state (c := c) (n := n) (ownClamped c t.live s) x
    have before : (t.lossWorked c s slots k code d).live.hole? n = some x := by
      refine (h.worked.hole? fun tag q work found aim' => ?_).trans entry
      obtain ⟨mq, -, slot⟩ := Live.orderOf?_spec found
      have := alone q mq aim'
      cases List.inj_on_of_nodup_map h.unique mq m this
      exact (split hit).2 slot
    exact ⟨state, by rw [Taking.lossSwept_hole?, before, Option.map_some, same]⟩

theorem LossOf.clampAborts (h : LossOf s slots t) :
    ClampAborts c t.live (lossHit c s t.live) (t.lossTaken c s slots k code d).live := h.run.clampAborts

/-- Every other order of another slot stands. -/
theorem LossOf.stands (h : LossOf s slots t) (m : o ∈ t.live.pool) (apart : o.slot ≠ s) (clear : lossHit c s t.live o = false) :
    (t.lossTaken c s slots k code d).live.order? o.tag = some o := by
  have found := h.found (c := c) (k := k) (code := code) (d := d) m fun own => absurd own apart
  have notMet : o.tag ∉ t.lossTags c s slots k code d := fun inTags => by
    obtain own | works := (h.mem_tags (Live.order?_mem found)).1 inTags
    · exact apart own.1
    · simp [lossHit, works, apart] at clear
  exact (Taking.each_order?_other (lossStep_ends c s d).keeps (lossStep_ends c s d).ownOnly notMet).trans found

/-! ### Zones, holes and notices -/

/-- An abort sets no zone's flag. -/
theorem Taking.abort_flag {j : AbortCause} (z : ZoneId) (clear : t.live.zones[z].expected = false) :
    (t.abort c o j).live.zones[z].expected = false := by
  cases sent : o.unsent with
  | false =>
    rw [Taking.abort_sent sent]
    exact clear
  | true =>
    have works := Taking.settleOrder_works (c := c) (o := o) (t := (t.undoUnsent c o).workEnds o.slot)
    have zones := (congrArg Live.Works.zones works).trans (Taking.workEnds_zones o.slot (t.undoUnsent c o))
    rw [Taking.abort_unsent sent]
    exact (congrArg (fun v : Vector Zone 8 => v[z].expected) zones).trans (Taking.undoUnsent_flag z clear)

theorem Taking.lossTaken_flag (clear : (t.lossSwept c s slots k code d).live.zones[z].expected = false) :
    (t.lossTaken c s slots k code d).live.zones[z].expected = false :=
  (lossStep_ends c s d).each_all
    (r := fun t u => t.live.zones[z].expected = false → u.live.zones[z].expected = false) (fun _ => id) (fun _ _ _ h k => k ∘ h)
    (fun _ _ => Taking.abort_flag z) (fun _ _ _ clear => by rwa [Taking.withdraw, Taking.leave_zones]) _ _
    clear

/-- The slot's own zones are UNKNOWN with their flags clear (R109). -/
theorem Taking.lossTaken_zone_own (own : c.zoneOf s z = true) :
    (t.lossTaken c s slots k code d).live.zones[z] = { state := .unknown, expected := false } := by
  have unknown := Taking.lossSwept_zone_own (slots := slots) (k := k) (code := code) (d := d) (t := t) own
  have state : (t.lossTaken c s slots k code d).live.zones[z].state = .unknown := by
    unfold Taking.lossTaken
    rw [(lossStep_ends c s d).each_zone_state, unknown]
  have flag : (t.lossTaken c s slots k code d).live.zones[z].expected = false :=
    Taking.lossTaken_flag (by rw [unknown])
  calc (t.lossTaken c s slots k code d).live.zones[z]
      = { state := (t.lossTaken c s slots k code d).live.zones[z].state
          expected := (t.lossTaken c s slots k code d).live.zones[z].expected } := rfl
    _ = { state := .unknown, expected := false } := by rw [state, flag]

/-- No hole of a zone that was CLAMPED is left DRILLED or OVERSIZE (R20, R17). -/
theorem Taking.lossTaken_unfit {x : Hole} (inside : holeIn c (ownClamped c t.live s) n = true)
    (entry : (t.lossTaken c s slots k code d).live.hole? n = some x) : x.state ≠ .drilled ∧ x.state ≠ .oversize := by
  obtain ⟨r, row, clamped⟩ := (Option.any_eq_true _ _).1 inside
  have own : c.zoneOf s r.zone = true := by
    simp only [ownClamped, Bool.and_eq_true] at clamped
    exact clamped.1
  refine (lossStep_ends c s d).each_unfit row ?_ (fun y at_ => ?_) x entry
  · rw [Taking.lossSwept_zone_own own]
    exact nofun
  · rw [Taking.lossSwept_hole?] at at_
    obtain ⟨y, -, rfl⟩ := Option.map_eq_some_iff.1 at_
    exact sweptIn_state inside y

theorem LossOf.notices (h : LossOf s slots t) :
    (t.lossTaken c s slots k code d).live.notices = t.live.heatNoticed s (failingHeat t.live s) := by
  unfold Taking.lossTaken
  rw [(lossStep_ends c s d).each_notices, Taking.lossSwept_keeps Live.notices (by simp) (by simp), h.worked.notices]

/-! ### The slot's own orders (R52, R53) -/

theorem LossOf.bodies : (t.lossWorked c s slots k code d).live.cell.bodies <+:
    (t.lossTaken c s slots k code d).live.cell.bodies := by
  have swept := Taking.lossSwept_keeps (c := c) (s := s) (slots := slots) (k := k) (code := code) (d := d) (t := t)
    (fun l => l.cell.bodies) (by simp) (by simp)
  rw [← swept]
  exact (lossStep_ends c s d).each_bodies _ _

/-- The slot's own order in flight has left with its ORDER DONE. -/
theorem LossOf.own (h : LossOf s slots t) {tag : Nat} (work : t.live.slots[s].work = .order tag)
    (found : t.live.orderOf? s tag = some o) : (t.lossTaken c s slots k code d).live.order? tag = none
      ∧ ∃ x, Says (t.lossTaken c s slots k code d).live (.orderDone x) ∧ x.tag = tag
        ∧ (if o.unsent = true then x.outcome = .withdrawn ∧ x.cause = some d
          else x.outcome = .failed ∧ x.cause = some k.asDone) := by
  obtain ⟨gone, x, said, rest⟩ := Taking.loseWork_tells (c := c) (t := t.on fun l => { l with slots }) (k := k) (code := code)
    (w := d) work (show (t.on fun l => { l with slots }).live.orderOf? s tag = some o from found) h.placed
  refine ⟨?_, x, LossOf.bodies.subset said, rest⟩
  have pool := Taking.lossSwept_keeps (c := c) (s := s) (slots := slots) (k := k) (code := code) (d := d) (t := t) Live.pool
    (by simp) (by simp)
  have absent : (t.lossSwept c s slots k code d).live.order? tag = none := (Live.order?_congr pool).trans gone
  rw [Live.order?_eq_none] at absent ⊢
  intro q mq same
  obtain ⟨p, mp, fixed⟩ := List.mem_map.1
    ((Taking.each_keeps (lossStep_ends c s d).keeps).subset (List.mem_map_of_mem (f := Order.fixed) mq))
  exact absent p mp ((congrArg Prod.fst fixed).trans same)

/-- A waiting order of the slot has been withdrawn, and its claim with it (R53, R61). -/
theorem LossOf.waiting (h : LossOf s slots t) (m : o ∈ t.live.pool) (mine : o.slot = s) (waits : o.state = .waiting)
    (other : t.live.slots[s].work ≠ .order o.tag) : (t.lossTaken c s slots k code d).live.order? o.tag = none
      ∧ (t.lossTaken c s slots k code d).live.Unclaimed o.tag
      ∧ ∃ x, Says (t.lossTaken c s slots k code d).live (.orderDone x) ∧ x.tag = o.tag ∧ x.outcome = .withdrawn
        ∧ x.cause = some d := by
  have found := h.found (c := c) (k := k) (code := code) (d := d) m fun _ => other
  have ends := lossStep_ends c s d
  obtain ⟨before, after, -, notAfter, -, -, turn, whole⟩ := Taking.each_turn ends.keeps ends.ownOnly h.nodup
    ((h.mem_tags (Live.order?_mem found)).2 (.inl ⟨mine, waits⟩)) found
  have step (u : Taking) : lossStep c s d u o = u.withdraw c o d := if_pos ⟨mine, waits⟩
  have placed : ((t.lossSwept c s slots k code d).each (lossStep c s d) before).holdDones = false := by
    rw [ends.each_holdDones]
    exact Taking.loseWork_holdDones.trans h.placed
  obtain ⟨gone, x, said, tag, -, -, outcome, cause, -⟩ := Taking.leave_tells (c := c) (o := o) placed .withdrawn (some d) none
  rw [step] at whole
  unfold Taking.lossTaken
  rw [whole]
  refine ⟨?_, ends.each_unclaimed (Live.unclaimed_iff.2 (Taking.leave_request? ..)), x, ends.each_says said, tag, outcome, cause⟩
  rw [Taking.each_order?_other ends.keeps ends.ownOnly notAfter]
  exact gone

/-! ### Where none of the slot's own orders is aborted -/

/-- What a withdrawal and the abort of an order at work in a lost zone keep, the taking of the orders keeps. -/
theorem LossOf.rel (h : LossOf s slots t) {r : Taking → Taking → Prop} (refl : ∀ t, r t t)
    (trans : ∀ a b c, r a b → r b c → r a c) (withdraws : ∀ u o, r u (u.withdraw c o d))
    (aborts : ∀ u, ∀ o ∈ t.live.pool, worksIn c (ownLost c t.live s) o = true → r u (u.abort c o .clampLost)) :
    r (t.lossSwept c s slots k code d) (t.lossTaken c s slots k code d) := by
  refine Taking.each_rel_found (lossStep_ends c s d).keeps (lossStep_ends c s d).ownOnly h.nodup refl trans
    fun u o found inTags => ?_
  have inPool := Live.order?_mem found
  unfold lossStep
  obtain own | works := (h.mem_tags inPool).1 inTags
  · rw [if_pos own]
    exact withdraws u o
  · have busy : ¬ (o.slot = s ∧ o.state = .waiting) := by
      rintro ⟨-, waits⟩
      have := (worksIn_iff.1 works).1
      simp [waits] at this
    rw [if_neg busy, if_pos (Order.abortable_of_worksIn works)]
    exact aborts u o (Taking.lossSwept_pool.subset inPool) works

/-- The slot's record is then as the loss wrote it. -/
theorem LossOf.slot (h : LossOf s slots t) (apart : SlotApart c t.live s) :
    (t.lossTaken c s slots k code d).live.slots[s] = slots[s] := by
  refine Eq.trans ?_ (congrArg (fun v : Vector Slot 12 => v[s])
    (Taking.lossSwept_slots (c := c) (s := s) (slots := slots) (k := k) (code := code) (d := d) (t := t)))
  refine h.rel (r := fun t u => u.live.slots[s] = t.live.slots[s]) (fun _ => rfl) (fun _ _ _ h k => k.trans h)
    (fun u o => by rw [Taking.withdraw, Taking.leave_slots]) fun u o m works => ?_
  exact Taking.abort_slot_other (apart o m works).symm

/-- A travel restored changes no other slot's holding. -/
theorem Taking.restoreTravel_holdings_other {i j : SlotId} (other : j ≠ i) :
    (t.restoreTravel i).live.holdings[j] = t.live.holdings[j] := by
  unfold Taking.restoreTravel Taking.narrow
  split
  · rfl
  · split
    · rfl
    · next v _ _ g _ =>
      have stands : (t.live.holdings.set i (some { rail := g.rail, run := v.former }))[j] = t.live.holdings[j] :=
        (vset_get ..).trans (if_neg other)
      dsimp only
      split
      · exact stands
      · exact (congrArg (fun l : Live => l.holdings[j]) (Taking.wakeRail_live ..)).trans stands

/-- An abort changes no other slot's holding. -/
theorem Taking.abort_holding_other {i : AbortCause} {j : SlotId} (other : j ≠ o.slot) :
    (t.abort c o i).live.holdings[j] = t.live.holdings[j] := by
  cases sent : o.unsent with
  | false => rw [Taking.abort_sent sent]
  | true =>
    have works := Taking.settleOrder_works (c := c) (o := o) (t := (t.undoUnsent c o).workEnds o.slot)
    have holdings : (t.abort c o i).live.holdings = (t.undoUnsent c o).live.holdings := by
      rw [Taking.abort_unsent sent]
      refine (congrArg Live.Works.holdings works).trans ?_
      rw [Taking.workEnds_live]
      rfl
    rw [holdings]
    by_cases mark : o.travelMark = none
    · rw [Taking.undoUnsent_issue mark]
      exact congrArg (fun v : Vector (Option Holding) 12 => v[j])
        (Live.undone_keeps Live.holdings (fun _ _ => rfl) (fun _ _ => rfl) (fun _ _ => rfl) c o _)
    · rw [Taking.undoUnsent_travel mark]
      exact Taking.restoreTravel_holdings_other other

/-- The slot's holding is then as its work left it. -/
theorem LossOf.holding (h : LossOf s slots t) (apart : SlotApart c t.live s) :
    (t.lossTaken c s slots k code d).live.holdings[s] = (t.lossWorked c s slots k code d).live.holdings[s] := by
  rw [← Taking.lossSwept_keeps (c := c) (s := s) (slots := slots) (k := k) (code := code) (d := d) (t := t) Live.holdings
    (by simp) (by simp)]
  refine h.rel (r := fun t u => u.live.holdings[s] = t.live.holdings[s]) (fun _ => rfl) (fun _ _ _ h k => k.trans h)
    (fun u o => by rw [Taking.withdraw, Taking.leave_holdings]) fun u o m works => ?_
  exact Taking.abort_holding_other (apart o m works).symm

/-- Holes, pump units and lanes are as the sweep left them where no message is taken back. -/
theorem LossOf.works (h : LossOf s slots t) (sent : NoneTakenBack c t.live s) :
    (t.lossTaken c s slots k code d).live.holes = (t.lossSwept c s slots k code d).live.holes
      ∧ (t.lossTaken c s slots k code d).live.unitsInUse = (t.lossSwept c s slots k code d).live.unitsInUse
      ∧ (t.lossTaken c s slots k code d).live.lanes = (t.lossSwept c s slots k code d).live.lanes := by
  refine h.rel (r := fun t u => u.live.holes = t.live.holes ∧ u.live.unitsInUse = t.live.unitsInUse
      ∧ u.live.lanes = t.live.lanes) (fun _ => ⟨rfl, rfl, rfl⟩)
    (fun _ _ _ ⟨a, b, c⟩ ⟨a', b', c'⟩ => ⟨a'.trans a, b'.trans b, c'.trans c⟩)
    (fun u o => by simp [Taking.withdraw]) fun u o m works => ?_
  rw [Taking.abort_sent (sent o m works)]
  exact ⟨rfl, rfl, rfl⟩

end Loss

end Sys2Proof.Machine
end

section
/-! PROOFS. What the loss of a slot leaves (R109, R52, R95), once its orders have been taken. -/

namespace Sys2Proof.Machine

open Sys2Proof.Safety

/-! ### The lanes of a lost heater (R95) -/

section Heater

variable {c : Setup} {l : Live} {s : SlotId} {i j : LaneId}

/-- The stock of a lane once its heater slot is lost. -/
def keptStock (c : Setup) (s : SlotId) (i : LaneId) (stock : List Rivet) : List Rivet :=
  if c.tables.lanes[i].slot = some s then stock.filter (fun r => r.tag.isSome) else stock

theorem Live.loseStock_lane : (l.loseStock c s j).lanes[i] =
    if i = j then { l.lanes[i] with stock := keptStock c s i l.lanes[i].stock } else l.lanes[i] := by
  unfold Live.loseStock Live.dropFree keptStock
  by_cases same : i = j
  · subst same
    rw [if_pos rfl]
    split
    · exact vmod_get_self _ _ _
    · rfl
  · rw [if_neg same]
    split
    · exact vmod_get_ne _ _ same
    · rfl

theorem Live.heaterLost_lane (i : LaneId) : (l.heaterLost c s).lanes[i] =
    { l.lanes[i] with stock := keptStock c s i l.lanes[i].stock } := by
  unfold Live.heaterLost
  rw [Live.loseStock_lane, Live.loseStock_lane]
  by_cases first : i = 0
  · subst first
    rw [if_neg (by decide), if_pos rfl]
  · cases Fin.eq_one_of_ne_zero i first
    rw [if_pos rfl, if_neg (by decide)]

/-- What is lost with a heater depends on the lanes alone. -/
theorem Live.heaterLost_lanes_congr {l' : Live} (same : l'.lanes = l.lanes) :
    (l'.heaterLost c s).lanes = (l.heaterLost c s).lanes :=
  vector_ext fun i => by rw [Live.heaterLost_lane, Live.heaterLost_lane, same]

end Heater

/-! ### Notices (R155, R156) -/

section Notices

variable {c : Setup} {l : Live} {s : SlotId} {t : Taking} {source : Fin 13}

theorem noticeIndex_alarm_ne_fault : noticeIndex source .alarm ≠ noticeIndex source .fault := by
  intro same
  have := congrArg Fin.val same
  simp [noticeIndex, NoticeLevel.rank] at this

/-- The entries that a loss of several clamps posts to. -/
theorem Live.postClampLost_notice (zones : List ZoneId) (i : Fin 52) :
    (l.postClampLost s zones).notices[i] = if i = noticeIndex (slotSource s) .alarm then
      zones.foldl (fun e z => some (postedEntry .clampLost (.zone z) e)) l.notices[noticeIndex (slotSource s) .alarm]
      else l.notices[i] := by
  unfold Live.postClampLost
  induction zones generalizing l with
  | nil =>
    split
    case isTrue same => rw [same]; rfl
    case isFalse => rfl
  | cons z zones ih =>
    rw [List.foldl_cons, List.foldl_cons, ih, Live.postSlot_notices]
    split
    case isTrue => exact congrArg (fun e => zones.foldl _ e) (vmod_get_self _ _ _)
    case isFalse other => exact vmod_get_ne _ _ other

theorem Live.postClampLost_keeps {α : Type} (f : Live → α) (h : ∀ (l : Live) (z : ZoneId), f (l.postSlot s .clampLost (.zone z)) = f l)
    (zones : List ZoneId) : f (l.postClampLost s zones) = f l := by
  unfold Live.postClampLost
  induction zones generalizing l with
  | nil => rfl
  | cons z zones ih => rw [List.foldl_cons, ih, h]

/-- The loss of a module posts its notices and may start an examination (R109, R35). -/
theorem Taking.moduleLost_live (zones : List (ZoneId × Zone)) :
    (t.moduleLost s zones).live = t.live.postClampLost s (clampLostOf zones) := by
  unfold Taking.moduleLost
  dsimp only
  split <;> rfl

theorem Live.heatNoticed_fault :
    (l.heatNoticed s (failingHeat l s))[noticeIndex (slotSource s) .fault] = faultEntry l s := by
  unfold Live.heatNoticed faultEntry
  cases failingHeat l s with
  | none => rfl
  | some h => exact vmod_get_self _ _ _

theorem Live.heatNoticed_alarm (failing : Option (LaneId × Heat)) : (l.heatNoticed s failing)[noticeIndex (slotSource s) .alarm] =
    l.notices[noticeIndex (slotSource s) .alarm] := by
  unfold Live.heatNoticed
  cases failing with
  | none => rfl
  | some h => exact vmod_get_ne _ _ noticeIndex_alarm_ne_fault

end Notices

/-! ### A slot's aspect worked out anew (R125) -/

section Lamp

variable {c : Setup} {l : Live} {s : SlotId}

/-- LAMP changes the slot's record and its link alone. -/
theorem Live.syncLamp_eq : l.syncLamp c s =
    { l with slots := (l.syncLamp c s).slots, heads := (l.syncLamp c s).heads } := by
  unfold Live.syncLamp
  dsimp only
  split
  · rfl
  · split
    · rfl
    · unfold Live.queueLamp
      rw [Live.queue_first rfl]
      rfl

theorem Live.syncLamp_keeps {α : Type} (f : Live → α) (heads : ∀ (l : Live) (x : Vector HeadLink 12), f { l with heads := x } = f l)
    (slots : ∀ (l : Live) (x : Vector Slot 12), f { l with slots := x } = f l) : f (l.syncLamp c s) = f l := by
  rw [Live.syncLamp_eq]
  exact (heads { l with slots := (l.syncLamp c s).slots } _).trans (slots l _)

theorem Live.syncLamp_slot_other {j : SlotId} (other : j ≠ s) : (l.syncLamp c s).slots[j] = l.slots[j] := by
  rw [syncLamp_slots]
  exact vmod_get_ne _ _ other

theorem Live.syncLamp_head_other {j : SlotId} (other : j ≠ s) : (l.syncLamp c s).heads[j] = l.heads[j] := by
  unfold Live.syncLamp
  dsimp only
  split
  · rfl
  · split
    · rfl
    · unfold Live.queueLamp
      rw [(LinesKept.queue (p := (· ≠ s)) (by simp)).other j other]
      exact vmod_get_ne _ _ other

end Lamp

/-! ### After the orders -/

/-- What of the live state is neither a slot, a link, a lane, a notice, a holding nor a travel. -/
def Live.orderly (l : Live) : List Order × List Hole × Nat × Vector Zone 8 × CellLink × List Request × List Request :=
  (l.pool, l.holes, l.unitsInUse, l.zones, l.cell, l.requestsA, l.requestsB)

/-- What the rest of a loss leaves: orders, holes, units, zones, claims and messages for the cell as the taking of the orders left
them, the lanes as the heater's loss leaves them, and nothing changed of any other slot. -/
structure LossLeft (c : Setup) (s : SlotId) (l u : Live) : Prop where
  orderly : u.orderly = l.orderly
  lanes : u.lanes = (l.heaterLost c s).lanes
  others : ∀ j, j ≠ s → u.slots[j] = l.slots[j] ∧ u.heads[j] = l.heads[j]

section Orderly

variable {c : Setup} {s : SlotId} {l u : Live}

theorem LossLeft.pool (h : LossLeft c s l u) : u.pool = l.pool := congrArg Prod.fst h.orderly

theorem LossLeft.holes (h : LossLeft c s l u) : u.holes = l.holes := congrArg (fun x => x.2.1) h.orderly

theorem LossLeft.unitsInUse (h : LossLeft c s l u) : u.unitsInUse = l.unitsInUse := congrArg (fun x => x.2.2.1) h.orderly

theorem LossLeft.zones (h : LossLeft c s l u) : u.zones = l.zones := congrArg (fun x => x.2.2.2.1) h.orderly

theorem LossLeft.cell (h : LossLeft c s l u) : u.cell = l.cell := congrArg (fun x => x.2.2.2.2.1) h.orderly

theorem LossLeft.requestsA (h : LossLeft c s l u) : u.requestsA = l.requestsA := congrArg (fun x => x.2.2.2.2.2.1) h.orderly

theorem LossLeft.requestsB (h : LossLeft c s l u) : u.requestsB = l.requestsB := congrArg (fun x => x.2.2.2.2.2.2) h.orderly

end Orderly

section Left

variable {c : Setup} {s : SlotId} {slots : Vector Slot 12} {k : LossCause} {code : Option Nat} {d : DoneCause} {t : Taking}
  {u : Live} {o : Order}

theorem LossLeft.says {l : Live} (left : LossLeft c s l u) {b : CellBody} (said : Says l b) : Says u b := by
  unfold Says
  rw [left.cell]
  exact said

/-- The zones of the lost module, their holes, their orders and their notices (R109, R107, R108). -/
theorem LossOf.moduleGone (h : LossOf s slots t) (left : LossLeft c s (t.lossTaken c s slots k code d).live u)
    (alarm : u.notices[noticeIndex (slotSource s) .alarm] = ((List.finRange 8).filter (ownLost c t.live s)).foldl
      (fun e z => some (postedEntry .clampLost (.zone z) e)) t.live.notices[noticeIndex (slotSource s) .alarm]) :
    ModuleGone c t.live s u := by
  refine ⟨fun z m map own => ?_, fun n x entry inside => ?_, alarm, ?_, fun o m apart clear => ?_⟩
  · rw [left.zones]
    exact Taking.lossTaken_zone_own (Setup.zoneOf_iff.2 ⟨m, map, own⟩)
  · rw [Live.hole?_congr left.holes] at entry
    exact Taking.lossTaken_unfit inside entry
  · refine clampAborts_congr (fun o _ _ => Live.order?_congr left.pool) (fun o _ hit => ?_) left.holes (fun _ => left.says)
      h.clampAborts
    exact left.others _ (by simpa [lossHit] using (Bool.and_eq_true_iff.1 hit).2)
  · rw [Live.order?_congr left.pool]
    exact h.stands m apart clear

/-- The holes, the pump units, the lanes and the flag of the work in flight (R52, R90, R95). -/
theorem LossOf.lossEnds (h : LossOf s slots t) (sent : NoneTakenBack c t.live s)
    (left : LossLeft c s (t.lossTaken c s slots k code d).live u) : LossEnds c t.live s k code u := by
  obtain ⟨heat, faultKept, fault, standing, order, -⟩ := h.worked (c := c) (k := k) (code := code) (d := d)
  obtain ⟨holes, units, lanes⟩ := h.works (c := c) (k := k) (code := code) (d := d) sent
  have lane (i : LaneId) : u.lanes[i] = { (t.lossWorked c s slots k code d).live.lanes[i] with
      stock := keptStock c s i (t.lossWorked c s slots k code d).live.lanes[i].stock } := by
    rw [left.lanes, Live.heaterLost_lane]
    simp only [lanes, Taking.lossSwept_keeps Live.lanes (by simp) (by simp)]
  have hole (n : Nat) : u.hole? n = ((t.lossWorked c s slots k code d).live.hole? n).map
      (sweptIn c (ownClamped c t.live s) n) := by
    rw [Live.hole?_congr left.holes, Live.hole?_congr holes, Taking.lossSwept_hole?]
  have unitsInUse : u.unitsInUse = (t.lossWorked c s slots k code d).live.unitsInUse := by
    rw [left.unitsInUse, units, Taking.lossSwept_keeps Live.unitsInUse (by simp) (by simp)]
  have flag (z : ZoneId) (clear : (t.lossWorked c s slots k code d).live.zones[z].expected = false) :
      u.zones[z].expected = false := by
    rw [left.zones]
    exact Taking.lossTaken_flag (Taking.lossSwept_flag clear)
  have stands (same : Standing t.live (t.lossWorked c s slots k code d).live) :
      (∀ n, u.hole? n = (t.live.hole? n).map (sweptIn c (ownClamped c t.live s) n)) ∧ u.unitsInUse = t.live.unitsInUse
        ∧ ∀ i : LaneId, u.lanes[i].stock = keptStock c s i t.live.lanes[i].stock := by
    obtain ⟨holes, units, stock⟩ := same
    exact ⟨fun n => by rw [hole, holes], unitsInUse.trans units, fun i => by rw [lane, stock]⟩
  have ended (o : Order) {f : Hole → Hole} {g : LaneId → List Rivet → List Rivet}
      (same : OrderEnded t.live o f g (t.lossWorked c s slots k code d).live) :
      (∀ n x, o.hole? = some n → t.live.hole? n = some x → u.hole? n = some (sweptIn c (ownClamped c t.live s) n (f x)))
        ∧ (∀ n, o.hole? ≠ some n → u.hole? n = (t.live.hole? n).map (sweptIn c (ownClamped c t.live s) n))
        ∧ u.unitsInUse = t.live.unitsInUse - o.units.getD 0
        ∧ (∀ i : LaneId, u.lanes[i].stock = keptStock c s i
            (if rivetIn o i = true then g i t.live.lanes[i].stock else t.live.lanes[i].stock))
        ∧ ∀ z : ZoneId, o.kind = .unclamp → o.target = .zone z → u.zones[z].expected = false := by
    obtain ⟨holes, units, stock, flags⟩ := same
    refine ⟨fun n x aim entry => ?_, fun n other => ?_, unitsInUse.trans units, fun i => by rw [lane, stock],
      fun z kind target => flag z (flags z kind target)⟩
    · rw [hole, holes, if_pos aim, entry]
      rfl
    · rw [hole, holes, if_neg other]
  refine ⟨fun i => by rw [lane]; exact heat i, fun i apart => by rw [lane]; exact faultKept i apart,
    fun i g failing => by rw [lane]; exact fault i g failing, fun noOrder => stands (standing noOrder),
    fun tag o work found => ?_⟩
  obtain ⟨-, rfl, -⟩ := Live.orderOf?_spec found
  obtain ⟨under, travelling, unsentTravel, unsentIssue⟩ := order _ o work found
  exact ⟨fun sent operating => ended o (under sent operating), fun sent idle => stands (travelling sent idle),
    fun unsent mark => stands (unsentTravel unsent mark), fun unsent mark => ended o (unsentIssue unsent mark)⟩

end Left

end Sys2Proof.Machine
end

section
/-! PROOFS. What the fault of a joined slot leaves (R129). -/

namespace Sys2Proof.Machine

open Sys2Proof.Safety

/-! ### What every loss of a slot leaves of its record, its holding and its orders -/

section Loss

variable {c : Setup} {s : SlotId} {slots : Vector Slot 12} {k : LossCause} {code : Option Nat} {d : DoneCause} {t : Taking}
  {u : Live}

/-- What the taking of the orders changes of no slot record. -/
theorem LossOf.identity : (t.lossTaken c s slots k code d).live.slots[s].identity = slots[s].identity := by
  have kept := (Taking.loseOrders_examined c s d (t.lossTags c s slots k code d) (t.lossSwept c s slots k code d)).slots s
  simp only [Taking.lossSwept_slots] at kept
  exact kept

theorem LossOf.state (h : LossOf s slots t) : (t.lossTaken c s slots k code d).live.slots[s].state = slots[s].state := by
  have swept : (t.lossSwept c s slots k code d).live.slots[s] = slots[s] := by simp only [Taking.lossSwept_slots]
  have idle : (t.lossSwept c s slots k code d).live.slots[s].state ≠ .busy := by
    rw [swept]
    intro busy
    have := h.gone
    rw [busy] at this
    cases this
  exact (Taking.loseOrders_state (c := c) (k := d) (tags := t.lossTags c s slots k code d) idle).trans (by rw [swept])

/-- The slot's waiting orders, and its order in flight, as the rest of the loss leaves them (R52, R53, R61). -/
theorem LossOf.waiting_left (h : LossOf s slots t) (left : LossLeft c s (t.lossTaken c s slots k code d).live u) :
    ∀ o ∈ t.live.pool, o.slot = s → o.state = .waiting → t.live.slots[s].work ≠ .order o.tag →
      u.order? o.tag = none ∧ u.request? o.tag = none
      ∧ ∃ x, Says u (.orderDone x) ∧ x.tag = o.tag ∧ x.outcome = .withdrawn ∧ x.cause = some d := by
  intro o m mine waits other
  obtain ⟨gone, unclaimed, x, said, rest⟩ := h.waiting m mine waits other
  exact ⟨(Live.order?_congr left.pool).trans gone, Live.unclaimed_iff.1 (unclaimed.of_eq left.requestsA left.requestsB), x,
    left.says said, rest⟩

theorem LossOf.own_left (h : LossOf s slots t) (left : LossLeft c s (t.lossTaken c s slots k code d).live u) :
    ∀ tag o, t.live.slots[s].work = .order tag → t.live.orderOf? s tag = some o →
      u.order? tag = none ∧ ∃ x, Says u (.orderDone x) ∧ x.tag = tag
        ∧ (if o.unsent = true then x.outcome = .withdrawn ∧ x.cause = some d
          else x.outcome = .failed ∧ x.cause = some k.asDone) := by
  intro tag o work found
  obtain ⟨gone, x, said, rest⟩ := h.own work found
  exact ⟨(Live.order?_congr left.pool).trans gone, x, left.says said, rest⟩

/-- No order of the slot's own is aborted by the loss of its zones: the list of those orders says so. -/
theorem slotApart_iff (unique : (t.live.pool.map Order.tag).Nodup) : SlotApart c t.live s ↔
    ∀ o ∈ t.live.pool, o.tag ∈ t.live.workOfZones c (clampLostOf (t.live.zonesOf c s)) → o.slot ≠ s := by
  unfold SlotApart
  refine forall_congr' fun o => forall_congr' fun m => ?_
  rw [mem_workOfZones unique m, clampLostOf_contains]

end Loss

/-! ### The fault (R129) -/

section Fault

variable {c : Setup} {s : SlotId} {k : LossCause} {code : Option Nat} {t : Taking}

/-- The record of a slot at its fault (R129 steps 1 and 2). -/
def Slot.faulted (k : LossCause) (code : Option Nat) (x : Slot) : Slot :=
  { x with state := .faulted, fault := some { cause := k, code, tag := x.work.tag? }, timer := none, leverPending := false
           work := .idle }

/-- The slot's orders taken (R129 steps 3 and 4). -/
def Taking.faultTaken (c : Setup) (s : SlotId) (k : LossCause) (code : Option Nat) (t : Taking) : Taking :=
  t.lossTaken c s (vmod t.live.slots s (Slot.faulted k code)) k code .slotFaulted

/-- The slot's messages, its travel, its lane and its zones' notices (R129 steps 4 to 6). -/
def Live.faultRest (c : Setup) (s : SlotId) (zones : List (ZoneId × Zone)) (l : Live) : Live :=
  (((l.unqueue s HeadMsg.goesAtFault).setTravel s none).heaterLost c s).postClampLost s (clampLostOf zones)

theorem Taking.fault_live (joined : t.live.slots[s].state.joined = true) : (t.fault c s k code).live =
    (((t.faultTaken c s k code).live.faultRest c s (t.live.zonesOf c s)).syncLamp c s).postSlot s .slotFault (.cause k code) := by
  unfold Taking.fault
  rw [if_neg (by rw [joined]; exact Bool.false_ne_true)]
  dsimp only
  rw [Taking.on_live, Taking.moduleLost_live]
  rfl

theorem lossOf_fault (unique : (t.live.pool.map Order.tag).Nodup) (placed : t.holdDones = false) :
    LossOf s (vmod t.live.slots s (Slot.faulted k code)) t where
  unique := unique
  placed := placed
  gone := by rw [vmod_get_self]; rfl
  others j other := vmod_get_ne _ _ other

/-- What the rest of a fault keeps. -/
theorem Live.faultRest_keeps {α : Type} (f : Live → α) (heads : ∀ (l : Live) (x : Vector HeadLink 12), f { l with heads := x } = f l)
    (travels : ∀ (l : Live) (x : Vector (Option Travel) 12), f { l with travels := x } = f l)
    (lanes : ∀ l : Live, f (l.heaterLost c s) = f l)
    (posts : ∀ (l : Live) (z : ZoneId), f (l.postSlot s .clampLost (.zone z)) = f l) (zones : List (ZoneId × Zone)) (l : Live) :
    f (l.faultRest c s zones) = f l := by
  unfold Live.faultRest
  rw [Live.postClampLost_keeps f posts, lanes]
  exact (travels _ _).trans (heads _ _)

/-- A field that neither the links, the travels, the lanes, the notices nor the slots are, after a fault. -/
theorem Taking.fault_keeps {α : Type} (joined : t.live.slots[s].state.joined = true) (f : Live → α)
    (heads : ∀ (l : Live) (x : Vector HeadLink 12), f { l with heads := x } = f l)
    (slots : ∀ (l : Live) (x : Vector Slot 12), f { l with slots := x } = f l)
    (travels : ∀ (l : Live) (x : Vector (Option Travel) 12), f { l with travels := x } = f l)
    (lanes : ∀ l : Live, f (l.heaterLost c s) = f l)
    (posts : ∀ (l : Live) (n : NoticeCode) (x : Detail), f (l.postSlot s n x) = f l) :
    f (t.fault c s k code).live = f (t.faultTaken c s k code).live := by
  rw [Taking.fault_live joined, posts, Live.syncLamp_keeps f heads slots,
    Live.faultRest_keeps f heads travels lanes fun _ _ => posts _ _ _]

theorem Taking.fault_lanes (joined : t.live.slots[s].state.joined = true) :
    (t.fault c s k code).live.lanes = ((t.faultTaken c s k code).live.heaterLost c s).lanes := by
  rw [Taking.fault_live joined, Live.postSlot_lanes, Live.syncLamp_keeps Live.lanes (fun _ _ => rfl) fun _ _ => rfl]
  exact (Live.postClampLost_keeps Live.lanes (fun _ _ => rfl) _).trans (Live.heaterLost_lanes_congr rfl)

theorem Taking.fault_left (joined : t.live.slots[s].state.joined = true) :
    LossLeft c s (t.faultTaken c s k code).live (t.fault c s k code).live where
  orderly := Taking.fault_keeps joined Live.orderly (fun _ _ => rfl) (fun _ _ => rfl) (fun _ _ => rfl)
    (fun l => by simp [Live.orderly]) fun _ _ _ => rfl
  lanes := Taking.fault_lanes joined
  others j other := by
    have rest : ((t.faultTaken c s k code).live.faultRest c s (t.live.zonesOf c s)).slots =
        (t.faultTaken c s k code).live.slots :=
      Live.faultRest_keeps Live.slots (fun _ _ => rfl) (fun _ _ => rfl) (by simp) (fun _ _ => rfl) _ _
    have heads : ((t.faultTaken c s k code).live.faultRest c s (t.live.zonesOf c s)).heads =
        ((t.faultTaken c s k code).live.unqueue s HeadMsg.goesAtFault).heads := by
      unfold Live.faultRest
      simp
    rw [Taking.fault_live joined, Live.postSlot_slots, Live.postSlot_heads, Live.syncLamp_slot_other other,
      Live.syncLamp_head_other other, rest, heads]
    exact ⟨rfl, vmod_get_ne _ _ other⟩

/-- The slot's record after a fault: as the orders left it, its aspect worked out anew (R125). -/
theorem Taking.fault_slot (joined : t.live.slots[s].state.joined = true) : (t.fault c s k code).live.slots[s] =
    { (t.faultTaken c s k code).live.slots[s] with
      aspect := aspectOf (t.faultTaken c s k code).live.slots[s].lamp (t.faultTaken c s k code).live.slots[s].state } := by
  have rest : ((t.faultTaken c s k code).live.faultRest c s (t.live.zonesOf c s)).slots =
      (t.faultTaken c s k code).live.slots :=
    Live.faultRest_keeps Live.slots (fun _ _ => rfl) (fun _ _ => rfl) (by simp) (fun _ _ => rfl) _ _
  rw [Taking.fault_live joined, Live.postSlot_slots, Live.syncLamp_slots, rest]
  exact vmod_get_self _ _ _

/-- What a fault writes of the slot's record, and what it keeps (R129). -/
theorem Taking.fault_record (joined : t.live.slots[s].state.joined = true) (unique : (t.live.pool.map Order.tag).Nodup)
    (placed : t.holdDones = false) :
    (t.fault c s k code).live.slots[s].state = .faulted
      ∧ (t.fault c s k code).live.slots[s].fault = some { cause := k, code, tag := t.live.slots[s].work.tag? }
      ∧ (t.fault c s k code).live.slots[s].head = t.live.slots[s].head
      ∧ (t.fault c s k code).live.slots[s].tool = t.live.slots[s].tool
      ∧ (t.fault c s k code).live.slots[s].lever = t.live.slots[s].lever
      ∧ (t.fault c s k code).live.slots[s].leverPending = false := by
  have h : LossOf s (vmod t.live.slots s (Slot.faulted k code)) t := lossOf_fault unique placed
  have identity := LossOf.identity (c := c) (s := s) (slots := vmod t.live.slots s (Slot.faulted k code)) (k := k) (code := code)
    (d := .slotFaulted) (t := t)
  have state := h.state (c := c) (k := k) (code := code) (d := .slotFaulted)
  rw [vmod_get_self] at identity state
  simp only [Slot.identity, Prod.mk.injEq] at identity
  obtain ⟨head, tool, lever, pending, -, -, fault⟩ := identity
  rw [Taking.fault_slot joined]
  exact ⟨state, fault, head, tool, lever, pending⟩

/-- The slot's work and timer have ended where none of its own orders is aborted (R129 steps 1 to 3). -/
theorem Taking.fault_idle (joined : t.live.slots[s].state.joined = true) (unique : (t.live.pool.map Order.tag).Nodup)
    (placed : t.holdDones = false) (apart : SlotApart c t.live s) :
    (t.fault c s k code).live.slots[s].work = .idle ∧ (t.fault c s k code).live.slots[s].timer = none := by
  have slot := (lossOf_fault (s := s) (k := k) (code := code) unique placed).slot (c := c) (k := k) (code := code)
    (d := .slotFaulted) apart
  rw [vmod_get_self] at slot
  have record : (t.faultTaken c s k code).live.slots[s] = t.live.slots[s].faulted k code := slot
  rw [Taking.fault_slot joined, record]
  exact ⟨rfl, rfl⟩

theorem Taking.fault_holdings (joined : t.live.slots[s].state.joined = true) :
    (t.fault c s k code).live.holdings = (t.faultTaken c s k code).live.holdings :=
  Taking.fault_keeps joined Live.holdings (fun _ _ => rfl) (fun _ _ => rfl) (fun _ _ => rfl) (by simp) fun _ _ _ => rfl

theorem Taking.fault_travel (joined : t.live.slots[s].state.joined = true) :
    (t.fault c s k code).live.travels[s] = none := by
  have travels : (t.fault c s k code).live.travels = (t.faultTaken c s k code).live.travels.set s none := by
    rw [Taking.fault_live joined, Live.postSlot_travels, Live.syncLamp_travels]
    refine (Live.postClampLost_keeps Live.travels (fun _ _ => rfl) _).trans ?_
    rw [Live.heaterLost_travels]
    rfl
  rw [travels]
  exact (vset_get ..).trans (if_pos rfl)

/-- The notices of a fault: CLAMP_LOST for each clamp lost, and SLOT_FAULT last of the slot's faults (R155). -/
theorem Taking.fault_notices (joined : t.live.slots[s].state.joined = true) (unique : (t.live.pool.map Order.tag).Nodup)
    (placed : t.holdDones = false) :
    (t.fault c s k code).live.notices[noticeIndex (slotSource s) .fault] = some
        (postedEntry .slotFault (.cause k code) (faultEntry t.live s))
      ∧ (t.fault c s k code).live.notices[noticeIndex (slotSource s) .alarm] =
        ((List.finRange 8).filter (ownLost c t.live s)).foldl (fun e z => some (postedEntry .clampLost (.zone z) e))
          t.live.notices[noticeIndex (slotSource s) .alarm] := by
  have taken : (t.faultTaken c s k code).live.notices = t.live.heatNoticed s (failingHeat t.live s) :=
    (lossOf_fault unique placed).notices
  have rest (i : Fin 52) : ((t.faultTaken c s k code).live.faultRest c s (t.live.zonesOf c s)).notices[i] =
      if i = noticeIndex (slotSource s) .alarm then
        ((List.finRange 8).filter (ownLost c t.live s)).foldl (fun e z => some (postedEntry .clampLost (.zone z) e))
          t.live.notices[noticeIndex (slotSource s) .alarm]
      else (t.live.heatNoticed s (failingHeat t.live s))[i] := by
    refine (Live.postClampLost_notice _ _).trans ?_
    simp only [Live.heaterLost_notices, Live.setTravel_notices, Live.unqueue_notices, clampLostOf_zonesOf, taken,
      Live.heatNoticed_alarm]
  rw [Taking.fault_live joined, Live.postSlot_notices, Live.syncLamp_notices]
  refine ⟨(vmod_get_self _ _ _).trans ?_, (vmod_get_ne _ _ noticeIndex_alarm_ne_fault).trans ?_⟩
  · exact congrArg (fun e => some (postedEntry .slotFault (.cause k code) e))
      ((rest _).trans ((if_neg noticeIndex_alarm_ne_fault.symm).trans Live.heatNoticed_fault))
  · exact (rest _).trans (if_pos rfl)

theorem keptAtFault_eq (list : List HeadMsg) : keptAtFault list = list.filter fun m => !m.goesAtFault := by
  unfold keptAtFault
  congr 1
  funext m
  cases m <;> rfl

/-- What the slot's link has to send after a fault, where none of its own orders is aborted (R129 steps 5 and 7). -/
theorem Taking.fault_queue (joined : t.live.slots[s].state.joined = true) (unique : (t.live.pool.map Order.tag).Nodup)
    (apart : SlotApart c t.live s) :
    let left : Live := { t.live with
      slots := t.live.slots.set s { t.live.slots[s] with state := .faulted }
      heads := t.live.heads.set s { t.live.heads[s] with list := keptAtFault t.live.heads[s].list } }
    (t.fault c s k code).live.heads[s].list = (left.syncLamp c s).heads[s].list
      ∧ (t.fault c s k code).live.heads[s].sending = (left.syncLamp c s).heads[s].sending := by
  rw [keptAtFault_eq]
  exact Taking.fault_head joined unique ((slotApart_iff unique).1 apart)

/-- The slot's holding stands unless its TRAVEL was unsent (R52, R69). -/
theorem Taking.fault_holding (joined : t.live.slots[s].state.joined = true) (unique : (t.live.pool.map Order.tag).Nodup)
    (placed : t.holdDones = false) (apart : SlotApart c t.live s) :
    ((∀ tag o, t.live.slots[s].work = .order tag → t.live.orderOf? s tag = some o → o.unsent = false ∨ o.travelMark = none) →
        (t.fault c s k code).live.holdings[s] = t.live.holdings[s])
      ∧ (∀ tag o v g, t.live.slots[s].work = .order tag → t.live.orderOf? s tag = some o → o.unsent = true →
          o.travelMark ≠ none → t.live.travels[s] = some v → t.live.holdings[s] = some g →
          (t.fault c s k code).live.holdings[s] = some { rail := g.rail, run := v.former }) := by
  have taken := (lossOf_fault (s := s) (k := k) (code := code) unique placed).holding (c := c) (k := k) (code := code)
    (d := .slotFaulted) apart
  have holding : (t.fault c s k code).live.holdings[s] =
      (t.lossWorked c s (vmod t.live.slots s (Slot.faulted k code)) k code .slotFaulted).live.holdings[s] :=
    (congrArg (fun v : Vector (Option Holding) 12 => v[s]) (Taking.fault_holdings joined)).trans taken
  rw [holding]
  refine ⟨fun stays => ?_, fun tag o v g work found unsent mark travel held => ?_⟩
  · exact congrArg (fun v : Vector (Option Holding) 12 => v[s]) (Taking.loseWork_holdings stays)
  · obtain ⟨-, -, mine⟩ := Live.orderOf?_spec found
    have lost : t.lossWorked c s (vmod t.live.slots s (Slot.faulted k code)) k code .slotFaulted =
        (t.on fun l => { l with slots := vmod t.live.slots s (Slot.faulted k code) }).loseOrder c o k code .slotFaulted := by
      unfold Taking.lossWorked Taking.loseWork
      rw [work]
      dsimp only
      rw [show (t.on fun l => { l with slots := vmod t.live.slots s (Slot.faulted k code) }).live.orderOf? s tag = some o
        from found]
    rw [lost]
    subst mine
    exact Taking.loseOrder_restores unsent mark travel held

/-- What the fault of a joined slot leaves (R129). -/
theorem Taking.fault_leaves (c : Setup) (k : LossCause) (code : Option Nat) (joined : t.live.slots[s].state.joined = true)
    (unique : (t.live.pool.map Order.tag).Nodup) (placed : t.holdDones = false) :
    FaultLeaves c t.live s k code (t.fault c s k code).live := by
  have h : LossOf s (vmod t.live.slots s (Slot.faulted k code)) t := lossOf_fault unique placed
  have left := Taking.fault_left (c := c) (k := k) (code := code) joined
  obtain ⟨state, fault, head, tool, lever, pending⟩ := Taking.fault_record (c := c) (k := k) (code := code) joined unique placed
  obtain ⟨faulted, alarm⟩ := Taking.fault_notices (c := c) (k := k) (code := code) joined unique placed
  obtain ⟨lamp, aspect⟩ := fault_aspect (c := c) (k := k) (code := code) joined
  refine ⟨state, fault, head, tool, lever, pending, Taking.fault_travel joined, h.waiting_left left, h.own_left left,
    h.moduleGone left alarm, faulted, lamp, aspect, fun m inList => ?_, fun apart => Taking.fault_queue joined unique apart,
    fun apart => ?_, fun _ sent => h.lossEnds sent left⟩
  · have kept := fault_unsent (c := c) (k := k) (code := code) joined m inList
    cases m <;> simp [HeadMsg.goesAtFault, HeadMsg.isLamp] at kept ⊢
  · obtain ⟨work, timer⟩ := Taking.fault_idle (c := c) (k := k) (code := code) joined unique placed apart
    obtain ⟨stays, restored⟩ := Taking.fault_holding (c := c) (k := k) (code := code) joined unique placed apart
    exact ⟨work, timer, stays, restored⟩

end Fault

end Sys2Proof.Machine
end

section
/-! PROOFS. The losses of slots, stated of the state as the event found it: before its frame was taken, or before time passed. -/

namespace Sys2Proof.Machine

open Sys2Proof.Safety

/-! ### States that differ in timers and links alone -/

/-- The states differ in the timers of slots and lanes, the claims and the links alone. -/
structure Alike (l l' : Live) : Prop where
  pool : l'.pool = l.pool
  holes : l'.holes = l.holes
  unitsInUse : l'.unitsInUse = l.unitsInUse
  zones : l'.zones = l.zones
  notices : l'.notices = l.notices
  holdings : l'.holdings = l.holdings
  travels : l'.travels = l.travels
  slot : ∀ j : SlotId, ∃ timer, l'.slots[j] = { l.slots[j] with timer }
  lane : ∀ i : LaneId, ∃ cadence, l'.lanes[i] = { l.lanes[i] with cadence }

section Alike

variable {l l' : Live} {c : Setup} {s : SlotId} {o : Order} {u : Live}

theorem Alike.state (a : Alike l l') (j : SlotId) : l'.slots[j].state = l.slots[j].state := by
  obtain ⟨timer, e⟩ := a.slot j
  rw [e]

theorem Alike.work (a : Alike l l') (j : SlotId) : l'.slots[j].work = l.slots[j].work := by
  obtain ⟨timer, e⟩ := a.slot j
  rw [e]

theorem Alike.identity (a : Alike l l') (j : SlotId) : l'.slots[j].identity = l.slots[j].identity := by
  obtain ⟨timer, e⟩ := a.slot j
  rw [e]
  rfl

theorem Alike.stock (a : Alike l l') (i : LaneId) : l'.lanes[i].stock = l.lanes[i].stock := by
  obtain ⟨cadence, e⟩ := a.lane i
  rw [e]

theorem Alike.heat (a : Alike l l') (i : LaneId) : l'.lanes[i].heat = l.lanes[i].heat := by
  obtain ⟨cadence, e⟩ := a.lane i
  rw [e]

theorem Alike.fault (a : Alike l l') (i : LaneId) : l'.lanes[i].fault = l.lanes[i].fault := by
  obtain ⟨cadence, e⟩ := a.lane i
  rw [e]

theorem Alike.heatOn (a : Alike l l') (i : LaneId) (j : SlotId) : l'.lanes[i].heatOn j = l.lanes[i].heatOn j := by
  unfold Lane.heatOn
  rw [a.heat]

theorem Alike.heatOff (a : Alike l l') (i : LaneId) (j : SlotId) : l'.lanes[i].heatOff j = l.lanes[i].heatOff j := by
  unfold Lane.heatOff
  rw [a.heat]

theorem Alike.hole? (a : Alike l l') (n : Nat) : l'.hole? n = l.hole? n := Live.hole?_congr a.holes

theorem Alike.orderOf? (a : Alike l l') (j : SlotId) (tag : Nat) : l'.orderOf? j tag = l.orderOf? j tag := by
  unfold Live.orderOf?
  rw [a.pool]

theorem Alike.holeClamped (a : Alike l l') : l'.holeClamped c = l.holeClamped c := by
  funext n
  unfold Live.holeClamped Live.clamped
  rw [a.zones]

theorem Alike.ownClamped (a : Alike l l') : ownClamped c l' s = ownClamped c l s := by
  funext z
  unfold Safety.ownClamped
  rw [a.zones]

theorem Alike.ownLost (a : Alike l l') : ownLost c l' s = ownLost c l s := by
  funext z
  unfold Safety.ownLost
  rw [a.ownClamped, a.zones]

theorem Alike.failingHeat (a : Alike l l') : failingHeat l' s = failingHeat l s := by
  unfold Safety.failingHeat
  simp only [a.work, a.orderOf?, a.heatOn]

theorem Alike.heatCloses (a : Alike l l') (i : LaneId) : heatCloses l' s i = heatCloses l s i := by
  unfold Safety.heatCloses
  simp only [a.work, a.orderOf?]

theorem Alike.faultEntry (a : Alike l l') : faultEntry l' s = faultEntry l s := by
  unfold Safety.faultEntry
  simp only [a.notices, a.failingHeat]

theorem Alike.slotApart (a : Alike l l') : SlotApart c l' s ↔ SlotApart c l s := by
  unfold SlotApart
  rw [a.pool, a.ownLost]

theorem Alike.noneTakenBack (a : Alike l l') : NoneTakenBack c l' s ↔ NoneTakenBack c l s := by
  unfold NoneTakenBack
  rw [a.pool, a.ownLost]

theorem Alike.goesBack (a : Alike l l') : GoesBack l' o u ↔ GoesBack l o u := by
  unfold GoesBack
  simp only [a.state]

theorem Alike.clampAborts (a : Alike l l') {hit : Order → Bool} : ClampAborts c l' hit u ↔ ClampAborts c l hit u := by
  unfold ClampAborts
  simp only [a.pool, a.goesBack, a.hole?]

theorem Alike.moduleGone (a : Alike l l') : ModuleGone c l' s u ↔ ModuleGone c l s u := by
  unfold ModuleGone
  simp only [a.ownLost, a.ownClamped, a.notices, a.clampAborts, a.pool]

theorem Alike.lossEnds (a : Alike l l') {k : LossCause} {code : Option Nat} :
    LossEnds c l' s k code u ↔ LossEnds c l s k code u := by
  unfold LossEnds
  simp only [a.ownClamped, a.holeClamped, a.heatCloses, a.failingHeat, a.heatOff, a.heat, a.fault, a.stock, a.hole?, a.orderOf?,
    a.unitsInUse, a.work, a.state]

/-- The slot FAULTED, with what a fault keeps of its list (R129 steps 1 and 5). -/
def Live.faultLine (s : SlotId) (l : Live) : Live :=
  { l with
    slots := l.slots.set s { l.slots[s] with state := .faulted }
    heads := l.heads.set s { l.heads[s] with list := keptAtFault l.heads[s].list } }

theorem Live.faultLine_slot : (l.faultLine s).slots[s] = { l.slots[s] with state := .faulted } :=
  (vset_get ..).trans (if_pos rfl)

theorem Live.faultLine_head : (l.faultLine s).heads[s] = { l.heads[s] with list := keptAtFault l.heads[s].list } :=
  (vset_get ..).trans (if_pos rfl)

/-- The LAMP of a fault, of states whose link has the same to send (R125). -/
theorem Alike.faultLamp (a : Alike l l') (list : l'.heads[s].list = l.heads[s].list)
    (sending : l'.heads[s].sending = l.heads[s].sending) :
    ((l'.faultLine s).syncLamp c s).heads[s].list = ((l.faultLine s).syncLamp c s).heads[s].list
      ∧ ((l'.faultLine s).syncLamp c s).heads[s].sending = ((l.faultLine s).syncLamp c s).heads[s].sending := by
  have identity := a.identity s
  simp only [Slot.identity, Prod.mk.injEq] at identity
  obtain ⟨-, -, -, -, lamp, aspect, -⟩ := identity
  refine Live.syncLamp_head ?_ ?_ ?_ ?_ ?_
  · rw [Live.faultLine_head, Live.faultLine_head]
    exact congrArg keptAtFault list
  · rw [Live.faultLine_head, Live.faultLine_head]
    exact sending
  · rw [Live.faultLine_slot, Live.faultLine_slot]
    exact lamp
  · rw [Live.faultLine_slot, Live.faultLine_slot]
  · rw [Live.faultLine_slot, Live.faultLine_slot]
    exact aspect

/-- What the fault of a slot has done stands of the state as the event found it. -/
theorem Alike.faultLeaves (a : Alike l l') (list : l'.heads[s].list = l.heads[s].list)
    (sending : l'.heads[s].sending = l.heads[s].sending) {k : LossCause} {code : Option Nat}
    (h : FaultLeaves c l' s k code u) : FaultLeaves c l s k code u := by
  have identity := a.identity s
  simp only [Slot.identity, Prod.mk.injEq] at identity
  obtain ⟨sameHead, sameTool, sameLever, -, sameLamp, -⟩ := identity
  obtain ⟨sameList, sameSending⟩ := a.faultLamp (c := c) list sending
  obtain ⟨state, fault, head, tool, lever, pending, travel, waiting, own, gone, posted, lamp, aspect, unsent, queue, idle, ends⟩ := h
  simp only [a.work, a.pool, a.orderOf?, a.holdings, a.travels] at fault waiting own idle
  rw [a.faultEntry] at posted
  rw [sameLamp] at aspect
  exact ⟨state, fault, head.trans sameHead, tool.trans sameTool, lever.trans sameLever, pending, travel, waiting, own,
    a.moduleGone.1 gone, posted, lamp.trans sameLamp, aspect, unsent,
    fun apart => ⟨(queue (a.slotApart.2 apart)).1.trans sameList, (queue (a.slotApart.2 apart)).2.trans sameSending⟩,
    fun apart => idle (a.slotApart.2 apart), fun apart sent => a.lossEnds.1 (ends (a.slotApart.2 apart) (a.noneTakenBack.2 sent))⟩

end Alike

/-! ### The frame of a report, and time -/

section Before

variable {s : State} {slot : SlotId} {hs n : Nat} {c c' : Setup} {l u : Live} {k : LossCause} {code : Option Nat}

theorem alike_heads (l : Live) (heads : Vector HeadLink 12) : Alike l { l with heads } :=
  ⟨rfl, rfl, rfl, rfl, rfl, rfl, rfl, fun _ => ⟨_, rfl⟩, fun _ => ⟨_, rfl⟩⟩

theorem alike_framed : Alike s.live (framed s slot hs) := by
  rw [framed_eq]
  exact alike_heads _ _

theorem alike_elapse : Alike s.live (s.elapse n).live where
  pool := rfl
  holes := rfl
  unitsInUse := rfl
  zones := rfl
  notices := rfl
  holdings := rfl
  travels := rfl
  slot _ := ⟨_, vmap_get _ _ _⟩
  lane _ := ⟨_, vmap_get _ _ _⟩

theorem elapse_head (j : SlotId) :
    (s.elapse n).live.heads[j] = { s.live.heads[j] with silence := s.live.heads[j].silence.map (· - n) } := vmap_get _ _ _

/-- Whether a transmission begins depends of the setup on the hold of the links alone (R194). -/
theorem Live.beginHead_setup (hold : c'.headHold.isNone = c.headHold.isNone) : l.beginHead c' slot = l.beginHead c slot := by
  unfold Live.beginHead
  cases before : c.headHold with
  | none =>
    rw [before, Option.isNone_none] at hold
    rw [Option.isNone_iff_eq_none.1 hold]
  | some x =>
    rw [before] at hold
    obtain ⟨y, after⟩ := Option.isSome_iff_exists.1 (Option.isNone_eq_false_iff.1 hold)
    rw [after]

theorem Live.syncLamp_setup (hold : c'.headHold.isNone = c.headHold.isNone) : l.syncLamp c' slot = l.syncLamp c slot := by
  unfold Live.syncLamp Live.queueLamp Live.queue
  simp only [Live.beginHead_setup hold]

/-- The setup that time leaves does of a fault what it did before. -/
theorem faultLeaves_elapse (h : FaultLeaves (s.elapse n).setup (s.elapse n).live slot k code u) :
    FaultLeaves s.setup s.live slot k code u := by
  have setup : FaultLeaves s.setup (s.elapse n).live slot k code u := by
    obtain ⟨state, fault, head, tool, lever, pending, travel, waiting, own, gone, posted, lamp, aspect, unsent, queue, idle,
      ends⟩ := h
    refine ⟨state, fault, head, tool, lever, pending, travel, waiting, own, gone, posted, lamp, aspect, unsent, fun apart => ?_,
      idle, ends⟩
    have hold : (s.elapse n).setup.headHold.isNone = s.setup.headHold.isNone := by
      show (s.setup.headHold.map (· - n)).isNone = _
      cases s.setup.headHold <;> rfl
    have same := queue apart
    simp only [Live.syncLamp_setup hold] at same
    exact same
  exact alike_elapse.faultLeaves (by rw [elapse_head]) (by rw [elapse_head]) setup

end Before

end Sys2Proof.Machine
end

section
/-! PROOFS. The faults of slots (O47). -/

namespace Sys2Proof.Machine

open Sys2Proof.Safety

section Faults

variable {s : State} {slot : SlotId} {hs code tag centre : Nat} {l : Live} {k : LossCause} {n : Option Nat}

/-- A fault taken on a state that the event found alike, its link having the same to send. -/
theorem fault_leaves_of_alike (a : Alike s.live l) (list : l.heads[slot].list = s.live.heads[slot].list)
    (sending : l.heads[slot].sending = s.live.heads[slot].sending) (joined : s.live.slots[slot].state.joined = true)
    (unique : (s.live.pool.map Order.tag).Nodup) :
    FaultLeaves s.setup s.live slot k n ((Taking.start l).fault s.setup slot k n).live :=
  a.faultLeaves list sending (Taking.fault_leaves (t := Taking.start l) s.setup k n
    (by rw [Taking.start_live, a.state]; exact joined) (by rw [Taking.start_live, a.pool]; exact unique) rfl)

/-- The live state in which a FAULT is weighed (R174, R128): its frame taken, with PROTOCOL for the code 0. -/
def faultFramed (s : State) (slot : SlotId) (hs code : Nat) : Live :=
  if code = 0 then (framed s slot hs).headError slot .protocol else framed s slot hs

theorem alike_faultFramed : Alike s.live (faultFramed s slot hs code) := by
  unfold faultFramed
  split
  · rw [framed_eq]
    exact alike_heads _ _
  · exact alike_framed

theorem faultFramed_head : (faultFramed s slot hs code).heads[slot].list = s.live.heads[slot].list
    ∧ (faultFramed s slot hs code).heads[slot].sending = s.live.heads[slot].sending := by
  unfold faultFramed
  split
  · have own : ((framed s slot hs).headError slot .protocol).heads[slot] =
        { (framed s slot hs).heads[slot] with status := (framed s slot hs).heads[slot].status.record .protocol } :=
      vmod_get_self _ _ _
    rw [own]
    exact framed_own
  · exact framed_own

/-- A FAULT of a slot that is not EMPTY (R128). -/
theorem fault_of (r : Reports s slot) : exec (.fault slot hs code) s = .next
    (if s.live.slots[slot].state.joined = true then
      settled s ((Taking.start (faultFramed s slot hs code)).fault s.setup slot .headFault (some code))
    else { s with live := (if s.live.slots[slot].state = .joining then
        (faultFramed s slot hs code).updSlot slot fun x =>
          { x with fault := some { cause := .headFault, code := some code, tag := none } }
      else faultFramed s slot hs code).postSlot slot .slotFault (.cause .headFault (some code)) }) := by
  have weighed : (if code = 0 then ({ s with live := framed s slot hs } : State).protocol slot
      else { s with live := framed s slot hs }) = { s with live := faultFramed s slot hs code } := by
    unfold faultFramed
    split <;> rfl
  have state := alike_faultFramed (s := s) (slot := slot) (hs := hs) (code := code) |>.state slot
  rw [show exec (.fault slot hs code) s = execFault slot hs code s from rfl, execFault, r.taken]
  dsimp only
  rw [weighed]
  simp only [state]
  split
  · rfl
  · split <;> rfl

/-- A stage that expires while it runs (R129). -/
theorem stageExpiry_of {p : TimedStage → Bool} {take : Setup → TimedStage → Taking → Taking} {g : StageTimer}
    (held : s.setup.resetHeld = false) (timer : s.live.slots[slot].timer = some g) (runs : p g.stage = true) :
    stageExpiry slot p take s = .next (settled (s.elapse g.left)
      (take (s.elapse g.left).setup g.stage (Taking.start (s.elapse g.left).live))) := by
  unfold stageExpiry
  rw [event_taken held, timer]
  dsimp only
  rw [if_pos runs]
  rfl

/-- A grace that expires (R129): OP_TIMEOUT after RUN, POSITION_LOST after TRAVEL. -/
theorem graceExpiry_of {g : StageTimer} (held : s.setup.resetHeld = false) (timer : s.live.slots[slot].timer = some g)
    (runs : g.stage = .graceRun ∨ g.stage = .graceTravel) : exec (.graceStageExpiry slot) s = .next (settled (s.elapse g.left)
      ((Taking.start (s.elapse g.left).live).fault (s.elapse g.left).setup slot
        (if g.stage = .graceRun then .opTimeout else .positionLost) none)) :=
  stageExpiry_of (p := fun g => g == .graceRun || g == .graceTravel)
    (take := fun c g t => t.fault c slot (if g = .graceRun then .opTimeout else .positionLost) none) held timer
    (by obtain stage | stage := runs <;> rw [stage] <;> rfl)

/-- The fault of a stage that has overrun. -/
theorem elapsed_fault_leaves (m : Nat) (joined : s.live.slots[slot].state.joined = true)
    (unique : (s.live.pool.map Order.tag).Nodup) : FaultLeaves s.setup s.live slot k n
      ((Taking.start (s.elapse m).live).fault (s.elapse m).setup slot k n).live :=
  faultLeaves_elapse (Taking.fault_leaves (t := Taking.start (s.elapse m).live) (s.elapse m).setup k n
    (by rw [Taking.start_live, alike_elapse.state]; exact joined) unique rfl)

/-- A bad ARRIVED of an order whose travel is on its way (R129). -/
theorem arrived_bad (r : Reports s slot) {v : Travel} {o : Order} (travel : s.live.travels[slot] = some v) (named : v.tag = tag)
    (found : s.live.orderOf? slot tag = some o) (mark : o.travelMark = some .sent)
    (expected : o.state = .travelling ∨ (o.state = .aborting ∧ o.step = some .travel)) (bad : goodArrival v o centre = false) :
    exec (.arrived slot hs tag centre) s = .next
      (settled s ((Taking.start (framed s slot hs)).fault s.setup slot .positionLost none)) := by
  have awaited : (framed s slot hs).expectedTravel slot tag = some (v, o) := by
    unfold Live.expectedTravel
    rw [framed_orderOf?, found, alike_framed.travels, travel]
    exact if_pos ⟨named, expected, mark⟩
  rw [show exec (.arrived slot hs tag centre) s = execArrived slot hs tag centre s from rfl, execArrived, r.taken]
  dsimp only
  rw [awaited]
  dsimp only
  rw [bad]
  rfl

/-- Settles O47: every fault is the one taking of `fault_leaves`, on the state as its event left it. -/
theorem slotFaults : Obligations.SlotFaults := by
  refine ⟨fun slot hs code s r apart => ?_, fun slot hs code tag centre s held joined unique => ?_⟩
  · exact (fault_of r).trans (congrArg Host.Outcome.next (if_neg (by rw [apart]; exact Bool.false_ne_true)))
  have r : Reports s slot := ⟨held, fun empty => by rw [empty] at joined; cases joined⟩
  have framedLeaves (k : LossCause) :
      FaultLeaves s.setup s.live slot k none ((Taking.start (framed s slot hs)).fault s.setup slot k none).live :=
    fault_leaves_of_alike alike_framed framed_own.1 framed_own.2 joined unique
  refine ⟨⟨_, by rw [fault_of r, if_pos joined], fault_leaves_of_alike alike_faultFramed faultFramed_head.1 faultFramed_head.2
      joined unique⟩, fun g timer => ⟨fun stage => ?_, fun stage => ?_, fun stage => ?_, fun stage => ?_⟩,
    fun v o travel named found mark state off => ?_, fun v o travel named found mark state step off => ?_⟩
  · exact ⟨_, stageExpiry_of (p := fun g => g == .accept) (take := fun c _ t => t.fault c slot .noAccept none) held timer
      (by rw [stage]; rfl), elapsed_fault_leaves g.left joined unique⟩
  · exact ⟨_, graceExpiry_of held timer (.inl stage), by rw [stage]; exact elapsed_fault_leaves g.left joined unique⟩
  · exact ⟨_, graceExpiry_of held timer (.inr stage), by rw [stage]; exact elapsed_fault_leaves g.left joined unique⟩
  · exact ⟨_, stageExpiry_of (p := fun g => g == .abort) (take := fun c _ t => t.fault c slot .abortLost none) held timer
      (by rw [stage]; rfl), elapsed_fault_leaves g.left joined unique⟩
  · refine ⟨_, arrived_bad r travel named found mark (.inl state) ?_, framedLeaves .positionLost⟩
    unfold goodArrival
    rw [if_pos state]
    exact beq_eq_false_iff_ne.2 off
  · refine ⟨_, arrived_bad r travel named found mark (.inr ⟨state, step⟩) ?_, framedLeaves .positionLost⟩
    unfold goodArrival
    rw [if_neg (by rw [state]; exact nofun)]
    obtain far | outside := off
    · simp [Nat.not_le.2 far]
    · rw [outside, Bool.and_false]

end Faults

end Sys2Proof.Machine
end

section
/-! PROOFS. What a link down leaves of its slot (O42). -/

namespace Sys2Proof.Machine

open Sys2Proof.Safety

/-! ### A link down, step by step (R127, R124) -/

section LinkLost

variable {c : Setup} {s : SlotId} {t : Taking} {l : Live}

/-- The record of a slot as its link goes down (R127 steps 1 and 2). -/
def Slot.unlinked (x : Slot) : Slot := { x with state := .empty, timer := none, work := .idle }

/-- The record of an EMPTY slot: all but lamp setting, aspect and fault record discarded (R127 step 8). -/
def Slot.discarded (x : Slot) : Slot :=
  { x with head := none, tool := none, lever := .closed, leverPending := false, aspect := aspectOf x.lamp .empty }

/-- The slot's orders taken (R127 steps 3 and 4). -/
def Taking.linkTaken (c : Setup) (s : SlotId) (t : Taking) : Taking :=
  t.lossTaken c s (vmod t.live.slots s Slot.unlinked) .linkLost none .slotLost

/-- The slot's link, its holding, its lane, its zones' notices and its record (R127 steps 5 to 8). -/
def Live.linkRest (c : Setup) (s : SlotId) (zones : List (ZoneId × Zone)) (l : Live) : Live :=
  (((((l.updHead s HeadLink.wentDown).setHolding s none).setTravel s none).heaterLost c s).postClampLost s
    (clampLostOf zones)).updSlot s Slot.discarded

/-- The detail of LINK_LOST: the tag of the slot's order in flight (section 8.5). -/
def linkDetail (x : Slot) : Detail := x.work.tag?.elim .none .tag

theorem Taking.freeHolding_live : (t.freeHolding s).live = (t.live.setHolding s none).setTravel s none := by
  unfold Taking.freeHolding
  dsimp only
  split
  · rfl
  · exact Taking.wakeRail_live ..

theorem Taking.linkLost_live (was : t.live.slots[s].state ≠ .empty) : (t.linkLost c s).live =
    if t.live.slots[s].state = .released then (t.linkTaken c s).live.linkRest c s (t.live.zonesOf c s)
    else ((t.linkTaken c s).live.linkRest c s (t.live.zonesOf c s)).postSlot s .linkLost (linkDetail t.live.slots[s]) := by
  have rest : ((((((t.linkTaken c s).on fun l => l.updHead s HeadLink.wentDown).freeHolding s).on (Live.heaterLost c s)).moduleLost
      s (t.live.zonesOf c s)).on fun l => l.updSlot s Slot.discarded).live =
      (t.linkTaken c s).live.linkRest c s (t.live.zonesOf c s) := by
    rw [Taking.on_live, Taking.moduleLost_live, Taking.on_live, Taking.freeHolding_live]
    rfl
  have detail : (match t.live.slots[s].work.tag? with
      | some n => .tag n
      | none => .none) = linkDetail t.live.slots[s] := by
    unfold linkDetail
    cases t.live.slots[s].work.tag? <;> rfl
  unfold Taking.linkLost
  rw [if_neg was]
  dsimp only
  split
  · exact rest
  · exact congrArg₂ (fun x (l : Live) => l.postSlot s .linkLost x) detail rest

theorem lossOf_link (unique : (t.live.pool.map Order.tag).Nodup) (placed : t.holdDones = false) :
    LossOf s (vmod t.live.slots s Slot.unlinked) t where
  unique := unique
  placed := placed
  gone := by rw [vmod_get_self]; rfl
  others j other := vmod_get_ne _ _ other

/-- What the rest of a link down keeps. -/
theorem Live.linkRest_keeps {α : Type} (f : Live → α) (heads : ∀ (l : Live) (x : Vector HeadLink 12), f { l with heads := x } = f l)
    (holdings : ∀ (l : Live) (x : Vector (Option Holding) 12), f { l with holdings := x } = f l)
    (travels : ∀ (l : Live) (x : Vector (Option Travel) 12), f { l with travels := x } = f l)
    (slots : ∀ (l : Live) (x : Vector Slot 12), f { l with slots := x } = f l)
    (lanes : ∀ l : Live, f (l.heaterLost c s) = f l)
    (posts : ∀ (l : Live) (n : NoticeCode) (x : Detail), f (l.postSlot s n x) = f l) (zones : List (ZoneId × Zone)) (l : Live) :
    f (l.linkRest c s zones) = f l := by
  refine (slots _ _).trans ?_
  rw [Live.postClampLost_keeps f fun _ _ => posts _ _ _, lanes]
  exact (travels _ _).trans ((holdings _ _).trans (heads _ _))

theorem Live.linkRest_slots (zones : List (ZoneId × Zone)) (l : Live) :
    (l.linkRest c s zones).slots = vmod l.slots s Slot.discarded := by
  unfold Live.linkRest
  simp

theorem Live.linkRest_heads (zones : List (ZoneId × Zone)) (l : Live) :
    (l.linkRest c s zones).heads = vmod l.heads s HeadLink.wentDown := by
  unfold Live.linkRest
  simp

/-- What a link down makes of a field that LINK_LOST does not touch. -/
theorem Taking.linkLost_field {α : Type} (f : Live → α) (was : t.live.slots[s].state ≠ .empty)
    (posts : ∀ (l : Live) (n : NoticeCode) (x : Detail), f (l.postSlot s n x) = f l) :
    f (t.linkLost c s).live = f ((t.linkTaken c s).live.linkRest c s (t.live.zonesOf c s)) := by
  rw [Taking.linkLost_live was]
  split
  · rfl
  · exact posts _ _ _

theorem Taking.linkLost_keeps {α : Type} (was : t.live.slots[s].state ≠ .empty) (f : Live → α)
    (heads : ∀ (l : Live) (x : Vector HeadLink 12), f { l with heads := x } = f l)
    (holdings : ∀ (l : Live) (x : Vector (Option Holding) 12), f { l with holdings := x } = f l)
    (travels : ∀ (l : Live) (x : Vector (Option Travel) 12), f { l with travels := x } = f l)
    (slots : ∀ (l : Live) (x : Vector Slot 12), f { l with slots := x } = f l)
    (lanes : ∀ l : Live, f (l.heaterLost c s) = f l)
    (posts : ∀ (l : Live) (n : NoticeCode) (x : Detail), f (l.postSlot s n x) = f l) :
    f (t.linkLost c s).live = f (t.linkTaken c s).live := by
  rw [Taking.linkLost_field f was posts, Live.linkRest_keeps f heads holdings travels slots lanes posts]

theorem Taking.linkLost_left (was : t.live.slots[s].state ≠ .empty) :
    LossLeft c s (t.linkTaken c s).live (t.linkLost c s).live where
  orderly := Taking.linkLost_keeps was Live.orderly (fun _ _ => rfl) (fun _ _ => rfl) (fun _ _ => rfl) (fun _ _ => rfl)
    (fun l => by simp [Live.orderly]) fun _ _ _ => rfl
  lanes := by
    rw [Taking.linkLost_field Live.lanes was fun _ _ _ => rfl]
    exact (Live.postClampLost_keeps Live.lanes (fun _ _ => rfl) _).trans (Live.heaterLost_lanes_congr rfl)
  others j other := by
    rw [Taking.linkLost_field Live.slots was fun _ _ _ => rfl, Taking.linkLost_field Live.heads was fun _ _ _ => rfl,
      Live.linkRest_slots, Live.linkRest_heads]
    exact ⟨vmod_get_ne _ _ other, vmod_get_ne _ _ other⟩

/-- The slot's record after a link down (R127): EMPTY, all but lamp setting and fault record discarded. -/
theorem Taking.linkLost_slot (was : t.live.slots[s].state ≠ .empty) :
    (t.linkLost c s).live.slots[s] = (t.linkTaken c s).live.slots[s].discarded := by
  rw [Taking.linkLost_field Live.slots was fun _ _ _ => rfl, Live.linkRest_slots]
  exact vmod_get_self _ _ _

theorem Taking.linkLost_record (was : t.live.slots[s].state ≠ .empty) (unique : (t.live.pool.map Order.tag).Nodup)
    (placed : t.holdDones = false) :
    (t.linkLost c s).live.slots[s].state = .empty ∧ (t.linkLost c s).live.slots[s].head = none
      ∧ (t.linkLost c s).live.slots[s].tool = none ∧ (t.linkLost c s).live.slots[s].lever = .closed
      ∧ (t.linkLost c s).live.slots[s].leverPending = false
      ∧ (t.linkLost c s).live.slots[s].lamp = t.live.slots[s].lamp
      ∧ (t.linkLost c s).live.slots[s].fault = t.live.slots[s].fault := by
  have h : LossOf s (vmod t.live.slots s Slot.unlinked) t := lossOf_link unique placed
  have identity := LossOf.identity (c := c) (s := s) (slots := vmod t.live.slots s Slot.unlinked) (k := .linkLost) (code := none)
    (d := .slotLost) (t := t)
  have state := h.state (c := c) (k := .linkLost) (code := none) (d := .slotLost)
  rw [vmod_get_self] at identity state
  simp only [Slot.identity, Prod.mk.injEq] at identity
  obtain ⟨-, -, -, -, lamp, -, fault⟩ := identity
  rw [Taking.linkLost_slot was]
  exact ⟨state, rfl, rfl, rfl, rfl, lamp, fault⟩

theorem Taking.linkLost_idle (was : t.live.slots[s].state ≠ .empty) (unique : (t.live.pool.map Order.tag).Nodup)
    (placed : t.holdDones = false) (apart : SlotApart c t.live s) :
    (t.linkLost c s).live.slots[s].work = .idle ∧ (t.linkLost c s).live.slots[s].timer = none := by
  have slot := (lossOf_link (s := s) unique placed).slot (c := c) (k := .linkLost) (code := none) (d := .slotLost) apart
  rw [vmod_get_self] at slot
  have record : (t.linkTaken c s).live.slots[s] = t.live.slots[s].unlinked := slot
  rw [Taking.linkLost_slot was, record]
  exact ⟨rfl, rfl⟩

/-- The slot's holding and travel are gone (R59). -/
theorem Taking.linkLost_place (was : t.live.slots[s].state ≠ .empty) :
    (t.linkLost c s).live.holdings[s] = none ∧ (t.linkLost c s).live.travels[s] = none := by
  have holdings : (t.linkLost c s).live.holdings = (t.linkTaken c s).live.holdings.set s none := by
    rw [Taking.linkLost_field Live.holdings was fun _ _ _ => rfl]
    refine (Live.postClampLost_keeps Live.holdings (fun _ _ => rfl) _).trans ?_
    rw [Live.heaterLost_holdings]
    rfl
  have travels : (t.linkLost c s).live.travels = (t.linkTaken c s).live.travels.set s none := by
    rw [Taking.linkLost_field Live.travels was fun _ _ _ => rfl]
    refine (Live.postClampLost_keeps Live.travels (fun _ _ => rfl) _).trans ?_
    rw [Live.heaterLost_travels]
    rfl
  rw [holdings, travels]
  exact ⟨(vset_get ..).trans (if_pos rfl), (vset_get ..).trans (if_pos rfl)⟩

/-- The notices of a link down: CLAMP_LOST for each clamp lost, and LINK_LOST but for a RELEASED slot (R155, R127). -/
theorem Taking.linkLost_notices (was : t.live.slots[s].state ≠ .empty) (unique : (t.live.pool.map Order.tag).Nodup)
    (placed : t.holdDones = false) :
    (t.linkLost c s).live.notices[noticeIndex (slotSource s) .fault] =
        (if t.live.slots[s].state = .released then faultEntry t.live s
        else some (postedEntry .linkLost (linkDetail t.live.slots[s]) (faultEntry t.live s)))
      ∧ (t.linkLost c s).live.notices[noticeIndex (slotSource s) .alarm] =
        ((List.finRange 8).filter (ownLost c t.live s)).foldl (fun e z => some (postedEntry .clampLost (.zone z) e))
          t.live.notices[noticeIndex (slotSource s) .alarm] := by
  have taken : (t.linkTaken c s).live.notices = t.live.heatNoticed s (failingHeat t.live s) :=
    (lossOf_link unique placed).notices
  have rest (i : Fin 52) : ((t.linkTaken c s).live.linkRest c s (t.live.zonesOf c s)).notices[i] =
      if i = noticeIndex (slotSource s) .alarm then
        ((List.finRange 8).filter (ownLost c t.live s)).foldl (fun e z => some (postedEntry .clampLost (.zone z) e))
          t.live.notices[noticeIndex (slotSource s) .alarm]
      else (t.live.heatNoticed s (failingHeat t.live s))[i] := by
    refine (Live.postClampLost_notice _ _).trans ?_
    simp only [Live.heaterLost_notices, Live.setTravel_notices, Live.setHolding_notices, Live.updHead_notices,
      clampLostOf_zonesOf, taken, Live.heatNoticed_alarm]
  have fault := (rest (noticeIndex (slotSource s) .fault)).trans
    ((if_neg noticeIndex_alarm_ne_fault.symm).trans Live.heatNoticed_fault)
  have alarm := (rest (noticeIndex (slotSource s) .alarm)).trans (if_pos rfl)
  rw [Taking.linkLost_live was]
  by_cases released : t.live.slots[s].state = .released
  · simp only [released, if_true]
    exact ⟨fault, alarm⟩
  · simp only [released, if_false]
    refine ⟨(vmod_get_self _ _ _).trans ?_, (vmod_get_ne _ _ noticeIndex_alarm_ne_fault).trans alarm⟩
    exact congrArg (fun e => some (postedEntry .linkLost (linkDetail t.live.slots[s]) e)) fault

end LinkLost

/-! ### LINK_DOWN (R127, R173) -/

section LinkDown

variable {s : State} {slot : SlotId} {n : Nat}

/-- A LINK_DOWN of a link that is UP: the silence left passes first. -/
theorem linkDown_of (held : s.setup.resetHeld = false) (silence : s.live.heads[slot].silence = some n) :
    exec (.linkDown slot) s = .next (settled (s.elapse n)
      ((Taking.start (s.elapse n).live).linkLost (s.elapse n).setup slot)) := by
  rw [show exec (.linkDown slot) s = execLinkDown slot s from rfl, execLinkDown, event_taken held, silence]
  rfl

theorem countUp_eq (m : Nat) : countUp m = min (m + 1) 255 := by
  unfold countUp
  split <;> omega

/-- A link that goes down (R173). -/
theorem HeadLink.wentDown_eq (k : HeadLink) : k.wentDown = { k with
    up := false, silence := none, list := [], rx := { state := .outside, content := [], discarding := false }
    status := { k.status with downs := min (k.status.downs + 1) 255 } } := by
  rw [← countUp_eq]
  rfl

/-- The link after a link down: nothing left to send but what is in transmission (R173, R176). -/
theorem linkDown_head (was : (s.elapse n).live.slots[slot].state ≠ .empty) (unique : (s.live.pool.map Order.tag).Nodup) :
    let u := (Taking.start (s.elapse n).live).linkLost (s.elapse n).setup slot
    let k := s.live.heads[slot]
    u.live.heads[slot] = { k with
        up := false, silence := none, list := [], sending := u.live.heads[slot].sending
        rx := { state := .outside, content := [], discarding := false }
        status := { k.status with downs := min (k.status.downs + 1) 255 } }
      ∧ (SlotApart s.setup s.live slot → u.live.heads[slot].sending = s.live.heads[slot].sending) := by
  obtain ⟨head, apart⟩ := Taking.linkLost_head (c := (s.elapse n).setup) (t := Taking.start (s.elapse n).live) (s := slot) was unique
  intro u k
  refine ⟨head.trans ?_, fun own => ?_⟩
  · rw [HeadLink.wentDown_eq, Taking.start_live, elapse_head]
  · have own : SlotApart (s.elapse n).setup (s.elapse n).live slot := alike_elapse.slotApart.2 own
    refine (congrArg HeadLink.sending (apart ((slotApart_iff (t := Taking.start (s.elapse n).live) unique).1 own))).trans ?_
    rw [Taking.start_live, elapse_head]
    rfl

/-- Settles O42: one taking of the loss on the state that the silence has left, stated of the state before it. -/
theorem linkGoesDown : Obligations.LinkGoesDown := by
  intro slot s held
  refine ⟨fun down => ?_, fun n silence empty => ?_, fun n silence linked unique => ?_⟩
  · rw [show exec (.linkDown slot) s = execLinkDown slot s from rfl, execLinkDown, event_taken held, down]
  · have was : (s.elapse n).live.slots[slot].state = .empty := (alike_elapse.state slot).trans empty
    rw [linkDown_of held silence]
    unfold Taking.linkLost
    rw [Taking.start_live, if_pos was]
    exact congrArg (fun k => Host.Outcome.next (settled (s.elapse n) (Taking.start { (s.elapse n).live with
      heads := (s.elapse n).live.heads.set slot k }))) (HeadLink.wentDown_eq _)
  · have a : Alike s.live (s.elapse n).live := alike_elapse
    have was : (s.elapse n).live.slots[slot].state ≠ .empty := fun empty => linked ((a.state slot).symm.trans empty)
    have h : LossOf slot _ (Taking.start (s.elapse n).live) := lossOf_link unique rfl
    have left := Taking.linkLost_left (c := (s.elapse n).setup) (t := Taking.start (s.elapse n).live) was
    have identity := a.identity slot
    simp only [Slot.identity, Prod.mk.injEq] at identity
    obtain ⟨-, -, -, -, sameLamp, -, sameFault⟩ := identity
    obtain ⟨state, head, tool, lever, pending, lamp, fault⟩ :=
      Taking.linkLost_record (c := (s.elapse n).setup) (t := Taking.start (s.elapse n).live) was unique rfl
    obtain ⟨posted, alarm⟩ :=
      Taking.linkLost_notices (c := (s.elapse n).setup) (t := Taking.start (s.elapse n).live) was unique rfl
    obtain ⟨holding, travel⟩ := Taking.linkLost_place (c := (s.elapse n).setup) (t := Taking.start (s.elapse n).live) was
    obtain ⟨line, sending⟩ := linkDown_head (s := s) (slot := slot) (n := n) was unique
    have waiting := h.waiting_left left
    have own := h.own_left left
    have gone := a.moduleGone.1 (h.moduleGone left alarm)
    simp only [Taking.start_live, a.work, a.state, a.faultEntry, a.orderOf?, linkDetail] at posted waiting own
    refine ⟨_, linkDown_of held silence, ⟨state, head, tool, lever, pending, lamp.trans sameLamp, fault.trans sameFault, posted⟩,
      line, holding, travel, waiting, own, gone, fun apart => ?_, fun _ sent => ?_⟩
    · obtain ⟨work, timer⟩ := Taking.linkLost_idle (c := (s.elapse n).setup) (t := Taking.start (s.elapse n).live) was unique rfl
        (a.slotApart.2 apart)
      exact ⟨work, timer, sending apart⟩
    · have sent : NoneTakenBack (s.elapse n).setup (s.elapse n).live slot := a.noneTakenBack.2 sent
      have ends := a.lossEnds.1 (h.lossEnds sent left)
      exact ends

end LinkDown

end Sys2Proof.Machine
end

section
/-! PROOFS. The admission of an order message against the table of R27 (O21). -/

namespace Sys2Proof.Machine

open Sys2Proof.Safety

/-! ### Lists of checks -/

theorem firstReason_cons (b : Bool) (r : Reason) (rest : List (Bool × Reason)) :
    firstReason ((b, r) :: rest) = if b = true then some r else firstReason rest := rfl

theorem firstReason_append (xs ys : List (Bool × Reason)) :
    firstReason (xs ++ ys) = (firstReason xs).or (firstReason ys) := by
  induction xs with
  | nil => rfl
  | cons x rest ih =>
    obtain ⟨b, r⟩ := x
    cases b
    · exact ih
    · rfl

/-- No reason applies when every check passes. -/
theorem firstReason_eq_none {xs : List (Bool × Reason)} : firstReason xs = none ↔ ∀ b r, (b, r) ∈ xs → b = false := by
  induction xs with
  | nil => simp [firstReason]
  | cons x rest ih =>
    obtain ⟨b, r⟩ := x
    cases b with
    | false => simpa [firstReason_cons] using ih
    | true =>
      simp only [firstReason_cons, if_true, reduceCtorEq, false_iff]
      exact fun passes => absurd (passes true r (List.mem_cons_self ..)) nofun

/-! ### The table in its three parts -/

/-- The checks that no slot is needed for (R27). -/
def gateChecks (c : Setup) (l : Live) (m : OrderMsg) : List (Bool × Reason) :=
  [ (c.lockout || c.preload == .running, .locked),
    (c.mode == .stop, .stopped),
    (needsHole m.kind && c.frame.isNone, .noFrame),
    (m.tag == 0 || l.pool.any (fun o => o.tag == m.tag), .tagInUse),
    (decide (32 ≤ l.pool.length), .poolFull) ]

/-- The checks of the slot named (R27). -/
def slotChecks (c : Setup) (l : Live) (m : OrderMsg) : List (Bool × Reason) :=
  [ ((slotNamed c m).isNone, if m.kind = .clamp ∨ m.kind = .unclamp then .badZone else .badSlot),
    (atSlot c m fun s => l.slots[s].state == .empty || l.slots[s].state == .joining, .slotAbsent),
    (atSlot c m fun s => l.slots[s].state == .faulted, .slotFaulted),
    (atSlot c m fun s => l.slots[s].state == .leaving || l.slots[s].state == .released, .slotLeaving),
    (atSlot c m fun s => !m.kind.servedBy l.slots[s].kind?, .wrongKind) ]

/-- The checks of the target (R27). -/
def targetChecks (c : Setup) (l : Live) (m : OrderMsg) : List (Bool × Reason) :=
  [ ((m.kind == .drill || m.kind == .ream) && !(decide (1 ≤ m.feed) && decide (m.feed ≤ 4)), .badValue),
    (needsHole m.kind && ((c.row? m.hole).isNone || (l.hole? m.hole).isNone), .badHole),
    (m.kind == .heat && atSlot c m (fun s => (laneFits c l s m.lane).isNone), .badLane),
    (needsHole m.kind && atSlot c m (fun s => l.slots[s].rail? != (c.row? m.hole).map PatternRow.rail), .wrongRail),
    (needsHole m.kind && !(l.hole? m.hole).any (fun x => m.kind.admittedBy x.state), .holeState),
    (needsHole m.kind && l.pool.any (fun o => o.target == .hole m.hole), .holeClaimed),
    (m.kind == .heat && (laneOf m.lane).any (fun i => c.tables.lanes[i].mode == .auto), .laneAuto),
    ((m.kind == .drill || m.kind == .ream) && atSlot c m (fun s => l.slots[s].tool.any Tool.spent), .toolSpent) ]

theorem refusals_eq (c : Setup) (l : Live) (m : OrderMsg) :
    refusals c l m = gateChecks c l m ++ (slotChecks c l m ++ targetChecks c l m) := rfl

/-- A result that stands unless one of the checks fails: then the reason of the first (R27). -/
def unlessRefused {α : Type} (checks : List (Bool × Reason)) (passed : Except Reason α) : Except Reason α :=
  match firstReason checks with
  | some r => .error r
  | none => passed

section Refusing

variable {α : Type} {b : Bool} {r : Reason} {xs ys : List (Bool × Reason)} {passed : Except Reason α}

@[simp] theorem unlessRefused_nil : unlessRefused [] passed = passed := rfl

@[simp] theorem unlessRefused_cons :
    unlessRefused ((b, r) :: xs) passed = if b = true then .error r else unlessRefused xs passed := by
  cases b <;> rfl

theorem unlessRefused_append : unlessRefused (xs ++ ys) passed = unlessRefused xs (unlessRefused ys passed) := by
  unfold unlessRefused
  rw [firstReason_append]
  cases firstReason xs <;> rfl

theorem unlessRefused_some (first : firstReason xs = some r) : unlessRefused xs passed = .error r := by
  rw [unlessRefused, first]

theorem unlessRefused_none (first : firstReason xs = none) : unlessRefused xs passed = passed := by
  rw [unlessRefused, first]

end Refusing

/-! ### The admission in its three parts -/

section Admission

variable {c : Setup} {l : Live} {m : OrderMsg} {s : SlotId} {channel : Option Nat} {r : Reason}

theorem OrderKind.holeKind_eq (k : OrderKind) : k.holeKind = needsHole k := by cases k <;> rfl

/-- The record that an order message spells for its slot, where its lane and zone numbers name one (R26). -/
def OrderMsg.record (c : Setup) (m : OrderMsg) (s : SlotId) : Option Order :=
  match m.kind with
  | .drill | .ream => some (newOrder m s none (.hole m.hole) ((c.row? m.hole).map PatternRow.centre) (some m.feed))
  | .set => some (newOrder m s none (.hole m.hole) ((c.row? m.hole).map PatternRow.centre) none)
  | .heat => (laneOf m.lane).map fun i => newOrder m s none (.lane i) none none
  | .clamp | .unclamp =>
    (zoneOf m.zone).map fun z => newOrder m s ((c.tables.zones[z]).map ZoneMap.channel) (.zone z) none none
  | .park => some (newOrder m s none .home (some c.tables.slots[s].home) none)

/-- The record as the admission gives it; it has one for every message that passes the checks. -/
def OrderMsg.spelled (c : Setup) (m : OrderMsg) : Except Reason Order :=
  ((slotNamed c m).bind (m.record c)).elim (.error .badZone) .ok

theorem OrderMsg.spelled_of_slot (named : slotNamed c m = some s) :
    m.spelled c = (m.record c s).elim (.error .badZone) .ok := by
  rw [OrderMsg.spelled, named, Option.bind_some]

/-- What `admitTarget` checks of a hole kind. -/
theorem admitTarget_hole (hole : needsHole m.kind = true) (named : slotNamed c m = some s) :
    admitTarget c l m s channel = unlessRefused (targetChecks c l m) (m.spelled c) := by
  rw [OrderMsg.spelled_of_slot named]
  unfold admitTarget targetChecks holeFits
  simp only [unlessRefused_cons, unlessRefused_nil, atSlot, named, Option.any_some, OrderKind.holeKind_eq, hole, if_true]
  cases kind : m.kind
  case heat | clamp | unclamp | park => simp [kind, needsHole] at hole
  all_goals
    cases row : c.row? m.hole with
    | none => simp
    | some r =>
      cases entry : l.hole? m.hole with
      | none => simp
      | some x => simp [OrderMsg.record, kind, row]

/-- What `admitTarget` checks of a HEAT. -/
theorem admitTarget_heat (heat : m.kind = .heat) (named : slotNamed c m = some s) :
    admitTarget c l m s channel = unlessRefused (targetChecks c l m) (m.spelled c) := by
  rw [OrderMsg.spelled_of_slot named]
  unfold admitTarget targetChecks
  simp only [unlessRefused_cons, unlessRefused_nil, atSlot, named, Option.any_some, heat, OrderKind.holeKind, needsHole,
    OrderMsg.record]
  cases lane : laneOf m.lane with
  | none => simp [laneFits, lane]
  | some i =>
    by_cases fits : c.tables.lanes[i].slot = some s ∧ l.slots[s].head.map Joined.declared = some (.heat i)
    · simp [laneFits, lane, fits, -Fin.getElem_fin, -Option.map_eq_some_iff]
    · simp [laneFits, lane, fits, -Fin.getElem_fin, -Option.map_eq_some_iff]

/-- PARK, CLAMP and UNCLAMP have no check of their target. -/
theorem targetChecks_free (free : m.kind = .park ∨ m.kind = .clamp ∨ m.kind = .unclamp) :
    firstReason (targetChecks c l m) = none := by
  obtain kind | kind | kind := free <;> simp [targetChecks, firstReason, kind, needsHole]

theorem admitTarget_park (park : m.kind = .park) (named : slotNamed c m = some s) :
    admitTarget c l m s channel = unlessRefused (targetChecks c l m) (m.spelled c) := by
  rw [unlessRefused_none (targetChecks_free (.inl park)), OrderMsg.spelled_of_slot named]
  simp [admitTarget, park, OrderKind.holeKind, OrderMsg.record]

theorem admitTarget_zone (zone : m.kind = .clamp ∨ m.kind = .unclamp) (named : slotNamed c m = some s)
    (place : m.place c = some (s, channel)) :
    admitTarget c l m s channel = unlessRefused (targetChecks c l m) (m.spelled c) := by
  rw [unlessRefused_none (targetChecks_free (.inr zone)), OrderMsg.spelled_of_slot named]
  have kind : m.kind.zoneKind = true := by obtain k | k := zone <;> rw [k] <;> rfl
  rw [OrderMsg.place, if_pos kind] at place
  cases hz : zoneOf m.zone with
  | none => simp [hz] at place
  | some z =>
    obtain ⟨e, entry, slot⟩ : ∃ e, c.tables.zones[z] = some e ∧ (e.slot, some e.channel) = (s, channel) := by
      simpa [hz] using place
    obtain rfl : some e.channel = channel := congrArg Prod.snd slot
    obtain k | k := zone <;> simp [admitTarget, k, OrderKind.holeKind, OrderMsg.record, hz, entry, -Fin.getElem_fin]

/-- The slot of an order message as its admission finds it. -/
theorem OrderMsg.place_slot : (m.place c).map Prod.fst = slotNamed c m := by
  unfold OrderMsg.place slotNamed
  rw [OrderKind.zoneKind_eq]
  by_cases zone : m.kind = .clamp ∨ m.kind = .unclamp
  · rw [if_pos (by simpa using zone), if_pos zone]
    cases hz : zoneOf m.zone with
    | none => rfl
    | some z => cases e : c.tables.zones[z] <;> simp [e, -Fin.getElem_fin]
  · rw [if_neg (by simpa using zone), if_neg zone]
    cases slotOf m.slot <;> rfl

theorem admitTarget_eq (place : m.place c = some (s, channel)) :
    admitTarget c l m s channel = unlessRefused (targetChecks c l m) (m.spelled c) := by
  have named : slotNamed c m = some s := by rw [← OrderMsg.place_slot, place]; rfl
  cases kind : m.kind with
  | drill | ream | set => exact admitTarget_hole (by rw [kind]; rfl) named
  | heat => exact admitTarget_heat kind named
  | clamp => exact admitTarget_zone (.inl kind) named place
  | unclamp => exact admitTarget_zone (.inr kind) named place
  | park => exact admitTarget_park kind named

/-- What admission weighs of the slot and the target. -/
def admitSlot (c : Setup) (l : Live) (m : OrderMsg) : Except Reason Order :=
  match m.place c with
  | none => .error (if m.kind.zoneKind then .badZone else .badSlot)
  | some (s, channel) =>
    match slotReason l.slots[s].state with
    | some r => .error r
    | none => if !m.kind.servedBy l.slots[s].kind? then .error .wrongKind else admitTarget c l m s channel

theorem admitSlot_eq : admitSlot c l m = unlessRefused (slotChecks c l m ++ targetChecks c l m) (m.spelled c) := by
  rw [unlessRefused_append]
  unfold admitSlot slotChecks
  cases place : m.place c with
  | none =>
    have named : slotNamed c m = none := by rw [← OrderMsg.place_slot, place]; rfl
    simp [named, OrderKind.zoneKind_eq]
  | some p =>
    obtain ⟨s, channel⟩ := p
    have named : slotNamed c m = some s := by rw [← OrderMsg.place_slot, place]; rfl
    rw [← admitTarget_eq place]
    cases state : l.slots[s].state <;> simp [named, atSlot, slotReason, state, -Fin.getElem_fin]

/-- Admission is the table of R27, read case by case. -/
theorem admission_eq : admission c l m = unlessRefused (refusals c l m) (m.spelled c) := by
  have fresh : (m.tag = 0 ∨ (l.order? m.tag).isSome) ↔ (m.tag == 0 || l.pool.any fun o => o.tag == m.tag) = true := by
    simp [Live.order?, List.find?_isSome]
  rw [refusals_eq, unlessRefused_append, ← admitSlot_eq]
  unfold gateChecks
  simp only [unlessRefused_cons, unlessRefused_nil, ← fresh]
  simp only [Bool.or_eq_true, beq_iff_eq, Bool.and_eq_true, decide_eq_true_eq, ← OrderKind.holeKind_eq]
  rfl

theorem admission_refused (first : firstReason (refusals c l m) = some r) : admission c l m = .error r := by
  rw [admission_eq, unlessRefused_some first]

/-- A message that passes names a slot, and its numbers spell a record. -/
theorem record_of_passed (first : firstReason (refusals c l m) = none) :
    ∃ s o, slotNamed c m = some s ∧ m.record c s = some o := by
  have passes := firstReason_eq_none.mp first
  have slot := passes (slotNamed c m).isNone (if m.kind = .clamp ∨ m.kind = .unclamp then .badZone else .badSlot)
    (by simp [refusals])
  have lane := passes (m.kind == .heat && atSlot c m fun s => (laneFits c l s m.lane).isNone) .badLane
    (by simp [refusals])
  obtain ⟨s, named⟩ := Option.isSome_iff_exists.mp (by simpa using slot)
  suffices spelled : (m.record c s).isSome = true by
    obtain ⟨o, record⟩ := Option.isSome_iff_exists.mp spelled
    exact ⟨s, o, named, record⟩
  cases kind : m.kind with
  | drill | ream | set | park => simp [OrderMsg.record, kind]
  | heat =>
    cases number : laneOf m.lane with
    | none => simp [kind, atSlot, named, laneFits, number] at lane
    | some i => simp [OrderMsg.record, kind, number]
  | clamp | unclamp =>
    cases number : zoneOf m.zone with
    | none => simp [slotNamed, kind, number] at named
    | some z => simp [OrderMsg.record, kind, number]

theorem admission_passed (first : firstReason (refusals c l m) = none) :
    ∃ s o, slotNamed c m = some s ∧ m.record c s = some o ∧ admission c l m = .ok o := by
  obtain ⟨s, o, named, record⟩ := record_of_passed first
  refine ⟨s, o, named, record, ?_⟩
  rw [admission_eq, unlessRefused_none first, OrderMsg.spelled_of_slot named, record]
  rfl

/-- An admitted order has passed every check, and is the record of its message. -/
theorem admission_ok {o : Order} (e : admission c l m = .ok o) :
    firstReason (refusals c l m) = none ∧ ∃ s, slotNamed c m = some s ∧ m.record c s = some o := by
  cases first : firstReason (refusals c l m) with
  | some r => rw [admission_refused first] at e; cases e
  | none =>
    obtain ⟨s, o', named, record, passed⟩ := admission_passed first
    obtain rfl : o' = o := Except.ok.inj (passed.symm.trans e)
    exact ⟨rfl, s, named, record⟩

/-- What every record has of its message. -/
theorem OrderMsg.record_fields {o : Order} (e : m.record c s = some o) :
    o.tag = m.tag ∧ o.kind = m.kind ∧ o.slot = s ∧ (∀ n, o.target = .hole n → n = m.hole ∧ needsHole m.kind = true) := by
  unfold OrderMsg.record at e
  split at e
  case h_4 | h_5 | h_6 =>
    obtain ⟨x, -, rfl⟩ := Option.map_eq_some_iff.mp e
    exact ⟨rfl, rfl, rfl, by simp [newOrder]⟩
  all_goals
    obtain rfl := Option.some.inj e
    refine ⟨rfl, rfl, rfl, ?_⟩
    simp_all [newOrder, needsHole]

end Admission

/-! ### The order messages -/

section Messages

variable {h : Header} {n : Nat} {m : OrderMsg} {r : Reason} {s : State}

theorem orderMessage_misshapen (w : Weighed s) (length : h.length ≠ n) :
    orderMessage h n m s = .next (replied s (.refused h.tag .badValue)) :=
  w.misshapen (.inr (by simpa using length))

theorem orderMessage_taken (w : Weighed s) (selector : h.selector = 0) (length : h.length = n)
    (unlocked : s.setup.lockout = false) : orderMessage h n m s = .next (takeOrder m (closed s)) :=
  w.taken (by simpa using selector) (by simpa using length) fun _ => unlocked

/-- A refused order message, whichever check refuses it. -/
theorem orderMessage_refused (w : Weighed s) (selector : h.selector = 0) (tag : m.tag = h.tag) (length : h.length = n)
    (first : firstReason (refusals s.setup s.live m) = some r) :
    orderMessage h n m s = .next (replied s (.refused h.tag r)) := by
  by_cases lockout : s.setup.lockout = true
  · obtain rfl : Reason.locked = r := by simpa [refusals, firstReason, lockout] using first
    exact w.locked (by simpa using selector) (by simpa using length) lockout
  · rw [orderMessage_taken w selector length (by simpa using lockout), takeOrder]
    have refused : admission (closed s).setup (closed s).live m = .error r := admission_refused first
    rw [refused, tag]
    rfl

end Messages

/-- Settles O21: the wrong length, and else the table of R27 that admission reads. -/
theorem admissionRefused : Obligations.AdmissionRefused := by
  intro h slot hole feed zone lane r s w selector
  dsimp only
  exact ⟨⟨orderMessage_misshapen w, orderMessage_refused w selector rfl⟩,
    ⟨orderMessage_misshapen w, orderMessage_refused w selector rfl⟩,
    ⟨orderMessage_misshapen w, orderMessage_refused w selector rfl⟩,
    ⟨orderMessage_misshapen w, orderMessage_refused w selector rfl⟩,
    ⟨orderMessage_misshapen w, orderMessage_refused w selector rfl⟩,
    ⟨orderMessage_misshapen w, orderMessage_refused w selector rfl⟩,
    ⟨orderMessage_misshapen w, orderMessage_refused w selector rfl⟩⟩

end Sys2Proof.Machine
end

section
/-! PROOFS. What every command keeps of the live state, and the law of the pool (O10, O4). -/

namespace Sys2Proof.Machine

open Sys2Proof.Safety

/-! ### What a change of the live state keeps -/

namespace Live

/-- The pool only loses orders and the messages for the cell only become more; with `still`, notices, zone states and the
identities of the slots stand as well. The hole entries, which a frame message replaces, are left out. -/
structure Kept (still : Bool) (l l' : Live) : Prop where
  orders : (l'.pool.map Order.fixed).Sublist (l.pool.map Order.fixed)
  bodies : l.cell.bodies <+: l'.cell.bodies
  stands : still = true → l'.notices = l.notices ∧ (∀ z : ZoneId, l'.zones[z].state = l.zones[z].state)
    ∧ ∀ j : SlotId, l'.slots[j].identity = l.slots[j].identity

variable {still : Bool} {a b d l l' : Live} {c : Setup}

theorem Forward.kept (h : Forward l l') : Kept false l l' := ⟨h.orders, h.bodies, nofun⟩

theorem Examined.kept (h : Examined l l') : Kept still l l' :=
  ⟨h.orders, h.bodies, fun _ => ⟨h.notices, h.zones, h.slots⟩⟩

theorem Kept.refl : Kept still l l := (Examined.refl l).kept

theorem Kept.trans (h : Kept still a b) (k : Kept still b d) : Kept still a d :=
  ⟨k.orders.trans h.orders, h.bodies.trans k.bodies, fun s =>
    ⟨(k.stands s).1.trans (h.stands s).1, fun z => ((k.stands s).2.1 z).trans ((h.stands s).2.1 z),
      fun j => ((k.stands s).2.2 j).trans ((h.stands s).2.2 j)⟩⟩

/-- A change of fields that the bound does not name. -/
theorem Kept.of_same (p : l'.pool = l.pool) (k : l'.cell.bodies = l.cell.bodies) (n : l'.notices = l.notices)
    (z : l'.zones = l.zones) (s : l'.slots = l.slots) : Kept still l l' :=
  ⟨by rw [p], by rw [k], fun _ => ⟨n, by simp [z], by simp [s]⟩⟩

/-- A change of notices, zones or slots alone. -/
theorem Kept.of_pool (p : l'.pool = l.pool) (k : l'.cell.bodies = l.cell.bodies) : Kept false l l' :=
  ⟨by rw [p], by rw [k], nofun⟩

theorem Kept.withHoles {holes : List Hole} (h : Kept still l l') : Kept still l { l' with holes } :=
  h.trans (.of_same rfl rfl rfl rfl rfl)

theorem Kept.place {x : CellBody} : Kept still l (l.place c x) := Examined.place.kept

theorem Kept.closeFrame : Kept still l l.closeFrame := .of_same rfl rfl rfl rfl rfl

theorem Kept.cellError {e : LinkError} : Kept still l (l.cellError e) := .of_same rfl rfl rfl rfl rfl

theorem Kept.headError {s : SlotId} {e : LinkError} : Kept still l (l.headError s e) := .of_same rfl rfl rfl rfl rfl

theorem Kept.headFrame {s : SlotId} {hs : Nat} : Kept still l (l.headFrame s hs) :=
  .of_same (by simp) (by simp) (by simp) (by simp) (by simp)

/-- The end of a taking keeps what its steps have kept. -/
theorem Kept.finish {t : Taking} (h : Kept still l t.live) : Kept still l (t.finish c) :=
  h.trans (t.finish_examined c).kept

theorem Kept.slot {j : SlotId} (h : Kept true l l') :
    l'.slots[j].head = l.slots[j].head ∧ l'.slots[j].tool = l.slots[j].tool ∧ l'.slots[j].lever = l.slots[j].lever
      ∧ l'.slots[j].leverPending = l.slots[j].leverPending ∧ l'.slots[j].lamp = l.slots[j].lamp
      ∧ l'.slots[j].aspect = l.slots[j].aspect ∧ l'.slots[j].fault = l.slots[j].fault := by
  have same := (h.stands rfl).2.2 j
  simpa [Slot.identity] using same

theorem Kept.tags (h : Kept still l l') : (l'.pool.map Order.tag).Sublist (l.pool.map Order.tag) := by
  have tags := h.orders.map Prod.fst
  rw [List.map_map, List.map_map] at tags
  exact tags

/-- Received bytes record errors and nothing else. -/
theorem Kept.receive {held : Bool} {record : LinkError → Live → Live} (k : ∀ e l, Kept still l (record e l))
    (bytes : List Byte) (rx : Receiver) (l : Live) : Kept still l (Machine.receive held record rx bytes l).2 := by
  induction bytes generalizing rx l with
  | nil => exact .refl
  | cons x rest ih =>
    unfold Machine.receive
    split
    · exact ih _ _
    · exact (k _ _).trans (ih _ _)

theorem Kept.acceptHeat {s : SlotId} {i : LaneId} {g : Heat} {n : Option Nat} :
    Kept still l (l.acceptHeat c s i g n) := by
  unfold Live.acceptHeat
  split
  · exact (Examined.editHeat.trans Examined.startStage).kept
  · exact .refl

theorem Kept.acceptOrder {o : Order} {n : Option Nat} : Kept still l (l.acceptOrder c o n) := by
  have taken : Examined l ((l.dropRivetOf o).updOrder o.tag fun x =>
      { x with state := .running, rivet := x.rivet.map fun r => { r with whereabouts := .carried } }) :=
    Examined.dropRivetOf.trans (Examined.updOrder fun _ => rfl)
  unfold Live.acceptOrder
  dsimp only
  refine (taken.trans (Examined.trans ?_ Examined.startStage)).kept
  split
  · exact Examined.updLane
  · exact Examined.refl _

end Live

/-! ### What the takings keep -/

namespace Taking

variable {c : Setup} {still : Bool} {l : Live} {t : Taking}

/-- A good arrival (R67, R68). -/
theorem arrive_examined (slot : SlotId) (v : Travel) (o : Order) (centre : Nat) :
    Live.Examined t.live (t.arrive c slot v o centre).live := by
  have narrowed : Live.Examined t.live (((t.narrow slot (span centre)).workEnds slot).wakeGate).live :=
    (narrow_examined _ _ _).trans (workEnds_examined _ _)
  unfold arrive
  dsimp only
  split
  · exact narrowed.trans (leave_examined _ _ _ _ _ _)
  · split
    · split
      · exact narrowed.trans (leave_examined _ _ _ _ _ _)
      · exact narrowed.trans (withdraw_examined _ _ _ _)
    · exact narrowed.trans (Live.Examined.updOrder fun _ => rfl)

theorem cancelOrder_examined (o : Order) : Live.Examined t.live (t.cancelOrder c o).live := by
  unfold cancelOrder
  dsimp only
  split
  · exact leave_examined _ _ _ _ _ _
  · exact Live.Examined.updOrder fun _ => rfl
  · have flagged : Live.Examined t.live (t.on (Live.updOrder o.tag fun x => { x with cancel := true })).live :=
      Live.Examined.updOrder fun _ => rfl
    exact flagged.trans (abort_examined _ _ _ _)

end Taking

namespace Live

variable {c : Setup} {l : Live}

/-- A taken CANCEL (R45). -/
theorem cancelled_examined (o : Order) : Examined l (l.cancelled c o) := by
  unfold Live.cancelled
  dsimp only
  refine Examined.trans ?_ (Taking.finish_examined _ _)
  refine Examined.trans ?_ (Taking.flush_examined _ _)
  exact Examined.trans (Taking.cancelOrder_examined (t := Taking.holding l) o) Examined.place

/-- The examinations that a mode of RUN or STANDBY starts (R63). -/
theorem examineAll_examined (first : Rail → Bool) : Examined l (l.examineAll c first) := by
  have rail (b : Bool) (t : Taking) (r : Rail) :
      Examined t.live (if first r = b then (t.wakeRail r).settleRails c else t).live := by
    split
    · rw [← Taking.wakeRail_live r t]
      exact Taking.settleRails_examined _ _
    · exact Examined.refl _
  have rails (b : Bool) (t : Taking) : Examined t.live
      ([Rail.a, .b].foldl (fun t r => if first r = b then (t.wakeRail r).settleRails c else t) t).live :=
    (rail b t .a).trans (rail b _ .b)
  exact (((rails true (Taking.start l)).trans (Taking.examine_examined c _)).trans (rails false _)).trans
    Examined.syncCadences

/-- Entering STOP (R146). -/
theorem enterStop_kept : Kept false l (l.enterStop c) := by
  unfold Live.enterStop
  dsimp only
  refine Kept.finish ?_
  refine Kept.trans (b := (((Taking.start l).abortAll c .guard (l.pool.map Order.tag)).stopHeat c 0 |>.stopHeat c 1).live) ?_
    Forward.post.kept
  exact (((Taking.abortAll_examined c .guard _ (Taking.start l)).trans (Taking.stopHeat_examined _ _ _)).trans
    (Taking.stopHeat_examined _ _ _)).kept

/-- An admitted order enters at the tail, and what follows keeps the rest (R28). -/
theorem admitted_kept (o : Order) : Kept true (l.enter o) (l.admitted c o) := by
  unfold Live.admitted
  dsimp only
  refine (Examined.trans ?_ Examined.syncCadences).kept
  refine Examined.trans ?_ (Taking.flush_examined _ _)
  exact Examined.trans (Taking.settle_examined c (Taking.holding (l.enter o)).wakeGate) Examined.place

end Live

/-! ### What the operations on a state keep -/

namespace State

variable {still : Bool} {s : State}

theorem elapse_kept (n : Nat) : Live.Kept still s.live (s.elapse n).live where
  orders := List.Sublist.refl _
  bodies := List.prefix_refl _
  stands := fun _ => ⟨rfl, fun _ => rfl, fun j => by simp [State.elapse, Slot.identity]⟩

theorem taking_kept {f : Setup → Taking → Taking} (k : ∀ c t, Live.Kept still t.live (f c t).live) :
    Live.Kept still s.live (s.taking f).live := (k s.setup (Taking.start s.live)).finish

/-- A taking after some time has passed. -/
theorem elapsed_taking_kept (n : Nat) {f : Setup → Taking → Taking} (k : ∀ c t, Live.Kept still t.live (f c t).live) :
    Live.Kept still s.live ((s.elapse n).taking f).live := (elapse_kept n).trans (taking_kept k)

theorem answer_kept (h : Header) (a : Answer) : Live.Kept still s.live (s.answer h a).live := .place

theorem refuse_kept (h : Header) (r : Reason) : Live.Kept still s.live (s.refuse h r).live := .place

theorem protocol_kept (slot : SlotId) : Live.Kept still s.live (s.protocol slot).live := .headError

theorem releaseFrame_kept (h : Header) (f : Frame) (mode : Mode) :
    Live.Kept still s.live (s.releaseFrame h f mode).live := by
  unfold releaseFrame
  dsimp only
  have synced (slots : List SlotId) (l : Live) : Live.Examined l (slots.foldl (fun l i => l.queueToolSync s.setup i) l) :=
    List.foldlRecOn _ _ (Live.Examined.refl _) fun _ e _ _ => e.trans Live.Examined.queueToolSync
  exact Live.Kept.finish (Live.Kept.withHoles
    (((Taking.withdrawAll_examined _ _ _ (Taking.start s.live)).trans Live.Examined.place).trans (synced _ _)).kept)

theorem startMode_kept (h : Header) (mode : Mode) (first : Rail → Bool) :
    Live.Kept still s.live (s.startMode h mode first).live :=
  (Live.Examined.place.trans (Live.examineAll_examined first)).kept

theorem holdMode_kept (h : Header) : Live.Kept still s.live (s.holdMode h).live :=
  (Live.Examined.place.trans Live.Examined.syncCadences).kept

theorem guardMoved_kept (before after : GuardState) : Live.Kept false s.live (s.guardMoved before after).live := by
  unfold guardMoved
  split
  · split
    · exact Live.Forward.post.kept
    · exact Live.enterStop_kept
  · exact Live.Forward.post.kept
  · exact .refl

theorem latch_kept : Live.Kept false s.live s.latch.live := by
  unfold latch
  dsimp only
  split
  · exact Live.Forward.post.kept
  · exact .refl

theorem endPreload_kept (st : PreloadState) (tables : Tables) (lockout : Bool) :
    Live.Kept false s.live (s.endPreload st tables lockout).live := by
  unfold endPreload
  dsimp only
  have forgotten (zones : List ZoneId) : Live.Kept false s.live (zones.foldl (fun l z => l.forgetZone z) s.live) :=
    (Taking.foldl_forward (f := fun l z => l.forgetZone z) (fun _ _ => Live.Forward.forgetZone) zones s.live).kept
  refine Live.Kept.finish ((forgotten (changedZones s.setup.tables tables)).trans ?_)
  split <;> exact .of_pool (by simp) (by simp)

theorem failPreload_kept (position : Nat) (r : Reason) : Live.Kept false s.live (s.failPreload position r).live :=
  (endPreload_kept (s := { s with setup := s.setup.emptyPatterns }) .failed Tables.defaults true).trans
    Live.Forward.post.kept

theorem readHeader_kept (e : Engine) : Live.Kept false s.live (s.readHeader e).live := by
  unfold readHeader
  dsimp only
  split
  · exact endPreload_kept _ _ _
  · split
    · exact failPreload_kept _ _
    · exact .refl

theorem readRecord_kept (e : Engine) (addr left position : Nat) (crc want : BitVec 16) :
    Live.Kept false s.live (s.readRecord e addr left position crc want).live := by
  unfold readRecord
  dsimp only
  split
  · exact failPreload_kept _ _
  · split
    · exact failPreload_kept _ _
    · exact .refl

theorem placeRestartAnswer_kept : Live.Kept still s.live s.placeRestartAnswer.live := by
  unfold placeRestartAnswer
  split
  · split
    · exact .place
    · exact .refl
  · exact .refl

theorem cellBytes_kept (bytes : List Byte) : Live.Kept still s.live (s.cellBytes bytes).live := by
  unfold cellBytes
  split
  · exact .closeFrame
  · exact (Live.Kept.receive (fun _ _ => .cellError) bytes _ _).trans (.of_same rfl rfl rfl rfl rfl)

theorem headBytes_kept (slot : SlotId) (bytes : List Byte) : Live.Kept false s.live (s.headBytes slot bytes).live :=
  Live.Forward.lineByte.kept.trans
    ((Live.Kept.receive (fun _ _ => .headError) bytes _ _).trans Live.Examined.updHead.kept)

theorem endStoreWrite_kept (w : StoreWrite) : Live.Kept still s.live (s.endStoreWrite w).live := by
  unfold endStoreWrite
  dsimp only
  refine (elapse_kept w.left).trans ?_
  split
  · split
    · exact .refl
    · exact .place
  · exact .refl

theorem abortedHeat_kept (slot : SlotId) : Live.Kept still s.live (s.abortedHeat slot).live := by
  unfold abortedHeat
  split
  · split
    next i _ _ _ =>
      refine taking_kept fun c t => ?_
      have closed : Live.Examined t.live (t.on (Live.closeHeat slot i)).live := Live.Examined.closeHeat
      exact (closed.trans (Taking.workEnds_examined _ _)).kept
    · exact protocol_kept _
  · exact protocol_kept _

theorem clampReport_kept (slot : SlotId) (channel code : Nat) :
    Live.Kept false s.live (s.clampReport slot channel code).live := by
  unfold clampReport
  dsimp only
  split
  · exact .refl
  · split
    · exact protocol_kept _
    · split
      · split
        · exact .refl
        · exact taking_kept fun _ _ => (Taking.zoneReport_forward _ _ _ _ _).kept
      · exact protocol_kept _

theorem refuseHello_kept (slot : SlotId) (r : JoinReason) : Live.Kept false s.live (s.refuseHello slot r).live :=
  (Live.Examined.queueJoin.toForward.trans Live.Forward.postSlot).kept

theorem acceptHello_kept (slot : SlotId) (revision : Nat) (b : HelloBody) (d : Declared) :
    Live.Kept false s.live (s.acceptHello slot revision b d).live := by
  have welcomed (t : State) : Live.Kept false t.live (t.taking fun c t => t.welcome c slot revision d (helloTool b)).live :=
    taking_kept fun _ _ => (Taking.welcome_forward _ _ _ _ _ _).kept
  exact welcomed (s.withTables (s.setup.tables.bindLane slot d))

end State

/-! ### What the commands keep -/

/-- A change of a state that keeps the bound. -/
def KeepsLive (still : Bool) (take : State → State) : Prop := ∀ s : State, Live.Kept still s.live (take s).live

namespace KeepsLive

variable {still : Bool} {take : State → State} {s t : State}

theorem cellMessage {form : ReplyForm} {h : Header} {exempt selOk lenOk lockable : Bool} (k : KeepsLive still take)
    (e : cellMessage form h exempt selOk lenOk lockable take s = .next t) : Live.Kept still s.live t.live := by
  obtain ⟨u, e', ends⟩ := cellMessage_ends form h exempt selOk lenOk lockable take s
  obtain rfl := Host.Outcome.next.inj (e.symm.trans e')
  obtain rfl | rfl | rfl | ⟨b, rfl⟩ | rfl := ends
  · exact .refl
  · exact .closeFrame
  · exact Live.Kept.closeFrame.trans .cellError
  · exact Live.Kept.closeFrame.trans .place
  · exact Live.Kept.closeFrame.trans (k { s with live := s.live.closeFrame })

theorem manage {h : Header} {length : Nat} {lockable : Bool} (k : KeepsLive still take)
    (e : manage h length lockable take s = .next t) : Live.Kept still s.live t.live := cellMessage k e

theorem tableWrite {h : Header} {selector length : Nat} (k : KeepsLive still take)
    (e : tableWrite h selector length take s = .next t) : Live.Kept still s.live t.live := cellMessage k e

theorem modeMessage {h : Header} {selector : Nat} (k : KeepsLive still take)
    (e : modeMessage h selector take s = .next t) : Live.Kept still s.live t.live := cellMessage k e

theorem query {h : Header} {selector length : Nat} (k : KeepsLive still take)
    (e : query h selector length take s = .next t) : Live.Kept still s.live t.live := cellMessage k e

theorem headReport {slot : SlotId} {hs : Nat} (k : KeepsLive still take) (e : headReport slot hs take s = .next t) :
    Live.Kept still s.live t.live := by
  obtain ⟨u, e', ends⟩ := headReport_ends slot hs take s
  obtain rfl := Host.Outcome.next.inj (e.symm.trans e')
  obtain rfl | rfl | rfl := ends
  · exact .refl
  · exact Live.Kept.headFrame.trans .headError
  · exact Live.Kept.headFrame.trans (k { s with live := s.live.headFrame slot hs })

theorem event (k : KeepsLive still take) (e : event take s = .next t) : Live.Kept still s.live t.live := by
  obtain ⟨u, e', rfl | rfl⟩ := event_ends take s
  all_goals obtain rfl := Host.Outcome.next.inj (e.symm.trans e')
  · exact .refl
  · exact k s

end KeepsLive

section Commands

variable {s t : State}

theorem stageExpiry_kept {slot : SlotId} {p : TimedStage → Bool} {take : Setup → TimedStage → Taking → Taking}
    (k : ∀ c g u, Live.Kept false u.live (take c g u).live) (e : stageExpiry slot p take s = .next t) :
    Live.Kept false s.live t.live := by
  refine KeepsLive.event (fun s => ?_) e
  split
  · exact .refl
  · split
    · exact State.elapsed_taking_kept _ fun c u => k c _ u
    · exact .refl

theorem execTableWriteZone_kept {h : Header} {zone slot channel : Nat}
    (e : execTableWriteZone h zone slot channel s = .next t) : Live.Kept false s.live t.live := by
  refine KeepsLive.tableWrite (fun s => ?_) e
  split
  · exact .place
  · split
    · exact .place
    · split
      · exact .place
      · have forgotten {c : Setup} {b : CellBody} {z : ZoneId} :
            Live.Kept false s.live ((s.live.forgetZone z).place c b) := Live.Forward.forgetZone.kept.trans .place
        dsimp only
        split
        · exact Live.Kept.finish forgotten
        · exact forgotten

theorem execTableWriteLane_kept {h : Header} {lane slot cls mode target : Nat}
    (e : execTableWriteLane h lane slot cls mode target s = .next t) : Live.Kept true s.live t.live := by
  refine KeepsLive.tableWrite (fun s => ?_) e
  split
  · exact .place
  · split
    · exact .place
    · split
      · exact .place
      · exact (Live.Examined.syncCadences.trans Live.Examined.place).kept

theorem execTableWritePump_kept {h : Header} {value : Nat} (e : execTableWritePump h value s = .next t) :
    Live.Kept true s.live t.live := by
  refine KeepsLive.tableWrite (fun s => ?_) e
  split
  · exact .place
  · exact Live.Kept.finish .place

theorem execFrameBegin_kept {h : Header} {p serial : Nat} (e : execFrameBegin h p serial s = .next t) :
    Live.Kept true s.live t.live := by
  refine KeepsLive.manage (fun s => ?_) e
  split
  · exact .place
  · split
    · exact .place
    · split
      · exact .place
      · split
        · exact .place
        · exact (Live.Kept.withHoles .refl).trans (Live.Examined.syncCadences.trans Live.Examined.place).kept

theorem execFrameEnd_kept {h : Header} (e : execFrameEnd h s = .next t) : Live.Kept true s.live t.live := by
  refine KeepsLive.manage (fun s => ?_) e
  split
  · exact .place
  · split
    · exact .place
    · split
      · exact .place
      · split
        · exact .place
        · exact State.releaseFrame_kept _ _ _

theorem execFrameAbandon_kept {h : Header} (e : execFrameAbandon h s = .next t) : Live.Kept true s.live t.live := by
  refine KeepsLive.manage (fun s => ?_) e
  split
  · exact .place
  · split
    · exact .place
    · exact State.releaseFrame_kept _ _ _

theorem execModeRun_kept {h : Header} (e : execModeRun h s = .next t) : Live.Kept true s.live t.live := by
  refine KeepsLive.modeMessage (fun s => ?_) e
  split
  · exact .place
  · split
    · exact .place
    · split
      · exact .place
      · split
        · exact State.startMode_kept _ _ _
        · exact .place

theorem execModeHold_kept {h : Header} (e : execModeHold h s = .next t) : Live.Kept true s.live t.live := by
  refine KeepsLive.modeMessage (fun s => ?_) e
  split
  · exact .place
  · split
    · exact .place
    · split
      · exact State.holdMode_kept _
      · exact .place

theorem execModeResume_kept {h : Header} (e : execModeResume h s = .next t) : Live.Kept true s.live t.live := by
  refine KeepsLive.modeMessage (fun s => ?_) e
  split
  · exact .place
  · split
    · exact .place
    · split
      · exact .place
      · split
        · exact State.holdMode_kept _
        · exact State.startMode_kept _ _ _

theorem execHoleRework_kept {h : Header} {hole : Nat} (e : execHoleRework h hole s = .next t) :
    Live.Kept true s.live t.live := by
  refine KeepsLive.manage (fun s => ?_) e
  split
  · exact .place
  · split
    · exact .place
    · split
      · exact .place
      · exact Live.Kept.finish (Live.Examined.updHole.trans Live.Examined.place).kept

theorem execSlotClear_kept {h : Header} {slot : Nat} (e : execSlotClear h slot s = .next t) :
    Live.Kept false s.live t.live := by
  refine KeepsLive.manage (fun s => ?_) e
  split
  · exact .place
  · split
    · exact .place
    · refine Live.Kept.trans ?_ .place
      refine Live.Forward.kept (Live.Forward.trans ?_ Live.Examined.syncCadences.toForward)
      exact (Live.Forward.updSlot.trans Live.Examined.queueJoin.toForward).trans Live.Forward.syncLamp

theorem execSlotRelease_kept {h : Header} {slot : Nat} (e : execSlotRelease h slot s = .next t) :
    Live.Kept false s.live t.live := by
  refine KeepsLive.manage (fun s => ?_) e
  split
  · exact .place
  · split
    · exact .place
    · split
      · exact .place
      · refine Live.Kept.trans ?_ .place
        refine Live.Forward.kept (Live.Forward.trans ?_ Live.Examined.syncCadences.toForward)
        exact (Live.Examined.queueToolSync.toForward.trans Live.Forward.updSlot).trans Live.Forward.syncLamp

theorem execLampSet_kept {h : Header} {slot setting : Nat} (e : execLampSet h slot setting s = .next t) :
    Live.Kept false s.live t.live := by
  refine KeepsLive.manage (fun s => ?_) e
  split
  · exact .place
  · exact .place
  next i v _ _ =>
    have lit : Live.Forward s.live
        ((Taking.start s.live).on fun l => (l.updSlot i fun x => { x with lamp := v }).syncLamp s.setup i).live :=
      Live.Forward.updSlot.trans Live.Forward.syncLamp
    refine Live.Kept.finish (Live.Forward.kept (Live.Forward.trans ?_ Live.Examined.place.toForward))
    split
    · exact lit.trans (Taking.leaving_forward _ _ _)
    · exact lit

theorem execNoticeTake_kept {h : Header} (e : execNoticeTake h s = .next t) : Live.Kept false s.live t.live := by
  refine KeepsLive.manage (fun s => ?_) e
  split
  · exact .place
  · refine Live.Kept.trans ?_ .place
    exact .of_pool rfl rfl

theorem execQueryLink_kept {h : Header} (e : execQueryLink h s = .next t) : Live.Kept true s.live t.live := by
  refine KeepsLive.query (fun s => ?_) e
  refine Live.Kept.trans ?_ .place
  exact .of_same rfl rfl rfl rfl rfl

theorem execReload_kept {h : Header} (e : execReload h s = .next t) : Live.Kept false s.live t.live := by
  refine KeepsLive.manage (fun s => ?_) e
  split
  · exact .place
  · split
    · exact .place
    · split
      · exact .place
      · exact (Live.Forward.emptyStock.trans Live.Forward.emptyStock).kept.trans .place

theorem execRestart_kept {h : Header} (e : execRestart h s = .next t) : Live.Kept true s.live t.live := by
  refine KeepsLive.manage (fun s => ?_) e
  split
  · exact .place
  · exact State.placeRestartAnswer_kept (s := { s with setup := { s.setup with restart := .taken h.tag } })

theorem execCancel_kept {h : Header} (e : execCancel h s = .next t) : Live.Kept true s.live t.live := by
  refine KeepsLive.cellMessage (fun s => ?_) e
  split
  · exact .place
  · split
    · exact .place
    · exact (Live.cancelled_examined _).kept

theorem execHeadLinkHoldEnd_kept (e : execHeadLinkHoldEnd s = .next t) : Live.Kept false s.live t.live := by
  refine KeepsLive.event (fun s => ?_) e
  split
  · exact .refl
  next n _ =>
    have begun (c : Setup) (slots : List SlotId) (l : Live) :
        Live.Examined l (slots.foldl (fun l i => l.beginHead c i) l) :=
      List.foldlRecOn _ _ (Live.Examined.refl _) fun _ e _ _ => e.trans Live.Examined.beginHead
    dsimp only
    exact (State.elapse_kept n).trans (begun { (s.elapse n).setup with headHold := none } allSlots
      (s.elapse n).live).kept

theorem execDamagedFrame_kept {link : LinkId} {bytes : List Byte} (e : execDamagedFrame link bytes s = .next t) :
    Live.Kept false s.live t.live := by
  refine KeepsLive.event (fun s => ?_) e
  split
  · exact .refl
  · split
    · exact State.cellBytes_kept _
    · exact State.headBytes_kept _ _

theorem execGuardChannelChange_kept {ch : Channel} {v : Level} (e : execGuardChannelChange ch v s = .next t) :
    Live.Kept false s.live t.live := by
  unfold execGuardChannelChange at e
  dsimp only at e
  split at e
  · obtain rfl := Host.Outcome.next.inj e
    exact .refl
  · split at e
    · obtain rfl := Host.Outcome.next.inj e
      exact .refl
    · obtain rfl := Host.Outcome.next.inj e
      exact State.guardMoved_kept (s := { s with setup :=
        { s.setup with pins := s.setup.pins.change ch v, guard := s.setup.guard.change ch v } }) _ _

theorem execStoreWriteEnd_kept (e : execStoreWriteEnd s = .next t) : Live.Kept true s.live t.live := by
  unfold execStoreWriteEnd at e
  split at e
  · obtain rfl := Host.Outcome.next.inj e
    exact .refl
  · obtain rfl := Host.Outcome.next.inj e
    exact State.endStoreWrite_kept _

/-! #### The reports of the heads -/

theorem execHello_kept {slot : SlotId} {hs revision : Nat} {b : HelloBody}
    (e : execHello slot hs revision b s = .next t) : Live.Kept false s.live t.live := by
  refine KeepsLive.headReport (fun s => ?_) e
  split
  · exact State.protocol_kept _
  · split
    · dsimp only
      exact Live.Examined.queueJoin.kept
    · split
      · exact State.refuseHello_kept _ _
      · exact State.acceptHello_kept _ _ _ _
      · exact State.refuseHello_kept _ _

theorem execAccept_kept {slot : SlotId} {hs tag : Nat} {serial : Option Nat}
    (e : execAccept slot hs tag serial s = .next t) : Live.Kept true s.live t.live := by
  refine KeepsLive.headReport (fun s => ?_) e
  split
  · split
    · exact State.protocol_kept _
    · exact .acceptHeat
  · split
    · exact State.protocol_kept _
    · split
      · exact State.protocol_kept _
      · split
        · exact State.protocol_kept _
        · exact State.protocol_kept _
        · exact .refl
        · exact .refl
        · exact .acceptOrder

theorem execDone_kept {slot : SlotId} {hs tag : Nat} {b : DoneBody} (e : execDone slot hs tag b s = .next t) :
    Live.Kept false s.live t.live := by
  refine KeepsLive.headReport (fun s => ?_) e
  split
  · split
    · exact State.taking_kept fun _ _ =>
        ((Taking.joinRivet_forward _ _ _ _ _).trans (Taking.workEnds_examined _ _).toForward).kept
    · exact State.protocol_kept _
  · split
    · exact State.protocol_kept _
    · split
      · exact State.protocol_kept _
      · split
        · exact State.taking_kept fun _ _ => (Taking.complete_forward _ _ _ _ _ _).kept
        · exact State.protocol_kept _

theorem execAbortedNone_kept {slot : SlotId} {hs tag : Nat} (e : execAbortedNone slot hs tag s = .next t) :
    Live.Kept true s.live t.live := by
  refine KeepsLive.headReport (fun s => ?_) e
  split
  · exact State.abortedHeat_kept _
  · split
    · exact State.protocol_kept _
    · split
      · exact State.taking_kept fun _ _ => (((Taking.undoOperation_examined _ _ _).trans
          (Taking.workEnds_examined _ _)).trans (Taking.settleOrder_examined _ _ _)).kept
      · exact State.protocol_kept _

theorem execAbortedPartial_kept {slot : SlotId} {hs tag : Nat} (e : execAbortedPartial slot hs tag s = .next t) :
    Live.Kept true s.live t.live := by
  refine KeepsLive.headReport (fun s => ?_) e
  split
  · exact State.abortedHeat_kept _
  · split
    · exact State.protocol_kept _
    · split
      · exact State.taking_kept fun _ _ => (Taking.endPartial_examined _ _ _).kept
      · exact State.protocol_kept _

theorem execArrived_kept {slot : SlotId} {hs tag centre : Nat} (e : execArrived slot hs tag centre s = .next t) :
    Live.Kept false s.live t.live := by
  refine KeepsLive.headReport (fun s => ?_) e
  split
  · exact State.protocol_kept _
  · split
    · exact State.taking_kept fun _ _ => (Taking.arrive_examined _ _ _ _).kept
    · exact State.taking_kept fun _ _ => (Taking.fault_forward _ _ _ _ _).kept

theorem execFault_kept {slot : SlotId} {hs code : Nat} (e : execFault slot hs code s = .next t) :
    Live.Kept false s.live t.live := by
  have noted (s : State) : Live.Kept false s.live (if code = 0 then s.protocol slot else s).live := by
    split
    · exact State.protocol_kept _
    · exact .refl
  refine KeepsLive.headReport (fun s => ?_) e
  refine (noted s).trans ?_
  dsimp only
  generalize (if code = 0 then s.protocol slot else s) = u
  split
  · exact State.taking_kept fun _ _ => (Taking.fault_forward _ _ _ _ _).kept
  · split
    · exact (Live.Forward.updSlot.trans Live.Forward.postSlot).kept
    · exact Live.Forward.postSlot.kept

theorem execClampState_kept {slot : SlotId} {hs channel code : Nat}
    (e : execClampState slot hs channel code s = .next t) : Live.Kept false s.live t.live :=
  KeepsLive.event (fun s => Live.Kept.headFrame.trans
    (State.clampReport_kept (s := { s with live := s.live.headFrame slot hs }) slot channel code)) e

theorem lineByte_kept {slot : SlotId}
    (e : event (fun s => { s with live := s.live.lineByte s.setup slot }) s = .next t) : Live.Kept false s.live t.live :=
  KeepsLive.event (fun s => (Live.Forward.lineByte (l := s.live)).kept) e

/-! #### What runs down -/

theorem execRivetExpiryUnassigned_kept {lane : LaneId} {place : Nat}
    (e : execRivetExpiryUnassigned lane place s = .next t) : Live.Kept false s.live t.live := by
  refine KeepsLive.event (fun s => ?_) e
  split
  · exact .refl
  · split
    · exact .refl
    · exact (State.elapse_kept _).trans (Live.Examined.updLane.toForward.trans Live.Forward.scrap).kept

theorem execRivetExpiryAssigned_kept {lane : LaneId} {place : Nat}
    (e : execRivetExpiryAssigned lane place s = .next t) : Live.Kept true s.live t.live := by
  refine KeepsLive.event (fun s => ?_) e
  split
  · exact .refl
  · split
    · exact .refl
    · refine State.elapsed_taking_kept _ fun c t => ?_
      have removed : Live.Examined t.live (t.on (Live.removeRivet lane place)).live := Live.Examined.updLane
      exact (removed.trans (Taking.rivetCold_examined _ _ _)).kept

theorem execLinkDown_kept {slot : SlotId} (e : execLinkDown slot s = .next t) : Live.Kept false s.live t.live := by
  refine KeepsLive.event (fun s => ?_) e
  split
  · exact .refl
  next n _ =>
    exact State.elapsed_taking_kept (s := s) n (f := fun c t => t.linkLost c slot) fun c t =>
      (Taking.linkLost_forward c slot t).kept

theorem execClaimStarved_kept {slot : SlotId} (e : execClaimStarved slot s = .next t) :
    Live.Kept false s.live t.live := by
  refine KeepsLive.event (fun s => ?_) e
  split
  · exact .refl
  · split
    · exact .refl
    · exact State.elapsed_taking_kept _ fun _ _ => (Taking.starve_forward _ _ _).kept

end Commands

/-- The commands that are neither order messages nor resets, each within its bound. -/
theorem exec_kept (i : Instr) (s t : State) (e : exec i s = .next t) (reset : mayReset i = false)
    (order : isOrder i = false) : Live.Kept (quiet i) s.live t.live := by
  cases i
  case drill | ream | setRivet | heat | clamp | unclamp | park => exact absurd order nofun
  case powerUp | resetPinRelease | cellSentEvent => exact absurd reset nofun
  case cancel => exact execCancel_kept e
  case tableWriteZone => exact execTableWriteZone_kept e
  case tableWriteLane => exact execTableWriteLane_kept e
  case tableWritePump => exact execTableWritePump_kept e
  case frameBegin => exact execFrameBegin_kept e
  case frameEnd => exact execFrameEnd_kept e
  case frameAbandon => exact execFrameAbandon_kept e
  case modeRun => exact execModeRun_kept e
  case modeHold => exact execModeHold_kept e
  case modeResume => exact execModeResume_kept e
  case holeRework => exact execHoleRework_kept e
  case slotClear => exact execSlotClear_kept e
  case slotRelease => exact execSlotRelease_kept e
  case lampSet => exact execLampSet_kept e
  case noticeTake => exact execNoticeTake_kept e
  case reload => exact execReload_kept e
  case restart => exact execRestart_kept e
  case storeWriteEnd => exact execStoreWriteEnd_kept e
  case guardChannelChange => exact execGuardChannelChange_kept e
  case headLinkHoldEnd => exact execHeadLinkHoldEnd_kept e
  case damagedFrame => exact execDamagedFrame_kept e
  case hello => exact execHello_kept e
  case accept => exact execAccept_kept e
  case done => exact execDone_kept e
  case abortedNone => exact execAbortedNone_kept e
  case abortedPartial => exact execAbortedPartial_kept e
  case arrived => exact execArrived_kept e
  case fault => exact execFault_kept e
  case rivetExpiryUnassigned => exact execRivetExpiryUnassigned_kept e
  case rivetExpiryAssigned => exact execRivetExpiryAssigned_kept e
  case claimStarved => exact execClaimStarved_kept e
  case resetPinHeld =>
    obtain rfl := Host.Outcome.next.inj e
    exact .refl
  case unknownKind h kind =>
    exact KeepsLive.cellMessage (fun s => Live.Kept.cellError.trans .place) (show execUnknownKind h kind s = _ from e)
  case leverOpen slot hs =>
    exact KeepsLive.headReport (fun s => State.taking_kept fun _ _ => (Taking.leverOpened_forward _ _ _).kept)
      (show execLeverOpen slot hs s = _ from e)
  case leverClosed slot hs =>
    exact KeepsLive.headReport (fun s => State.taking_kept fun _ _ => (Taking.leverShut_forward _ _ _).kept)
      (show execLeverClosed slot hs s = _ from e)
  case clampState => exact execClampState_kept e
  case acceptStageExpiry slot =>
    exact stageExpiry_kept (fun _ _ _ => (Taking.fault_forward _ _ _ _ _).kept)
      (show execAcceptStageExpiry slot s = _ from e)
  case runStageExpiry slot =>
    exact stageExpiry_kept (fun _ _ _ => Live.Forward.slowStage.kept) (show execRunStageExpiry slot s = _ from e)
  case travelStageExpiry slot =>
    exact stageExpiry_kept (fun _ _ _ => Live.Forward.slowStage.kept) (show execTravelStageExpiry slot s = _ from e)
  case graceStageExpiry slot =>
    exact stageExpiry_kept (fun _ _ _ => (Taking.fault_forward _ _ _ _ _).kept)
      (show execGraceStageExpiry slot s = _ from e)
  case abortStageExpiry slot =>
    exact stageExpiry_kept (fun _ _ _ => (Taking.fault_forward _ _ _ _ _).kept)
      (show execAbortStageExpiry slot s = _ from e)
  case linkUp | lineActivity => exact lineByte_kept e
  case headMessageSetAside slot hs cause =>
    exact KeepsLive.event (fun _ => Live.Kept.headFrame.trans .headError)
      (show execHeadMessageSetAside slot hs cause s = _ from e)
  case startDelimiter => exact KeepsLive.event (fun s => s.cellBytes_kept _) (show execStartDelimiter s = _ from e)
  -- what remains is answered or refused, with at most one step of its own beside
  case patternOpen | patternRows | patternDelete | storeRead | unlock =>
    dsimp only [exec, execPatternOpen, execPatternRows, execPatternDelete, execStoreRead, execUnlock] at e
    refine KeepsLive.manage (fun s => ?_) e
    repeat' split
    all_goals exact .place
  case tableWriteTiming | tableWriteSlot =>
    dsimp only [exec, execTableWriteTiming, execTableWriteSlot] at e
    refine KeepsLive.tableWrite (fun s => ?_) e
    repeat' split
    all_goals exact .place
  case storeWrite =>
    dsimp only [exec, execStoreWrite] at e
    refine KeepsLive.cellMessage (fun s => ?_) e
    split
    · exact .place
    · exact .refl
  case queryStatus | queryHole | queryOrder | queryRail | queryLane | queryZone | queryPump | queryTable
      | queryPattern =>
    dsimp only [exec, execQueryStatus, execQueryHole, execQueryOrder, execQueryRail, execQueryLane, execQueryZone,
      execQueryPump, execQueryTable, execQueryPattern] at e
    refine KeepsLive.query (fun s => ?_) e
    repeat' split
    all_goals exact .place
  case querySlot =>
    dsimp only [exec, execQuerySlot] at e
    refine KeepsLive.query (fun s => ?_) e
    split
    · exact .place
    · exact (Live.Examined.updHead.trans Live.Examined.place).kept
  case queryLink => exact execQueryLink_kept e
  case holdoffDiscard =>
    dsimp only [exec, execHoldoffDiscard] at e
    refine KeepsLive.event (fun s => ?_) e
    split
    · exact .closeFrame
    · split
      · exact Live.Kept.closeFrame.trans .cellError
      · exact .refl
  case restartDiscardedFrame =>
    dsimp only [exec, execRestartDiscardedFrame] at e
    refine KeepsLive.event (fun s => ?_) e
    split
    · exact .closeFrame
    · exact .refl
  case headSentEvent =>
    dsimp only [exec, execHeadSentEvent] at e
    refine KeepsLive.event (fun s => ?_) e
    split
    · exact .refl
    · exact (Live.Examined.updHead.trans Live.Examined.beginHead).kept
  case preloadHeaderRead =>
    dsimp only [exec, execPreloadHeaderRead] at e
    refine KeepsLive.event (fun s => ?_) e
    split
    · exact .refl
    · split
      · exact .refl
      · split
        · exact .refl
        · exact s.readHeader_kept _
  case preloadRecord =>
    dsimp only [exec, execPreloadRecord] at e
    refine KeepsLive.event (fun s => ?_) e
    split
    · exact .refl
    · split
      · exact .refl
      · split
        · exact .refl
        · exact s.readRecord_kept _ _ _ _ _ _
  case preloadEnd =>
    dsimp only [exec, execPreloadEnd] at e
    refine KeepsLive.event (fun s => ?_) e
    split
    · exact .refl
    · split
      · exact .refl
      · split
        · exact .refl
        · split
          · exact s.failPreload_kept _ _
          · exact s.endPreload_kept _ _ _
  case discrepancyExpiry =>
    dsimp only [exec, execDiscrepancyExpiry] at e
    refine KeepsLive.event (fun s => ?_) e
    split
    · exact .refl
    · exact (State.elapse_kept _).trans State.latch_kept
  case linkDown => exact execLinkDown_kept e
  case cadenceExpiry =>
    dsimp only [exec, execCadenceExpiry] at e
    refine KeepsLive.event (fun s => ?_) e
    split
    · exact .refl
    · exact State.elapsed_taking_kept _ fun _ _ => Live.Forward.cadenceExpired.kept

/-! ### The order messages -/

/-- An order message leaves the pool alone, or its order has passed the checks of R27 and entered. -/
theorem orderMessage_kept {h : Header} {length : Nat} {m : OrderMsg} {s t : State}
    (e : orderMessage h length m s = .next t) :
    Live.Kept true s.live t.live
      ∨ ∃ o, admission s.setup s.live.closeFrame m = .ok o ∧ Live.Kept true (s.live.closeFrame.enter o) t.live := by
  obtain ⟨u, e', ends⟩ := cellMessage_ends .order h false (h.selector == 0) (h.length == length) true (takeOrder m) s
  obtain rfl := Host.Outcome.next.inj (e.symm.trans e')
  obtain rfl | rfl | rfl | ⟨b, rfl⟩ | rfl := ends
  · exact .inl .refl
  · exact .inl .closeFrame
  · exact .inl (Live.Kept.closeFrame.trans .cellError)
  · exact .inl (Live.Kept.closeFrame.trans .place)
  · unfold takeOrder
    split
    next => exact .inl (Live.Kept.closeFrame.trans .place)
    next o passed => exact .inr ⟨o, passed, Live.admitted_kept o⟩

/-- An order message by its fields. -/
theorem exec_order {i : Instr} {s t : State} (order : isOrder i = true) (e : exec i s = .next t) :
    ∃ h length m, orderMessage h length m s = .next t := by
  cases i <;> first | exact absurd order Bool.false_ne_true | exact ⟨_, _, _, e⟩

/-- The messages for the cell that an order message leaves, and what it keeps. -/
theorem exec_order_kept {i : Instr} {s t : State} (order : isOrder i = true) (e : exec i s = .next t) :
    ∃ l : Live, Live.Kept true l t.live ∧ l.cell.bodies = s.live.cell.bodies ∧ l.notices = s.live.notices
      ∧ l.zones = s.live.zones ∧ l.slots = s.live.slots := by
  obtain ⟨h, length, m, e⟩ := exec_order order e
  obtain kept | ⟨o, -, kept⟩ := orderMessage_kept e
  · exact ⟨s.live, kept, rfl, rfl, rfl, rfl⟩
  · exact ⟨_, kept, rfl, rfl, rfl, rfl⟩

/-! ### The resets and the cell's sent event -/

theorem exec_reset_orders {i : Instr} {s t : State} (reset : mayReset i = true) (e : exec i s = .next t) :
    (t.live.pool.map Order.fixed).Sublist (s.live.pool.map Order.fixed) := by
  cases i <;> try exact absurd reset Bool.false_ne_true
  case powerUp =>
    obtain rfl := Host.Outcome.next.inj e
    exact List.nil_sublist _
  case resetPinRelease =>
    unfold exec execResetPinRelease at e
    dsimp only at e
    split at e
    · obtain rfl := Host.Outcome.next.inj e
      exact List.nil_sublist _
    · obtain rfl := Host.Outcome.next.inj e
      exact List.Sublist.refl _
  case cellSentEvent =>
    obtain ⟨u, e', ends⟩ := event_ends (fun s =>
      match s.live.cell.sending with
      | none => s
      | some m =>
        if m.endsRestart then s.takeReset .restart
        else ({ s with live := s.live.cellSent } : State).placeRestartAnswer) s
    obtain rfl := Host.Outcome.next.inj ((show execCellSentEvent s = _ from e).symm.trans e')
    obtain rfl | rfl := ends
    · exact List.Sublist.refl _
    · split
      · exact List.Sublist.refl _
      · split
        · exact List.nil_sublist _
        · exact (State.placeRestartAnswer_kept (still := false)
            (s := { s with live := s.live.cellSent })).orders

/-- No command but an order message brings an order into the pool. -/
theorem exec_orders {i : Instr} {s t : State} (order : isOrder i = false) (e : exec i s = .next t) :
    (t.live.pool.map Order.fixed).Sublist (s.live.pool.map Order.fixed) := by
  cases reset : mayReset i with
  | false => exact (exec_kept i s t e reset order).orders
  | true => exact exec_reset_orders reset e

theorem map_fixed_tag (pool : List Order) : (pool.map Order.fixed).map Prod.fst = pool.map Order.tag := by
  rw [List.map_map]
  rfl

/-- Settles O4: what a command keeps of the live state, the order messages and the resets told apart. -/
theorem liveFrame : Obligations.LiveFrame := by
  intro i s t e
  refine ⟨fun reset => ?_, fun order => ?_, fun still => ?_⟩
  · cases order : isOrder i with
    | false => exact (exec_kept i s t e reset order).bodies
    | true =>
      obtain ⟨l, kept, bodies, -⟩ := exec_order_kept order e
      exact bodies ▸ kept.bodies
  · simpa only [map_fixed_tag] using (exec_orders order e).map Prod.fst
  · cases order : isOrder i with
    | false =>
      have reset : mayReset i = false := by cases i <;> first | rfl | exact absurd still Bool.false_ne_true
      have kept := exec_kept i s t e reset order
      rw [still] at kept
      exact ⟨(kept.stands rfl).1, (kept.stands rfl).2.1, fun j => kept.slot⟩
    | true =>
      obtain ⟨l, kept, -, notices, zones, slots⟩ := exec_order_kept order e
      rw [← notices, ← zones, ← slots]
      exact ⟨(kept.stands rfl).1, (kept.stands rfl).2.1, fun j => kept.slot⟩

/-! ### The law of the pool -/

/-- The hole in what no operation changes of an order. -/
def fixedHole? (x : Nat × OrderKind × SlotId × Target) : Option Nat :=
  match x.2.2.2 with
  | .hole n => some n
  | _ => none

theorem filterMap_hole? (pool : List Order) : pool.filterMap Order.hole? = (pool.map Order.fixed).filterMap fixedHole? := by
  rw [List.filterMap_map]
  rfl

/-- The law of R28 on a pool by what no operation changes of its orders. -/
theorem poolLaw_iff (s : State) :
    PoolLaw s ↔ (s.live.pool.map Order.fixed).length ≤ Config.poolSize ∧ ((s.live.pool.map Order.fixed).map Prod.fst).Nodup
      ∧ ((s.live.pool.map Order.fixed).filterMap fixedHole?).Nodup := by
  rw [PoolLaw, filterMap_hole?, map_fixed_tag, List.length_map]

/-- A pool that only loses orders keeps the law. -/
theorem poolLaw_of_sublist {s t : State} (law : PoolLaw s)
    (orders : (t.live.pool.map Order.fixed).Sublist (s.live.pool.map Order.fixed)) : PoolLaw t := by
  rw [poolLaw_iff] at law ⊢
  obtain ⟨room, tags, holes⟩ := law
  exact ⟨orders.length_le.trans room, tags.sublist (orders.map _), holes.sublist (orders.filterMap _)⟩

/-- An admitted order that enters keeps the law: there is room, its tag is new, and its hole is unclaimed (R27). -/
theorem poolLaw_enter {s t : State} {m : OrderMsg} {o : Order} (law : PoolLaw s) (passed : admission s.setup s.live m = .ok o)
    (pool : t.live.pool = s.live.pool ++ [o]) : PoolLaw t := by
  obtain ⟨first, slot, -, record⟩ := admission_ok passed
  have passes := firstReason_eq_none.mp first
  obtain ⟨tag, -, -, target⟩ := OrderMsg.record_fields record
  have room := passes (decide (32 ≤ s.live.pool.length)) .poolFull (by simp [refusals])
  have fresh := passes (m.tag == 0 || s.live.pool.any fun o => o.tag == m.tag) .tagInUse (by simp [refusals])
  have unclaimed := passes (needsHole m.kind && s.live.pool.any fun o => o.target == .hole m.hole) .holeClaimed
    (by simp [refusals])
  obtain ⟨-, tags, holes⟩ := law
  refine ⟨?_, ?_, ?_⟩
  · simp only [pool, List.length_append, List.length_singleton, Config.poolSize]
    simpa using room
  · rw [pool, List.map_append, List.map_singleton, List.nodup_append_comm, List.singleton_append, List.nodup_cons]
    refine ⟨fun mem => ?_, tags⟩
    obtain ⟨x, mem, same⟩ := List.mem_map.mp mem
    simp only [Bool.or_eq_false_iff, List.any_eq_false, beq_iff_eq] at fresh
    exact fresh.2 x mem (same.trans tag)
  · rw [pool, List.filterMap_append, List.nodup_append_comm]
    cases hole : o.hole? with
    | none => simpa [hole] using holes
    | some n =>
      have aim : o.target = .hole n := Order.hole?_eq_some.mp hole
      obtain ⟨rfl, kind⟩ := target n aim
      simp only [List.filterMap_cons, hole, List.filterMap_nil, List.singleton_append, List.nodup_cons]
      refine ⟨fun mem => ?_, holes⟩
      obtain ⟨x, mem, same⟩ := List.mem_filterMap.mp mem
      simp only [kind, Bool.true_and, List.any_eq_false, beq_iff_eq] at unclaimed
      exact unclaimed x mem (Order.hole?_eq_some.mp same)

theorem exec_keeps_poolLaw {i : Instr} {s t : State} (law : PoolLaw s) (e : exec i s = .next t) : PoolLaw t := by
  cases order : isOrder i with
  | false => exact poolLaw_of_sublist law (exec_orders order e)
  | true =>
    obtain ⟨h, length, m, e⟩ := exec_order order e
    obtain kept | ⟨o, passed, kept⟩ := orderMessage_kept e
    · exact poolLaw_of_sublist law kept.orders
    · have closedLaw : PoolLaw { s with live := s.live.closeFrame } := law
      have entered : PoolLaw { s with live := s.live.closeFrame.enter o } := poolLaw_enter closedLaw passed rfl
      exact poolLaw_of_sublist entered kept.orders

/-- Settles O10: a step runs a command or lets a millisecond pass. -/
theorem stepKeepsPool : Obligations.StepKeepsPool := by
  intro s t law e
  unfold step at e
  split at e
  · unfold idle at e
    split at e
    · exact exec_keeps_poolLaw law e
    · obtain rfl := Host.Outcome.next.inj e
      exact poolLaw_of_sublist law (State.elapse_kept (still := false) 1).orders
  next rest _ => exact exec_keeps_poolLaw (s := { s with pending := rest }) law e

end Sys2Proof.Machine
end

section
/-! PROOFS. An admitted order: its record, its examination, and its answer (O22). -/

namespace Sys2Proof.Machine

open Sys2Proof.Safety

/-! ### What no examination changes of the orders that stay -/

/-- What no operation changes of the orders in the pool, in their order. -/
def Live.names (l : Live) : List (Nat × OrderKind × SlotId × Target) := l.pool.map Order.fixed

section Names

variable {l l' : Live} {c : Setup} {s : SlotId} {o : Order}

theorem Live.names_congr (pool : l'.pool = l.pool) : l'.names = l.names := by rw [Live.names, pool, Live.names]

theorem Live.updOrder_names {tag : Nat} {f : Order → Order} (h : ∀ o, (f o).fixed = o.fixed) :
    (l.updOrder tag f).names = l.names := map_fixed h

theorem Live.markSent_names (m : HeadMsg) : (l.markSent s m).names = l.names := by
  unfold Live.markSent
  split
  · rfl
  · exact Live.updOrder_names fun _ => rfl
  · exact Live.updOrder_names fun _ => rfl
  · rfl

theorem Live.beginHead_names : (l.beginHead c s).names = l.names := by
  unfold Live.beginHead
  split
  · exact Live.markSent_names _
  · rfl

theorem Live.queue_names (m : HeadMsg) : (l.queue c s m).names = l.names := Live.beginHead_names

theorem Live.grant_names (r : Rail) (q : Request) (former : Run) : (l.grant c r q former).names = l.names := by
  unfold Live.grant
  dsimp only
  refine (Live.queue_names _).trans ?_
  simp only [Live.names, Live.startStage_pool, Live.updSlot_pool, updOrder_pool, Live.setTravel_pool,
    Live.setHolding_pool, Live.setRequests_pool]
  exact map_fixed fun _ => rfl

theorem Taking.settleRails_names (t : Taking) : (t.settleRails c).live.names = t.live.names :=
  Taking.settleRails_keeps Live.names (fun c r l => Live.examineRail_keeps Live.names (fun _ r q v _ =>
    Live.grant_names r q v) c r l) c t

theorem Live.sendIssue_names {b : Option HoleState} {v : Option AssignedRivet} {u : Option Nat} {body : IssueBody} :
    (l.sendIssue c o b v u body).names = l.names := by
  have issued : (l.updOrder o.tag fun x =>
      { x with state := .issued, wait := none, before := b, rivet := v, units := u, issueMark := some .unsent }).names
        = l.names := Live.updOrder_names fun _ => rfl
  unfold Live.sendIssue
  dsimp only
  refine (Live.queue_names _).trans (Eq.trans (Live.names_congr ?_) issued)
  split
  · rfl
  · split <;> rfl
  · rfl

theorem Live.takeIssue_keeps {k : OrderKind} {hole : Nat} {b : HoleState} (e : l.takeIssue c k hole = some (b, l')) :
    l'.pool = l.pool ∧ l'.cell = l.cell := by
  unfold Live.takeIssue at e
  split at e
  · cases e
  · split at e
    · cases e
      simp
    · cases e

theorem Live.takeForSet_keeps {hole cls : Nat} {v : AssignedRivet} (e : l.takeForSet c o hole cls = some (v, l')) :
    l'.pool = l.pool ∧ l'.cell = l.cell := by
  unfold Live.takeForSet at e
  split at e
  · cases e
  · cases e
    exact ⟨rfl, rfl⟩

end Names

/-! ### An order whose ORDER DONE waits for its TAKEN -/

/-- What an ORDER DONE has of its order. -/
def OrderDone.fixed (d : OrderDone) : Nat × OrderKind × SlotId × Target := (d.tag, d.kind, d.slot, d.target)

theorem orderDoneOf_fixed (l : Live) (o : Order) (x : OrderOutcome) (y : Option DoneCause) (n : Option Nat) :
    (orderDoneOf l o x y n).fixed = o.fixed := by
  unfold orderDoneOf
  dsimp only
  split
  · rfl
  · split <;> rfl

/-- In a taking that holds its ORDER DONE messages back: nothing has been placed for the cell, what is held are ORDER DONE
messages, and the order stands in the pool or its ORDER DONE is held. -/
structure Taking.Awaits (cell : CellLink) (o : Order) (t : Taking) : Prop where
  holds : t.holdDones = true
  unplaced : t.live.cell = cell
  own : ∀ n ∈ t.live.names, n.1 = o.tag → n = o.fixed
  stands : ∃ dones : List OrderDone, t.held = dones.map CellBody.orderDone
    ∧ (o.fixed ∈ t.live.names ∨ o.fixed ∈ dones.map OrderDone.fixed)

namespace Taking.Awaits

variable {cell : CellLink} {o x : Order} {c : Setup} {t u : Taking}

theorem of_same (a : t.Awaits cell o) (names : u.live.names = t.live.names) (unplaced : u.live.cell = t.live.cell)
    (holds : u.holdDones = t.holdDones) (held : u.held = t.held) : u.Awaits cell o where
  holds := holds.trans a.holds
  unplaced := unplaced.trans a.unplaced
  own := by rw [names]; exact a.own
  stands := by rw [names, held]; exact a.stands

/-- An order of the pool leaves: the order awaited, or another. -/
theorem leave (a : t.Awaits cell o) (mem : x ∈ t.live.pool) (out : OrderOutcome) (y : Option DoneCause) (n : Option Nat) :
    (t.leave c x out y n).Awaits cell o := by
  obtain ⟨unplaced, held⟩ := Taking.leave_held c x out y n t a.holds
  obtain ⟨dones, before, stands⟩ := a.stands
  have names : (t.leave c x out y n).live.names = t.live.names.filter fun n => n.1 != x.tag := by
    rw [Live.names, Taking.leave_pool, Live.names, List.filter_map]
    rfl
  refine ⟨by simpa using a.holds, unplaced.trans a.unplaced, ?_, ?_⟩
  · rw [names]
    exact fun n mem => a.own n (List.mem_filter.mp mem).1
  · refine ⟨dones ++ [orderDoneOf t.live x out y n], by rw [held, before]; simp, ?_⟩
    rw [names, List.map_append, List.map_singleton, orderDoneOf_fixed, List.mem_append, List.mem_singleton]
    by_cases tag : x.tag = o.tag
    · exact .inr (.inr (a.own x.fixed (List.mem_map_of_mem mem) tag).symm)
    · refine stands.imp (fun stays => List.mem_filter.mpr ⟨stays, ?_⟩) .inl
      simpa [Order.fixed] using fun same : o.tag = x.tag => tag same.symm

theorem settleRails (a : t.Awaits cell o) : (t.settleRails c).Awaits cell o :=
  a.of_same t.settleRails_names (Taking.settleRails_cell c t) rfl rfl

theorem issue (a : t.Awaits cell o) (mem : x ∈ t.live.pool) : (t.issue c x).Awaits cell o := by
  have withdrawn : (t.withdraw c x .holeChanged).Awaits cell o := a.leave mem _ _ _
  unfold Taking.issue
  split
  · split
    · exact withdrawn
    next taken =>
      obtain ⟨pool, line⟩ := Live.takeIssue_keeps taken
      split
      · exact withdrawn
      · split
        · exact withdrawn
        next assigned =>
          obtain ⟨pool', line'⟩ := Live.takeForSet_keeps assigned
          split
          · exact withdrawn
          · exact a.of_same (Live.sendIssue_names.trans (Live.names_congr (pool'.trans pool)))
              ((Live.sendIssue_cell ..).trans (line'.trans line)) rfl rfl
  · split
    · exact withdrawn
    next taken =>
      obtain ⟨pool, line⟩ := Live.takeIssue_keeps taken
      split
      · exact withdrawn
      · exact a.of_same (Live.sendIssue_names.trans (Live.names_congr pool)) ((Live.sendIssue_cell ..).trans line) rfl rfl
  · split
    · exact withdrawn
    · exact a.of_same Live.sendIssue_names (Live.sendIssue_cell ..) rfl rfl

theorem afterReason (a : t.Awaits cell o) (r : WaitReason) : (t.afterReason c x r).Awaits cell o := by
  unfold Taking.afterReason
  split
  · exact a.of_same rfl rfl rfl rfl
  · split
    · split
      · refine a.of_same (Live.names_congr ?_) ?_ (by simp) (by simp) <;> simp [Live.fileRequest]
      · exact a
    · exact a

theorem noted (a : t.Awaits cell o) (r : WaitReason) :
    (t.on fun l => l.updOrder x.tag fun z => { z with wait := some r }).Awaits cell o :=
  a.of_same (Live.updOrder_names fun _ => rfl) rfl rfl rfl

theorem weigh (a : t.Awaits cell o) (mem : x ∈ t.live.pool) (f : Bool) : (t.weigh c f x).1.Awaits cell o := by
  unfold Taking.weigh
  split
  · exact a.leave mem _ _ _
  · split
    · exact (a.noted _).afterReason _
    · dsimp only
      split
      · exact a.leave mem _ _ _
      · split
        · exact a.noted _
        · exact a.issue mem

theorem weighOrder {p : Taking × Bool} (a : p.1.Awaits cell o) (tag : Nat) : (weighOrder c p tag).1.Awaits cell o := by
  unfold Machine.weighOrder
  split
  · exact a
  next found =>
    split
    · exact (a.weigh (Live.order?_mem found) _).settleRails
    · exact a

theorem examine (a : t.Awaits cell o) : (t.examine c).Awaits cell o := by
  have pass (tags : List Nat) (p : Taking × Bool) (a : p.1.Awaits cell o) :
      (tags.foldl (Machine.weighOrder c) p).1.Awaits cell o :=
    List.foldlRecOn (motive := fun p : Taking × Bool => p.1.Awaits cell o) tags _ a fun _ a tag _ => a.weighOrder tag
  exact (pass _ _ a).of_same rfl rfl rfl rfl

theorem settle (a : t.Awaits cell o) : (t.settle c).Awaits cell o := by
  unfold Taking.settle
  dsimp only
  split
  · exact a.settleRails.examine
  · exact a.settleRails

end Taking.Awaits

/-! ### The answer to an admitted order -/

section Admitted

variable {c : Setup} {o : Order} {l : Live}

/-- An order that enters a pool without its tag is awaited from the start. -/
theorem Taking.awaits_enter (fresh : ∀ x ∈ l.pool, x.tag ≠ o.tag) :
    (Taking.holding (l.enter o)).wakeGate.Awaits l.cell o where
  holds := rfl
  unplaced := rfl
  own := by
    intro n mem tag
    obtain ⟨x, entered, rfl⟩ := List.mem_map.mp mem
    obtain old | new := List.mem_append.mp (show x ∈ l.pool ++ [o] from entered)
    · exact absurd tag (fresh x old)
    · rw [List.mem_singleton.mp new]
  stands := ⟨[], rfl, .inl (List.mem_map_of_mem (List.mem_append_right _ (List.mem_singleton_self o)))⟩

/-- The ORDER DONE messages of the examination follow TAKEN, and the order stands in the pool or has its own among them. -/
theorem Live.admitted_answer (fresh : ∀ x ∈ l.pool, x.tag ≠ o.tag) :
    ∃ dones : List OrderDone,
      (l.admitted c o).cell.bodies =
        l.cell.bodies ++ [.taken o.tag ((l.admitted c o).takenState o.tag)] ++ dones.map CellBody.orderDone
      ∧ ((∃ x ∈ (l.admitted c o).pool, x.fixed = o.fixed) ∨ ∃ d ∈ dones, d.fixed = o.fixed) := by
  obtain ⟨-, unplaced, -, dones, held, stands⟩ := (Taking.awaits_enter fresh).settle (c := c)
  generalize settled : (Taking.holding (l.enter o)).wakeGate.settle c = t at unplaced held stands
  have left : l.admitted c o = (t.held.foldl (fun l b => l.place c b)
      (t.live.place c (.taken o.tag (t.live.takenState o.tag)))).syncCadences c := by
    rw [← settled]
    rfl
  have pool : (l.admitted c o).pool = t.live.pool := by
    rw [left, Live.syncCadences_pool, Live.placeAll_fields]
    rfl
  refine ⟨dones, ?_, ?_⟩
  · have state : (l.admitted c o).takenState o.tag = t.live.takenState o.tag := by
      simp only [Live.takenState, Live.order?, pool]
    rw [state, left, Live.syncCadences_cell, Live.placeAll_bodies, Live.place_bodies, unplaced, held]
  · rw [pool]
    exact stands.imp (fun mem => List.mem_map.mp mem) fun mem => List.mem_map.mp mem

end Admitted

/-! ### An order message that is taken -/

section Messages

variable {h : Header} {n : Nat} {m : OrderMsg} {s : State}

/-- An order message that passes every check of R27 (R26, R28, R54). -/
theorem orderMessage_passed (w : Weighed s) (selector : h.selector = 0) (tag : m.tag = h.tag) (length : h.length = n)
    (first : firstReason (refusals s.setup s.live m) = none) :
    ∃ (j : SlotId) (o : Order) (t : State) (dones : List OrderDone), slotNamed s.setup m = some j
      ∧ m.record s.setup j = some o
      ∧ orderMessage h n m s = .next t
      ∧ t = { s with live := (closed s).live.admitted s.setup o }
      ∧ t.live.notices = s.live.notices
      ∧ (t.live.pool.map Order.tag).Sublist ((s.live.pool ++ [o]).map Order.tag)
      ∧ t.live.cell.bodies =
          s.live.cell.bodies ++ [.taken h.tag (t.live.takenState h.tag)] ++ dones.map CellBody.orderDone
      ∧ ((∃ x ∈ t.live.pool, x.tag = h.tag ∧ x.kind = m.kind ∧ x.slot = j ∧ x.target = o.target)
        ∨ ∃ d ∈ dones, d.tag = h.tag ∧ d.kind = m.kind ∧ d.slot = j ∧ d.target = o.target) := by
  have passes := firstReason_eq_none.mp first
  have unlocked : s.setup.lockout = false := by
    have gate := passes (s.setup.lockout || s.setup.preload == .running) .locked (by simp [refusals])
    exact (Bool.or_eq_false_iff.mp gate).1
  have inUse := passes (m.tag == 0 || s.live.pool.any fun o => o.tag == m.tag) .tagInUse (by simp [refusals])
  obtain ⟨j, o, named, record, passed⟩ := admission_passed first
  obtain ⟨ownTag, kind, slot, -⟩ := OrderMsg.record_fields record
  have fresh : ∀ x ∈ (closed s).live.pool, x.tag ≠ o.tag := by
    simp only [Bool.or_eq_false_iff, List.any_eq_false, beq_iff_eq] at inUse
    exact fun x mem same => inUse.2 x mem (same.trans ownTag)
  obtain ⟨dones, bodies, stands⟩ := Live.admitted_answer (c := s.setup) fresh
  have kept := Live.admitted_kept (c := s.setup) (l := (closed s).live) o
  have fields {a : Nat} {b : OrderKind} {d : SlotId} {g : Target} (same : (a, b, d, g) = o.fixed) :
      a = h.tag ∧ b = m.kind ∧ d = j ∧ g = o.target := by
    simp only [Order.fixed, Prod.mk.injEq] at same
    obtain ⟨rfl, rfl, rfl, rfl⟩ := same
    exact ⟨ownTag.trans tag, kind, slot, rfl⟩
  refine ⟨j, o, _, dones, named, record, ?_, rfl, (kept.stands rfl).1, kept.tags, ?_, ?_⟩
  · rw [orderMessage_taken w selector length unlocked, takeOrder, show admission (closed s).setup (closed s).live m = .ok o
      from passed]
    rfl
  · rw [← tag, ← ownTag]
    exact bodies
  · exact stands.imp (fun ⟨x, mem, same⟩ => ⟨x, mem, fields same⟩) fun ⟨d, mem, same⟩ => ⟨d, mem, fields same⟩

end Messages

/-- Settles O22: the entry and the leaving field by field, and the admitted message with the record of its kind. -/
theorem orderTaken : Obligations.OrderTaken := by
  refine ⟨fun o l => rfl, fun c o outcome cause heat t => ?_, fun h slot hole feed zone lane s w selector => ?_⟩
  · refine ⟨Taking.leave_pool .., ?_, rfl, Taking.leave_requestsA .., Taking.leave_requestsB ..⟩
    simp [Taking.leave, Taking.withdrawClaim, slowAfterLeaving]
  · have taken {i : Instr} {n : Nat} {m : OrderMsg} {spelled : SlotId → Order → Prop} (tag : m.tag = h.tag)
        (i_eq : ∀ s, exec i s = orderMessage h n m s) (spells : ∀ j o, m.record s.setup j = some o → spelled j o)
        (length : h.length = n) (first : firstReason (refusals s.setup s.live m) = none) :
        ∃ (j : SlotId) (o : Order) (t : State) (dones : List OrderDone), slotNamed s.setup m = some j ∧ spelled j o
          ∧ exec i s = .next t
          ∧ t = { s with live := (closed s).live.admitted s.setup o }
          ∧ t.live.notices = s.live.notices
          ∧ (t.live.pool.map Order.tag).Sublist ((s.live.pool ++ [o]).map Order.tag)
          ∧ t.live.cell.bodies =
              s.live.cell.bodies ++ [.taken h.tag (t.live.takenState h.tag)] ++ dones.map CellBody.orderDone
          ∧ ((∃ x ∈ t.live.pool, x.tag = h.tag ∧ x.kind = m.kind ∧ x.slot = j ∧ x.target = o.target)
            ∨ ∃ d ∈ dones, d.tag = h.tag ∧ d.kind = m.kind ∧ d.slot = j ∧ d.target = o.target) := by
      obtain ⟨j, o, t, dones, named, record, run, rest⟩ := orderMessage_passed w selector tag length first
      exact ⟨j, o, t, dones, named, spells j o record, (i_eq s).trans run, rest⟩
    dsimp only
    refine ⟨taken rfl (fun _ => rfl) ?_, taken rfl (fun _ => rfl) ?_, taken rfl (fun _ => rfl) ?_,
      taken rfl (fun _ => rfl) ?_, taken rfl (fun _ => rfl) ?_, taken rfl (fun _ => rfl) ?_, taken rfl (fun _ => rfl) ?_⟩
    · exact fun j o e => (Option.some.inj e).symm
    · exact fun j o e => (Option.some.inj e).symm
    · exact fun j o e => (Option.some.inj e).symm
    · intro j o e
      obtain ⟨i, lane, rfl⟩ := Option.map_eq_some_iff.mp e
      exact ⟨i, lane, rfl⟩
    · intro j o e
      obtain ⟨z, zone, rfl⟩ := Option.map_eq_some_iff.mp e
      exact ⟨z, zone, rfl⟩
    · intro j o e
      obtain ⟨z, zone, rfl⟩ := Option.map_eq_some_iff.mp e
      exact ⟨z, zone, rfl⟩
    · exact fun j o e => (Option.some.inj e).symm

end Sys2Proof.Machine
end

section
/-! PROOFS. The wait conditions and the examination of the gate (O23). -/

namespace Sys2Proof.Machine

open Sys2Proof.Safety

/-! ### The conditions one by one (R29, R30, R34) -/

section Conditions

variable {c : Setup} {l : Live} {o : Order} {hole : Nat} {i : LaneId} {z : ZoneId}

theorem Live.queued_iff : l.queued o = true ↔
    (∃ older x younger, l.pool = older ++ x :: younger ∧ (∀ y ∈ older, y.slot ≠ o.slot) ∧ x.slot = o.slot ∧ x.tag = o.tag)
      ∧ ∀ j, l.slots[o.slot].work ≠ .heat j := by
  have first : (l.pool.find? fun x => x.slot == o.slot).any (fun x => x.tag == o.tag) = true ↔
      ∃ older x younger, l.pool = older ++ x :: younger ∧ (∀ y ∈ older, y.slot ≠ o.slot) ∧ x.slot = o.slot
        ∧ x.tag = o.tag := by
    simp only [Option.any_eq_true, List.find?_eq_some_iff_append, beq_iff_eq]
    constructor
    · rintro ⟨x, ⟨slot, older, younger, pool, others⟩, tag⟩
      exact ⟨older, x, younger, pool, by simpa using others, slot, tag⟩
    · rintro ⟨older, x, younger, pool, others, slot, tag⟩
      exact ⟨x, ⟨slot, older, younger, pool, by simpa using others⟩, tag⟩
  unfold Live.queued
  rw [Bool.and_eq_true, first]
  refine and_congr Iff.rfl ?_
  cases l.slots[o.slot].work <;> simp

theorem Live.predecessorsSet_iff : l.predecessorsSet c hole = true ↔
    ∃ r, c.row? hole = some r ∧ ∀ p ∈ r.preds, ∃ x, l.hole? p = some x ∧ x.state = .set := by
  unfold Live.predecessorsSet
  split <;> simp_all [Option.any_eq_true]

theorem Live.zoneReady_iff : l.zoneReady c hole = true ↔
    ∃ r, c.row? hole = some r ∧ l.zones[r.zone].state = .clamped ∧ l.zones[r.zone].expected = false := by
  unfold Live.zoneReady
  split <;> simp_all [Live.clamped, -Fin.getElem_fin]

theorem Live.laneHasRoom_iff : l.laneHasRoom c i = true ↔ l.laneState c i ≠ .off
    ∧ l.lanes[i].stock.length + (if l.laneState c i = .heating then 1 else 0) < 4 := by
  simp only [Live.laneHasRoom, Bool.and_eq_true, decide_eq_true_eq, bne_iff_ne]
  exact and_comm

theorem Live.zoneIdle_iff : l.zoneIdle c z = true ↔
    ∀ x ∈ l.pool, ∀ n r, x.hole? = some n → c.row? n = some r → r.zone = z →
      x.state ≠ .issued ∧ x.state ≠ .running ∧ ¬ (x.state = .aborting ∧ x.step = some .operation) := by
  have working (x : Order) : x.operating = false ↔
      x.state ≠ .issued ∧ x.state ≠ .running ∧ ¬ (x.state = .aborting ∧ x.step = some .operation) := by
    simp [Order.operating, and_assoc]
  have outside (x : Order) : ((x.hole?.bind c.row?).any fun r => r.zone == z) = false ↔
      ¬ ∃ n r, x.hole? = some n ∧ c.row? n = some r ∧ r.zone = z := by
    rw [← Bool.not_eq_true, not_iff_not]
    simp only [Option.any_eq_true, Option.bind_eq_some_iff, beq_iff_eq]
    exact ⟨fun ⟨r, ⟨n, hole, row⟩, zone⟩ => ⟨n, r, hole, row, zone⟩, fun ⟨n, r, hole, row, zone⟩ =>
      ⟨r, ⟨n, hole, row⟩, zone⟩⟩
  simp only [Live.zoneIdle, List.all_eq_true]
  refine forall₂_congr fun x _ => ?_
  simp only [← working, Bool.not_eq_true', Bool.and_eq_false_iff, outside]
  constructor
  · rintro (idle | none) n r hole row zone
    · exact idle
    · exact absurd ⟨n, r, hole, row, zone⟩ none
  · intro idle
    by_cases inside : ∃ n r, x.hole? = some n ∧ c.row? n = some r ∧ r.zone = z
    · obtain ⟨n, r, hole, row, zone⟩ := inside
      exact .inl (idle n r hole row zone)
    · exact .inr inside

/-- POSITION: the slot's holding is the span of the target centre. -/
theorem Live.atTarget_eq : l.atTarget o = o.centre.any fun t => (l.holdings[o.slot]).any fun g => g.run == span t := by
  unfold Live.atTarget Live.positioned
  congr
  funext t
  cases l.holdings[o.slot] <;> rfl

theorem Setup.unitsFor_eq : c.unitsFor hole = ((c.row? hole).map PatternRow.force).getD 0 := by
  unfold Setup.unitsFor
  cases c.row? hole <;> rfl

theorem Live.not_pumpFits : (!l.pumpFits c hole) =
    decide (c.tables.budget < l.unitsInUse + ((c.row? hole).map PatternRow.force).getD 0) := by
  rw [Live.pumpFits, Setup.unitsFor_eq, ← decide_not]
  simp only [Nat.not_le]

/-- The first condition that does not hold, as the first of a list of failures. -/
theorem firstFalse_eq (xs : List (WaitReason × Bool)) :
    firstFalse xs = ((xs.map fun x => (!x.2, x.1)).find? Prod.fst).map Prod.snd := by
  induction xs with
  | nil => rfl
  | cons x rest ih =>
    obtain ⟨r, ok⟩ := x
    cases ok <;> simp [firstFalse, ih]

/-- The unmet condition of an order, its conditions written as failures. -/
theorem Live.unmet_eq (f : Bool) : l.unmet c f o = (((((.mode, c.progresses) :: (.queued, l.queued o) ::
    (match o.kind, o.target with
    | .set, .hole h =>
      [(.predecessor, l.predecessorsSet c h), (.zone, l.zoneReady c h), (.position, l.atTarget o),
        (.pump, l.pumpFits c h && !f), (.rivet, l.rivetReady c h)]
    | .drill, .hole h | .ream, .hole h => [(.zone, l.zoneReady c h), (.position, l.atTarget o)]
    | .heat, .lane i => [(.laneFull, l.laneHasRoom c i)]
    | .unclamp, .zone z => [(.inZone, l.zoneIdle c z)]
    | .park, _ => [(.position, l.atTarget o)]
    | _, _ => []) : List (WaitReason × Bool)).map fun x => (!x.2, x.1)).find? Prod.fst).map Prod.snd) :=
  firstFalse_eq _

end Conditions

/-! ### One order weighed (R31, R32, R36) -/

section Weighing

variable {c : Setup} {t : Taking} {f : Bool} {tag : Nat} {o : Order} {r : WaitReason}

/-- A reason recorded with an order. -/
def Taking.noted (tag : Nat) (r : WaitReason) (t : Taking) : Taking :=
  t.on fun l => l.updOrder tag fun x => { x with wait := some r }

theorem weighOrder_none (gone : t.live.order? tag = none) : weighOrder c (t, f) tag = (t, f) := by
  unfold weighOrder
  rw [gone]

theorem weighOrder_busy (found : t.live.order? tag = some o) (busy : o.state ≠ .waiting) :
    weighOrder c (t, f) tag = (t, f) := by
  unfold weighOrder
  rw [found]
  exact if_neg busy

theorem weighOrder_waiting (found : t.live.order? tag = some o) (waits : o.state = .waiting) :
    weighOrder c (t, f) tag = ((t.weigh c f o).1.settleRails c, f || (t.weigh c f o).2) := by
  unfold weighOrder
  rw [found]
  exact if_pos waits

/-- The hole of an order admits it. -/
theorem Live.admits_iff {l : Live} : l.admits o = true ↔
    ∀ n, o.hole? = some n → ∃ x, l.hole? n = some x ∧ o.kind.admittedBy x.state = true := by
  unfold Live.admits
  cases o.hole? <;> simp [Option.any_eq_true]

theorem Live.laneHeating_iff {l : Live} : l.laneHeating o = true ↔
    ∃ i : LaneId, o.kind = .heat ∧ o.target = .lane i ∧ l.lanes[i].heat ≠ none := by
  unfold Live.laneHeating
  split <;> simp_all [Option.isSome_iff_ne_none, -Fin.getElem_fin]

theorem Taking.weigh_unadmitted (k : t.live.admits o = false) :
    t.weigh c f o = (t.leave c o .withdrawn (some .holeChanged) none, false) := by
  unfold Taking.weigh
  rw [k]
  rfl

theorem Taking.weigh_reason (k : t.live.admits o = true) (unmet : t.live.unmet c f o = some r) :
    t.weigh c f o = ((t.noted o.tag r).afterReason c o r, r == .pump && t.live.rivetReadyFor c o) := by
  unfold Taking.weigh
  rw [k, unmet]
  rfl

theorem Taking.weigh_met (k : t.live.admits o = true) (met : t.live.unmet c f o = none) :
    t.weigh c f o = (if o.kind = .park then t.leave c o .completed none none
      else if t.live.laneHeating o then t.noted o.tag .laneFull else t.issue c o, false) := by
  unfold Taking.weigh
  rw [k, met]
  rfl

theorem Taking.afterReason_drops (drops : r.dropsClaim = true) : t.afterReason c o r = t.withdrawClaim o.tag := by
  rw [Taking.afterReason, if_pos drops]

/-- A claim that is not filed yet is filed (R60). -/
theorem Taking.afterReason_files {g : Holding} {target : Nat} (unfiled : t.live.request? o.tag = none)
    (holding : t.live.holdings[o.slot] = some g) (centre : o.centre = some target) :
    t.afterReason c o .position = (t.on (Live.fileRequest c o.slot o.tag target g)).wakeRail g.rail := by
  rw [Taking.afterReason, if_neg (by simp [WaitReason.dropsClaim]), if_pos ⟨rfl, by rw [unfiled]; rfl⟩, holding, centre]

theorem Taking.afterReason_filed (filed : t.live.request? o.tag ≠ none) : t.afterReason c o .position = t := by
  rw [Taking.afterReason, if_neg (by simp [WaitReason.dropsClaim]), if_neg]
  exact fun unfiled => filed (Option.isNone_iff_eq_none.mp unfiled.2)

/-- A reason that has nothing to do with the claim. -/
theorem Taking.afterReason_plain (keeps : r.dropsClaim = false) (other : r ≠ .position) : t.afterReason c o r = t := by
  rw [Taking.afterReason, keeps, if_neg (by simp), if_neg fun h => other h.1]

end Weighing

/-- Settles O23: the conditions by their kinds, then the pass, then one order of it by what it waits for. -/
theorem waitConditions : Obligations.WaitConditions := by
  refine ⟨fun c l f o hole i z => ?_, fun c t => ?_, fun c t f tag => ?_⟩
  · dsimp only
    refine ⟨?_, ?_, ?_, ?_, ?_, ?_, Live.queued_iff, Live.predecessorsSet_iff, Live.zoneReady_iff, Live.laneHasRoom_iff,
      Live.zoneIdle_iff⟩
    all_goals
      rw [Live.unmet_eq]
    · rintro (kind | kind) target <;> rw [kind, target, ← Live.atTarget_eq] <;> rfl
    · intro kind target
      rw [kind, target, ← Live.atTarget_eq, ← Live.not_pumpFits, Bool.or_comm f]
      simp only [List.map_cons, List.map_nil, Bool.not_and, Bool.not_not]
      rfl
    · intro kind target
      rw [kind, target]
      rfl
    · intro kind target
      rw [kind, target]
      rfl
    · intro kind target
      rw [kind, target]
      rfl
    · intro kind
      rw [kind, ← Live.atTarget_eq]
      rfl
  · refine ⟨fun due => ?_, fun due => ?_⟩
    · rw [Taking.settle, if_neg (by rw [show (t.settleRails c).gateDue = t.gateDue from rfl, due]; simp)]
    · rw [Taking.settle, if_pos (show (t.settleRails c).gateDue = true from due)]
      rfl
  · refine ⟨weighOrder_none, fun o found => ?_⟩
    have own : o.tag = tag := Live.order?_tag found
    dsimp only
    rw [← Live.admits_iff, ← Live.laneHeating_iff]
    refine ⟨weighOrder_busy found, fun waits changed => ?_, fun waits admits => ⟨fun met => ?_, fun r unmet => ?_⟩⟩
    · rw [weighOrder_waiting found waits, Taking.weigh_unadmitted (by simpa using changed), Bool.or_false]
    · rw [weighOrder_waiting found waits, Taking.weigh_met admits met, Bool.or_false]
      refine ⟨fun park => ?_, fun other idle => ?_, fun beside => ?_⟩
      · rw [if_pos park]
      · rw [if_neg other, if_neg idle]
      · obtain ⟨i, heat, -⟩ := Live.laneHeating_iff.mp beside
        rw [if_neg (by rw [heat]; simp), if_pos beside, own]
        rfl
    · rw [weighOrder_waiting found waits, Taking.weigh_reason admits unmet, own]
      have unfenced (other : r ≠ .pump) : (f || (r == .pump && t.live.rivetReadyFor c o)) = f := by
        rw [beq_false_of_ne other, Bool.false_and, Bool.or_false]
      refine ⟨?_, ?_, ?_, ?_, ?_⟩
      · intro drops
        rw [unfenced (by rintro rfl; simp at drops),
          Taking.afterReason_drops (by obtain rfl | rfl | rfl := drops <;> rfl), own]
        rfl
      · rintro rfl unfiled g target holding centre
        rw [unfenced (by simp), Taking.afterReason_files (t := t.noted tag .position)
          (by rw [own]; exact unfiled) holding centre, own]
        rfl
      · rintro rfl filed
        rw [unfenced (by simp), Taking.afterReason_filed (t := t.noted tag .position)
          (by rw [own]; exact filed)]
        rfl
      · rintro rfl hole aim
        rw [Taking.afterReason_plain rfl (by simp), Live.rivetReadyFor, aim]
        rfl
      · intro plain
        rw [unfenced (by rintro rfl; simp at plain),
          Taking.afterReason_plain (by obtain rfl | rfl | rfl | rfl := plain <;> rfl) (by rintro rfl; simp at plain)]
        rfl

end Sys2Proof.Machine
end

section
/-! PROOFS. The rivet of a SET and the issue of every kind of order (O24 to O26). -/

namespace Sys2Proof.Machine

open Sys2Proof.Safety

/-! ### The oldest rivet (R33, R38) -/

section Rivets

variable {c : Setup} {l : Live} {cls place p : Nat} {r : Rivet} {stock : List Rivet}

theorem Rivet.qualifies_iff : r.qualifies c cls = true ↔
    r.tag = none ∧ r.cls = cls ∧ c.acted Timing.transferAllowance ≤ r.window - (c.now - r.heatEnd) := by
  simp only [Rivet.qualifies, Bool.and_eq_true, Option.isNone_iff_eq_none, beq_iff_eq, decide_eq_true_eq, and_assoc]
  rfl

theorem firstQualifying_none :
    firstQualifying c cls place stock = none ↔ ∀ r ∈ stock, ¬ r.qualifies c cls = true := by
  induction stock generalizing place with
  | nil => simp [firstQualifying]
  | cons x rest ih =>
    unfold firstQualifying
    split
    next fits => simp [fits]
    next fits => simp [fits, ih]

/-- The rivet found is the first of its stock that qualifies. -/
theorem firstQualifying_some (found : firstQualifying c cls place stock = some (p, r)) :
    r.qualifies c cls = true ∧ ∃ before after, stock = before ++ r :: after ∧ p = place + before.length
      ∧ ∀ q ∈ before, ¬ q.qualifies c cls = true := by
  induction stock generalizing place with
  | nil => cases found
  | cons x rest ih =>
    unfold firstQualifying at found
    split at found
    next fits =>
      cases found
      exact ⟨fits, [], rest, rfl, rfl, by simp⟩
    next unfit =>
      obtain ⟨fits, before, after, rfl, rfl, none⟩ := ih found
      refine ⟨fits, x :: before, after, rfl, by simp; omega, ?_⟩
      intro q mem
      obtain rfl | mem := List.mem_cons.mp mem
      · exact unfit
      · exact none q mem

theorem firstQualifying_place (found : firstQualifying c cls 0 stock = some (p, r)) : stock[p]? = some r := by
  obtain ⟨-, before, after, rfl, rfl, -⟩ := firstQualifying_some found
  simp

/-- In a stock in the order of its heats, the first that qualifies is the oldest that does. -/
theorem firstQualifying_oldest (found : firstQualifying c cls 0 stock = some (p, r))
    (sorted : (stock.map Rivet.heatEnd).Pairwise (· ≤ ·)) {q : Rivet} (mem : q ∈ stock) (fits : q.qualifies c cls = true) :
    r.heatEnd ≤ q.heatEnd := by
  obtain ⟨-, before, after, rfl, -, none⟩ := firstQualifying_some found
  obtain old | later := List.mem_append.mp mem
  · exact absurd fits (none q old)
  · rw [List.map_append, List.pairwise_append, List.map_cons, List.pairwise_cons] at sorted
    obtain rfl | younger := List.mem_cons.mp later
    · exact le_refl _
    · exact sorted.2.1.1 _ (List.mem_map_of_mem younger)

theorem laneId_cases (i : LaneId) : i = 0 ∨ i = 1 :=
  match i with
  | 0 => .inl rfl
  | 1 => .inr rfl

/-- What the choice between the two lanes weighs: the oldest of each. -/
theorem Live.bestRivet_none : l.bestRivet c cls = none ↔ ∀ i : LaneId, ∀ r ∈ l.lanes[i].stock, ¬ r.qualifies c cls = true := by
  have lanes : l.bestRivet c cls = none ↔ firstQualifying c cls 0 l.lanes[(0 : LaneId)].stock = none
      ∧ firstQualifying c cls 0 l.lanes[(1 : LaneId)].stock = none := by
    unfold Live.bestRivet
    split
    · simp_all
    · simp_all
    · simp_all
    · split <;> simp_all
  rw [lanes, firstQualifying_none, firstQualifying_none]
  constructor
  · rintro ⟨first, second⟩ i
    obtain rfl | rfl := laneId_cases i
    · exact first
    · exact second
  · exact fun none => ⟨none 0, none 1⟩

theorem Live.bestRivet_some {i : LaneId} (found : l.bestRivet c cls = some (i, p, r)) :
    firstQualifying c cls 0 l.lanes[i].stock = some (p, r)
      ∧ ∀ j n q, firstQualifying c cls 0 l.lanes[(j : LaneId)].stock = some (n, q) →
        r.heatEnd ≤ q.heatEnd ∧ (q.heatEnd = r.heatEnd → i = 1 → j = 1) := by
  unfold Live.bestRivet at found
  split at found
  next => cases found
  next first second =>
    cases found
    refine ⟨first, fun j n q own => ?_⟩
    obtain rfl | rfl := laneId_cases j
    · cases first.symm.trans own
      exact ⟨le_refl _, fun _ h => h⟩
    · cases second.symm.trans own
  next first second =>
    cases found
    refine ⟨second, fun j n q own => ?_⟩
    obtain rfl | rfl := laneId_cases j
    · cases first.symm.trans own
    · cases second.symm.trans own
      exact ⟨le_refl _, fun _ h => h⟩
  next p' r' q' u' first second =>
    split at found
    next younger =>
      cases found
      refine ⟨second, fun j n q own => ?_⟩
      obtain rfl | rfl := laneId_cases j
      · cases first.symm.trans own
        exact ⟨by omega, by omega⟩
      · cases second.symm.trans own
        exact ⟨le_refl _, fun _ h => h⟩
    next older =>
      cases found
      refine ⟨first, fun j n q own => ?_⟩
      obtain rfl | rfl := laneId_cases j
      · cases first.symm.trans own
        exact ⟨le_refl _, fun _ h => h⟩
      · cases second.symm.trans own
        exact ⟨by omega, by simp⟩

end Rivets

/-- Settles O24: the first of each stock, and of the two the older. -/
theorem oldestRivet : Obligations.OldestRivet := by
  intro c l cls
  dsimp only
  refine ⟨?_, fun i place r found => ?_⟩
  · simp only [Live.bestRivet_none, Rivet.qualifies_iff]
  · obtain ⟨first, older⟩ := Live.bestRivet_some found
    refine ⟨firstQualifying_place first, Rivet.qualifies_iff.mp (firstQualifying_some first).1, ?_⟩
    intro j n q placed fits sorted
    have fits : q.qualifies c cls = true := Rivet.qualifies_iff.mpr fits
    have mem : q ∈ l.lanes[j].stock := List.mem_of_getElem? placed
    cases own : firstQualifying c cls 0 l.lanes[j].stock with
    | none => exact absurd fits (firstQualifying_none.mp own q mem)
    | some x =>
      obtain ⟨m, u⟩ := x
      obtain ⟨le, tie⟩ := older j m u own
      have later := firstQualifying_oldest own (sorted j) mem fits
      exact ⟨le.trans later, fun same => tie (by omega)⟩

/-! ### The issue (R37 to R39) -/

section Issue

variable {c : Setup} {l : Live} {t : Taking} {o : Order} {hole : Nat} {x : Hole}

/-- The state once an order is marked ISSUED and its slot is busy with it in a full ACCEPT stage (R37). -/
def Live.asIssued (c : Setup) (o : Order) (before : Option HoleState) (rivet : Option AssignedRivet) (units : Option Nat)
    (l : Live) : Live :=
  { l with
    pool := l.pool.map fun y => if y.tag = o.tag then
      { y with state := .issued, wait := none, before, rivet, units, issueMark := some .unsent } else y
    slots := l.slots.set o.slot { l.slots[o.slot] with
      state := .busy, work := .order o.tag, timer := some { stage := .accept, left := c.acted Timing.acceptLimit } } }

/-- What a HEAT and an UNCLAMP add to their issue (R84, R106). -/
def Live.withWork (c : Setup) (o : Order) (l : Live) : Live :=
  match o.kind, o.target with
  | .heat, .lane i =>
    let g : Heat :=
      { tag := o.tag, origin := .order, slot := o.slot, cls := c.tables.lanes[i].cls, serial := none, step := none
        mark := none }
    { l with lanes := l.lanes.set i { l.lanes[i] with heat := some g } }
  | .unclamp, .zone z =>
    let x := l.zones[z]
    { l with zones := l.zones.set z { x with expected := if x.state = .opened then x.expected else true } }
  | _, _ => l

theorem Live.withWork_heat {i : LaneId} (kind : o.kind = .heat) (target : o.target = .lane i) :
    l.withWork c o = l.openHeat i { tag := o.tag, origin := .order, slot := o.slot, cls := c.tables.lanes[i].cls
                                    serial := none, step := none, mark := none } := by
  unfold Live.withWork
  rw [kind, target]
  rfl

theorem Live.withWork_unclamp {z : ZoneId} (kind : o.kind = .unclamp) (target : o.target = .zone z) :
    l.withWork c o = l.setExpected z (if l.zones[z].state = .opened then l.zones[z].expected else true) := by
  unfold Live.withWork
  rw [kind, target]
  rfl

theorem Live.withWork_other (heat : ∀ i, o.kind = .heat → o.target = .lane i → False)
    (unclamp : ∀ z, o.kind = .unclamp → o.target = .zone z → False) : l.withWork c o = l := by
  unfold Live.withWork
  split
  next i kind target => exact (heat i kind target).elim
  next z kind target => exact (unclamp z kind target).elim
  next => rfl

theorem Live.sendIssue_eq (before : Option HoleState) (rivet : Option AssignedRivet) (units : Option Nat)
    (body : IssueBody) : l.sendIssue c o before rivet units body =
      ((l.withWork c o).asIssued c o before rivet units).queue c o.slot (.issue o.tag body) := by
  have busy (v : Vector Slot 12) : vmod (vmod v o.slot fun y => { y with state := .busy, work := .order o.tag }) o.slot
      (fun y => { y with timer := some { stage := .accept, left := c.acted Timing.acceptLimit } }) =
        v.set o.slot { v[o.slot] with
          state := .busy, work := .order o.tag, timer := some { stage := .accept, left := c.acted Timing.acceptLimit } } :=
    vmod_vmod v o.slot _ _
  have marked (u : Live) : ((u.updSlot o.slot fun y => { y with state := .busy, work := .order o.tag }).startStage o.slot
      .accept (c.acted Timing.acceptLimit)) = { u with slots := u.slots.set o.slot { u.slots[o.slot] with
          state := .busy, work := .order o.tag
          timer := some { stage := .accept, left := c.acted Timing.acceptLimit } } } :=
    congrArg (fun v => { u with slots := v }) (busy u.slots)
  unfold Live.sendIssue
  dsimp only
  rw [marked]
  congr 1
  split
  next i kind target =>
    rw [Live.withWork_heat kind target]
    rfl
  next z kind target =>
    rw [Live.withWork_unclamp kind target]
    by_cases opened : l.zones[z].state = .opened
    · have same : l.setExpected z l.zones[z].expected = l :=
        congrArg (fun v => { l with zones := v }) (vmod_id l.zones z _ rfl)
      rw [if_pos opened, same, if_pos (show (Live.updOrder o.tag _ l).zones[z].state = .opened from opened)]
      rfl
    · rw [if_neg opened, if_neg (show ¬ (Live.updOrder o.tag _ l).zones[z].state = .opened from opened)]
      rfl
  next heat unclamp =>
    rw [Live.withWork_other heat unclamp]
    rfl

theorem Live.takeIssue_some {k : OrderKind} (entry : l.hole? hole = some x) (admitted : k.admittedBy x.state = true)
    (ready : k = .set → l.predecessorsSet c hole = true) :
    l.takeIssue c k hole = some (x.state, { l with
      holes := l.holes.set (hole - 1) { x with state := if k = .set then .setting else .drilling } }) := by
  unfold Live.takeIssue
  rw [entry]
  dsimp only
  rw [if_pos, Live.updHole_eq entry]
  rw [admitted, Bool.true_and, Bool.or_eq_true, bne_iff_ne]
  by_cases set : k = .set
  · exact .inr (ready set)
  · exact .inl set

/-- A hole entry changed in its state reads as the changed one. -/
theorem Live.hole?_set (entry : l.hole? hole = some x) (y : Hole) :
    ({ l with holes := l.holes.set (hole - 1) y } : Live).hole? hole = some y := by
  obtain ⟨low, at_⟩ := Live.hole?_eq_some.mp entry
  obtain ⟨inside, -⟩ := List.getElem?_eq_some_iff.mp at_
  exact Live.hole?_eq_some.mpr ⟨low, List.getElem?_set_self inside⟩

/-- The issue of a DRILL or a REAM. -/
theorem Taking.issue_drill {r : PatternRow} (kind : o.kind = .drill ∨ o.kind = .ream) (target : o.target = .hole hole)
    (row : c.row? hole = some r) (entry : t.live.hole? hole = some x) (admitted : o.kind.admittedBy x.state = true) :
    t.issue c o = { t with live :=
      (({ t.live with holes := t.live.holes.set (hole - 1) { x with state := .drilling } } : Live).asIssued c o
        (some x.state) none none).queue c o.slot (.issue o.tag
          (.drill o.kind hole r.centre r.offset r.plies r.grip r.diameter x.cls (o.feed.getD 0))) } := by
  have plain : o.kind ≠ .set ∧ o.kind ≠ .heat ∧ o.kind ≠ .unclamp := by obtain k | k := kind <;> simp [k]
  obtain ⟨set, heat, unclamp⟩ := plain
  have taken := Live.takeIssue_some (c := c) entry admitted fun k => absurd k set
  rw [if_neg set] at taken
  have body (l : Live) {y : Hole} (now : l.hole? hole = some y) : issueBodyOf c l o none =
      some (.drill o.kind hole r.centre r.offset r.plies r.grip r.diameter y.cls (o.feed.getD 0)) := by
    unfold issueBodyOf
    rw [target]
    obtain k | k := kind <;> rw [k] <;> dsimp only <;> rw [row, now]
  have work (l : Live) : l.withWork c o = l :=
    Live.withWork_other (fun _ k => absurd k heat) fun _ k => absurd k unclamp
  unfold Taking.issue
  split
  next k _ => exact absurd k set
  next target' _ =>
    obtain rfl : hole = _ := Target.hole.inj (target.symm.trans target')
    rw [taken]
    dsimp only
    rw [body _ (Live.hole?_set entry _)]
    dsimp only
    rw [Live.sendIssue_eq, work]
  next other _ => exact (other _ target).elim

/-- The issue of a SET. -/
theorem Taking.issue_set {r : PatternRow} {place : Nat} {i : LaneId} {v : Rivet} (kind : o.kind = .set)
    (target : o.target = .hole hole) (row : c.row? hole = some r) (entry : t.live.hole? hole = some x)
    (admitted : OrderKind.admittedBy .set x.state = true) (ready : t.live.predecessorsSet c hole = true)
    (best : t.live.bestRivet c x.cls = some (i, place, v)) :
    t.issue c o = { t with live :=
      (({ t.live with
          holes := t.live.holes.set (hole - 1) { x with state := .setting }
          lanes := t.live.lanes.set i { t.live.lanes[i] with
            stock := t.live.lanes[i].stock.set place { v with tag := some o.tag } }
          unitsInUse := t.live.unitsInUse + r.force } : Live).asIssued c o (some x.state)
        (some { lane := i, serial := v.serial, whereabouts := .lane }) (some r.force)).queue c o.slot (.issue o.tag
          (.set hole r.centre r.offset r.plies r.grip x.cls r.force i v.serial)) } := by
  have taken := Live.takeIssue_some (c := c) entry admitted fun _ => ready
  rw [if_pos rfl] at taken
  have units : c.unitsFor hole = r.force := by rw [Setup.unitsFor_eq, row]; rfl
  have body (l : Live) (w : AssignedRivet) {y : Hole} (now : l.hole? hole = some y) : issueBodyOf c l o (some w) =
      some (.set hole r.centre r.offset r.plies r.grip y.cls r.force w.lane w.serial) := by
    unfold issueBodyOf
    rw [kind, target]
    dsimp only
    rw [row, now]
  have work (l : Live) : l.withWork c o = l :=
    Live.withWork_other (fun _ k => by rw [kind] at k; cases k) fun _ k => by rw [kind] at k; cases k
  have assigned (holes : List Hole) : ({ t.live with holes } : Live).takeForSet c o hole x.cls =
      some ({ lane := i, serial := v.serial, whereabouts := .lane }, { t.live with
        holes
        lanes := t.live.lanes.set i { t.live.lanes[i] with
          stock := t.live.lanes[i].stock.set place { v with tag := some o.tag } }
        unitsInUse := t.live.unitsInUse + r.force }) := by
    unfold Live.takeForSet
    rw [show ({ t.live with holes } : Live).bestRivet c x.cls = some (i, place, v) from best, units]
    rfl
  unfold Taking.issue
  rw [kind, target]
  dsimp only
  rw [taken]
  dsimp only
  rw [Live.hole?_set entry]
  dsimp only
  rw [assigned]
  dsimp only
  rw [body (y := { x with state := .setting }), units]
  · dsimp only
    rw [Live.sendIssue_eq, work]
  · exact Live.hole?_set entry _

/-- The issue of an order that aims at no hole. -/
theorem Taking.issue_other {body : IssueBody} (aim : ∀ n, o.target ≠ .hole n)
    (fields : issueBodyOf c t.live o none = some body) :
    t.issue c o = { t with live :=
      ((t.live.withWork c o).asIssued c o none none none).queue c o.slot (.issue o.tag body) } := by
  unfold Taking.issue
  split
  next target => exact absurd target (aim _)
  next target _ => exact absurd target (aim _)
  next =>
    rw [fields]
    dsimp only
    rw [Live.sendIssue_eq]

end Issue

/-- Settles O25: a DRILL or REAM, and a SET. -/
theorem holeOrdersIssued : Obligations.HoleOrdersIssued := by
  refine ⟨fun c t o hole r x kind target row entry admitted => Taking.issue_drill kind target row entry admitted,
    fun c t o hole place r x i v kind target row entry state ready best =>
      Taking.issue_set kind target row entry ?_ ready best⟩
  obtain k | k := state <;> rw [k] <;> rfl

/-- Settles O26: a HEAT, a CLAMP and an UNCLAMP. -/
theorem otherOrdersIssued : Obligations.OtherOrdersIssued := by
  intro c t o i z
  dsimp only
  refine ⟨fun kind target => ?_, fun kind target n channel => ?_, fun kind target n channel => ?_⟩
  all_goals
    have fields : ∀ n, o.target ≠ .hole n := by simp [target]
  · rw [Taking.issue_other fields (by unfold issueBodyOf; rw [kind, target]), Live.withWork_heat kind target]
    rfl
  · rw [Taking.issue_other fields (by unfold issueBodyOf; rw [kind, target, channel]),
      Live.withWork_other (fun _ k => by rw [kind] at k; cases k) fun _ k => by rw [kind] at k; cases k]
    rfl
  · rw [Taking.issue_other fields (by unfold issueBodyOf; rw [kind, target, channel]),
      Live.withWork_unclamp kind target]
    rfl

end Sys2Proof.Machine
end

section
/-! PROOFS. Reports that are set aside, and ACCEPT (O28, O29). -/

namespace Sys2Proof.Machine

open Sys2Proof.Safety

section Reports

variable {slot : SlotId} {hs tag centre : Nat} {serial : Option Nat} {take : State → State} {s : State}

/-- A report from an EMPTY slot is set aside (R174). -/
theorem headReport_empty (held : s.setup.resetHeld = false) (empty : s.live.slots[slot].state = .empty) :
    headReport slot hs take s = .next (setAside s slot hs) := by
  unfold headReport
  dsimp only
  rw [if_neg (by simp [held]), Live.headFrame_slots, if_pos empty]
  rfl

/-! ### Reports that name nothing of the slot (R42) -/

theorem accept_stray (r : Reports s slot) (heat : tag = 0 → (framed s slot hs).ownHeat slot = none)
    (order : tag ≠ 0 → (framed s slot hs).orderOf? slot tag = none) :
    exec (.accept slot hs tag serial) s = .next (setAside s slot hs) := by
  rw [show exec (.accept slot hs tag serial) s = execAccept slot hs tag serial s from rfl, execAccept, r.taken]
  by_cases own : tag = 0
  · rw [if_pos own, heat own]
    rfl
  · rw [if_neg own, order own]
    rfl

theorem done_stray {b : DoneBody} (r : Reports s slot) (heat : tag = 0 → (framed s slot hs).ownHeat slot = none)
    (order : tag ≠ 0 → (framed s slot hs).orderOf? slot tag = none) :
    exec (.done slot hs tag b) s = .next (setAside s slot hs) := by
  rw [show exec (.done slot hs tag b) s = execDone slot hs tag b s from rfl, execDone, r.taken]
  by_cases own : tag = 0
  · rw [if_pos own, heat own]
    rfl
  · rw [if_neg own, order own]
    rfl

theorem abortedHeat_stray (heat : (framed s slot hs).ownHeat slot = none) :
    ({ s with live := framed s slot hs } : State).abortedHeat slot = setAside s slot hs := by
  rw [State.abortedHeat, heat]
  rfl

theorem abortedNone_stray (r : Reports s slot) (heat : tag = 0 → (framed s slot hs).ownHeat slot = none)
    (order : tag ≠ 0 → (framed s slot hs).orderOf? slot tag = none) :
    exec (.abortedNone slot hs tag) s = .next (setAside s slot hs) := by
  rw [show exec (.abortedNone slot hs tag) s = execAbortedNone slot hs tag s from rfl, execAbortedNone, r.taken]
  by_cases own : tag = 0
  · rw [if_pos own, abortedHeat_stray (heat own)]
  · rw [if_neg own, order own]
    rfl

theorem abortedPartial_stray (r : Reports s slot) (heat : tag = 0 → (framed s slot hs).ownHeat slot = none)
    (order : tag ≠ 0 → (framed s slot hs).orderOf? slot tag = none) :
    exec (.abortedPartial slot hs tag) s = .next (setAside s slot hs) := by
  rw [show exec (.abortedPartial slot hs tag) s = execAbortedPartial slot hs tag s from rfl, execAbortedPartial, r.taken]
  by_cases own : tag = 0
  · rw [if_pos own, abortedHeat_stray (heat own)]
  · rw [if_neg own, order own]
    rfl

theorem framed_travels : (framed s slot hs).travels = s.live.travels := by simp [framed]

theorem arrived_stray (r : Reports s slot) (travel : s.live.travels[slot] = none) :
    exec (.arrived slot hs tag centre) s = .next (setAside s slot hs) := by
  have unexpected : (framed s slot hs).expectedTravel slot tag = none := by
    unfold Live.expectedTravel
    rw [framed_travels, travel]
  rw [show exec (.arrived slot hs tag centre) s = execArrived slot hs tag centre s from rfl, execArrived, r.taken]
  dsimp only
  rw [unexpected]
  rfl

end Reports

/-- Settles O28: from an EMPTY slot every report, from any other each report that names no work of it. -/
theorem strayReports : Obligations.StrayReports := by
  refine ⟨fun slot hs n centre serial b body s i held empty report => ?_, fun slot hs tag centre serial b s r heat order => ?_⟩
  · obtain rfl | rfl | rfl | rfl | rfl | rfl | rfl | rfl | rfl := report
    all_goals
      dsimp only [exec, execHello, execAccept, execDone, execAbortedNone, execAbortedPartial, execArrived, execFault,
        execLeverOpen, execLeverClosed]
      exact headReport_empty held empty
  · exact ⟨accept_stray r heat order, done_stray r heat order, abortedNone_stray r heat order,
      abortedPartial_stray r heat order, arrived_stray r⟩

/-! ### ACCEPT of an order (R40) -/

section Accept

variable {slot : SlotId} {hs tag : Nat} {serial : Option Nat} {o : Order} {s : State} {c : Setup} {l : Live}

/-- ACCEPT of an order of the slot, by the fields it carries and the state it finds. -/
theorem accept_of (r : Reports s slot) (named : tag ≠ 0) (found : s.live.orderOf? slot tag = some o) :
    exec (.accept slot hs tag serial) s = .next (
      if serial.isSome = true ∧ o.kind ≠ .heat ∨ o.state = .waiting ∨ o.state = .travelling then setAside s slot hs
      else if o.state = .issued then { s with live := (framed s slot hs).acceptOrder s.setup o serial }
      else { s with live := framed s slot hs }) := by
  rw [show exec (.accept slot hs tag serial) s = execAccept slot hs tag serial s from rfl, execAccept, r.taken]
  dsimp only
  rw [if_neg named, framed_orderOf?, found]
  dsimp only
  by_cases long : serial.isSome = true ∧ o.kind ≠ .heat
  · rw [if_pos long, if_pos (.inl long)]
    rfl
  · rw [if_neg long]
    cases state : o.state <;> simp [long] <;> rfl

/-- What an ACCEPT writes in the heat record of a HEAT's lane (R84). -/
def Live.acceptedHeat (o : Order) (serial : Option Nat) (l : Live) : Live :=
  match o.kind, o.target with
  | .heat, .lane i => l.editHeat o.slot i fun g => { g with serial }
  | _, _ => l

theorem Live.acceptedHeat_eq : l.acceptedHeat o serial = { l with lanes := (l.acceptedHeat o serial).lanes } := by
  unfold Live.acceptedHeat
  split <;> rfl

theorem Live.acceptedHeat_stock (i : LaneId) : (l.acceptedHeat o serial).lanes[i].stock = l.lanes[i].stock := by
  unfold Live.acceptedHeat
  split
  · rw [Live.editHeat_lanes, vmod_get]
    split
    next same => rw [same]
    next => rfl
  · rfl

theorem Live.acceptedHeat_own {i : LaneId} (heat : o.kind = .heat) (target : o.target = .lane i) :
    (l.acceptedHeat o serial).lanes[i].heat = l.lanes[i].heat.map fun g => if g.slot = o.slot then { g with serial } else g := by
  unfold Live.acceptedHeat
  rw [heat, target]
  dsimp only
  rw [Live.editHeat_lanes, vmod_get_self]

theorem Live.acceptedHeat_other (other : o.kind ≠ .heat) : l.acceptedHeat o serial = l := by
  unfold Live.acceptedHeat
  split
  next heat _ => exact absurd heat other
  next => rfl

/-- An ACCEPT changes the order, the stock its rivet leaves, the heat record of its lane, and the slot's timer. -/
theorem Live.acceptOrder_eq : l.acceptOrder c o serial =
    { l with
      pool := l.pool.map fun x => if x.tag = o.tag then
        { x with state := .running, rivet := x.rivet.map fun r => { r with whereabouts := .carried } } else x
      lanes := ((l.dropRivetOf o).acceptedHeat o serial).lanes
      slots := vmod l.slots o.slot fun x => { x with timer := some { stage := .run, left := c.acted o.kind.limit } } } := by
  have marked (u : Live) (f : Order → Order) : (u.updOrder o.tag f).acceptedHeat o serial =
      (u.acceptedHeat o serial).updOrder o.tag f := by
    unfold Live.acceptedHeat
    split <;> rfl
  have whole : l.acceptOrder c o serial = (((l.dropRivetOf o).updOrder o.tag fun x =>
      { x with state := .running, rivet := x.rivet.map fun r => { r with whereabouts := .carried } }).acceptedHeat o
        serial).startStage o.slot .run (c.acted o.kind.limit) := rfl
  rw [whole, marked, Live.acceptedHeat_eq, Live.dropRivetOf_eq]
  rfl

end Accept

/-- Settles O29: by the fields of the ACCEPT and the state of its order. -/
theorem accepts : Obligations.Accepts := by
  intro slot hs tag serial o s r named found
  obtain ⟨-, own, at_⟩ := Live.orderOf?_spec found
  refine ⟨fun stray => ?_, fun fits works => ?_, fun issued fits => ⟨(framed s slot hs).acceptOrder s.setup o serial, ?_⟩⟩
  · rw [accept_of r named found, if_pos stray]
  · have kept : ¬ (serial.isSome = true ∧ o.kind ≠ .heat ∨ o.state = .waiting ∨ o.state = .travelling) := by
      obtain k | k := works <;> simp [k] <;> exact fits
    rw [accept_of r named found, if_neg kept, if_neg (by obtain k | k := works <;> simp [k])]
  · have kept : ¬ (serial.isSome = true ∧ o.kind ≠ .heat ∨ o.state = .waiting ∨ o.state = .travelling) := by
      simp [issued]
      exact fits
    refine ⟨by rw [accept_of r named found, if_neg kept, if_pos issued], ?_⟩
    rw [Live.acceptOrder_eq, own, at_, framed_pool, framed_slots, framed_zones, framed_units, framed_notices]
    refine ⟨rfl, ?_, fun j other => vmod_get_ne _ _ other, fun i => ?_, fun heat i target => ?_, fun other i => ?_, ?_⟩
    · rw [vmod_get_self]
      rfl
    · dsimp only
      rw [Live.acceptedHeat_stock, Live.dropRivetOf_lane, own, framed_lanes]
      rfl
    · dsimp only
      rw [Live.acceptedHeat_own heat target, Live.dropRivetOf_lane, at_, framed_lanes]
    · dsimp only
      rw [Live.acceptedHeat_other other, Live.dropRivetOf_lane, framed_lanes]
    · simp [framed]

end Sys2Proof.Machine
end

section
/-! PROOFS. A rivet whose window ends (O37). -/

namespace Sys2Proof.Machine

open Sys2Proof.Safety

section Expiry

variable {i : LaneId} {place tag : Nat} {r : Rivet} {o : Order} {s : State} {l : Live} {c : Setup} {t : Taking}

theorem elapse_slot_state (n : Nat) (j : SlotId) : (s.elapse n).live.slots[j].state = s.live.slots[j].state := by
  simp [State.elapse]

/-! ### The unassigned rivet (R91) -/

theorem unassigned_idle (held : s.setup.resetHeld = false)
    (idle : s.live.lanes[i].stock[place]? = none ∨ ∃ r tag, s.live.lanes[i].stock[place]? = some r ∧ r.tag = some tag) :
    exec (.rivetExpiryUnassigned i place) s = .next s := by
  rw [show exec (.rivetExpiryUnassigned i place) s = execRivetExpiryUnassigned i place s from rfl,
    execRivetExpiryUnassigned, event_taken held]
  obtain gone | ⟨r, tag, at_, assigned⟩ := idle
  · rw [gone]
  · rw [at_]
    dsimp only
    rw [assigned]
    rfl

/-- An unassigned rivet leaves its stock and is scrapped, the time of its window past. -/
theorem unassigned_of (held : s.setup.resetHeld = false) (at_ : s.live.lanes[i].stock[place]? = some r) (free : r.tag = none) :
    exec (.rivetExpiryUnassigned i place) s = .next { s.elapse (r.left s.setup.now) with
      live := ((s.elapse (r.left s.setup.now)).live.removeRivet i place).scrap (s.elapse (r.left s.setup.now)).setup i
        r.serial } := by
  rw [show exec (.rivetExpiryUnassigned i place) s = execRivetExpiryUnassigned i place s from rfl,
    execRivetExpiryUnassigned, event_taken held, at_]
  dsimp only
  rw [free]
  rfl

theorem Live.scrap_unmapped {n : Nat} (unmapped : c.tables.lanes[i].slot = none) : l.scrap c i n = l := by
  rw [Live.scrap, Live.heaterLinked, unmapped]

theorem Live.scrap_mapped {h : SlotId} {n : Nat} (mapped : c.tables.lanes[i].slot = some h) :
    l.scrap c i n = (if l.slots[h].state.joined = true then l.queueDiscard c h n else l).postSlot h .rivetScrapped (.lane i) := by
  rw [Live.scrap, Live.heaterLinked, mapped]
  dsimp only
  by_cases joined : l.slots[h].state.joined = true
  · rw [if_pos joined, if_pos joined]
  · rw [if_neg joined, if_neg joined]

/-! ### The assigned rivet (R92, R93, R51) -/

theorem assigned_idle (held : s.setup.resetHeld = false)
    (idle : s.live.lanes[i].stock[place]? = none ∨ ∃ r, s.live.lanes[i].stock[place]? = some r ∧ r.tag = none) :
    exec (.rivetExpiryAssigned i place) s = .next s := by
  rw [show exec (.rivetExpiryAssigned i place) s = execRivetExpiryAssigned i place s from rfl,
    execRivetExpiryAssigned, event_taken held]
  obtain gone | ⟨r, at_, free⟩ := idle
  · rw [gone]
  · rw [at_]
    dsimp only
    rw [free]

/-- The live state as an assigned rivet's expiry finds its order: the time past and the rivet out of its stock. -/
def withoutRivet (s : State) (i : LaneId) (place : Nat) (r : Rivet) : Live :=
  (s.elapse (r.left s.setup.now)).live.removeRivet i place

theorem withoutRivet_stock : (withoutRivet s i place r).lanes[i].stock = s.live.lanes[i].stock.eraseIdx place := by
  rw [withoutRivet, Live.removeRivet, Live.updLane_lanes, vmod_get_self]
  simp [State.elapse]

theorem assigned_of (held : s.setup.resetHeld = false) (at_ : s.live.lanes[i].stock[place]? = some r)
    (assigned : r.tag = some tag) : exec (.rivetExpiryAssigned i place) s = .next
      (settled (s.elapse (r.left s.setup.now))
        ((Taking.start (withoutRivet s i place r)).rivetCold (s.elapse (r.left s.setup.now)).setup tag)) := by
  rw [show exec (.rivetExpiryAssigned i place) s = execRivetExpiryAssigned i place s from rfl,
    execRivetExpiryAssigned, event_taken held, at_]
  dsimp only
  rw [assigned]
  rfl

/-- A change of an order that is not in the pool changes nothing. -/
theorem Live.updOrder_absent {f : Order → Order} (gone : l.order? tag = none) : l.updOrder tag f = l := by
  have pool : l.pool.map (fun o => if o.tag = tag then f o else o) = l.pool :=
    (List.map_congr_left (g := id) fun o m => if_neg (Live.order?_eq_none.1 gone o m)).trans (List.map_id _)
  rw [Live.updOrder, pool]

/-- The pool once the rivet of an order is COLD. -/
def Taking.chilled (tag : Nat) (t : Taking) : Taking := t.on (Live.updOrder tag Order.goesCold)

theorem Taking.chilled_order? (found : t.live.order? tag = some o) :
    (t.chilled tag).live.order? tag = some o.goesCold := by
  rw [Taking.chilled, Taking.on_live, Live.updOrder_order?_self (f := Order.goesCold) fun _ => rfl, found]
  rfl

theorem Taking.rivetCold_absent (gone : t.live.order? tag = none) : t.rivetCold c tag = t := by
  have same : t.on (Live.updOrder tag Order.goesCold) = t := by
    rw [Taking.on, Live.updOrder_absent gone]
  unfold Taking.rivetCold
  rw [same]
  dsimp only
  rw [gone]

theorem Taking.rivetCold_found (found : t.live.order? tag = some o) : t.rivetCold c tag =
    if o.state = .issued then (t.chilled tag).abort c o.goesCold .rivetCold else t.chilled tag := by
  have chilled := Taking.chilled_order? found
  unfold Taking.chilled at chilled
  unfold Taking.rivetCold
  dsimp only
  rw [chilled]
  rfl

/-- A cold rivet is in no stock any more. -/
theorem rivetIn_goesCold : rivetIn o.goesCold i = false := by
  unfold rivetIn Order.goesCold
  cases o.rivet <;> simp

/-- Taking back the message of an order whose rivet is cold changes no stock (R94). -/
theorem takenBack_stock {u : Live} (h : TakenBack c l o.goesCold u) (j : LaneId) : u.lanes[j].stock = l.lanes[j].stock := by
  obtain ⟨-, -, -, -, travel, issue⟩ := h
  by_cases mark : o.goesCold.travelMark = none
  · obtain ⟨-, -, -, -, stock, -⟩ := issue mark
    rw [stock j, if_neg (by rw [rivetIn_goesCold]; simp)]
  · obtain ⟨-, -, lanes, -⟩ := travel mark
    rw [lanes]

theorem Taking.rivetCold_stock (j : LaneId) : (t.rivetCold c tag).live.lanes[j].stock = t.live.lanes[j].stock := by
  cases found : t.live.order? tag with
  | none => rw [Taking.rivetCold_absent found]
  | some o =>
    rw [Taking.rivetCold_found found]
    split
    · cases sent : o.goesCold.unsent with
      | true => exact takenBack_stock (Taking.abort_takenBack (t := t.chilled tag) sent) j
      | false =>
        have lanes : ((t.chilled tag).abort c o.goesCold .rivetCold).live.lanes = t.live.lanes := by
          rw [Taking.abort_sent sent]
          rfl
        exact congrArg (fun v : Vector Lane 2 => v[j].stock) lanes
    · rfl

/-- An ISSUED order whose ISSUE is sent is ABORTING with RIVET_COLD (R51, R46). -/
theorem Taking.rivetCold_sent (found : t.live.order? tag = some o) (issued : o.state = .issued) (sent : o.unsent = false) :
    (t.rivetCold c tag).live.order? tag = some { o.goesCold with
        state := .aborting, cause := some .rivetCold, step := some .operation }
      ∧ (t.rivetCold c tag).live.slots[o.slot].timer = some { stage := .abort, left := c.acted Timing.acceptLimit }
      ∧ (t.rivetCold c tag).live.heads = (t.live.queue c o.slot (.abort tag)).heads := by
  have own : o.tag = tag := Live.order?_tag found
  rw [Taking.rivetCold_found found, if_pos issued, Taking.abort_sent (show o.goesCold.unsent = false from sent)]
  have step : o.goesCold.stepNow = .operation := by
    rw [Order.stepNow, if_neg (by rw [show o.goesCold.state = o.state from rfl, issued]; simp)]
  refine ⟨?_, ?_, ?_⟩
  · refine (Live.updOrder_order?_self (l := (t.chilled tag).live) (tag := tag) (f := o.goesCold.abortedBy .rivetCold)
      fun _ => rfl) |> Eq.trans ?_ |>.trans ?_
    · rw [← show o.goesCold.tag = tag from own]
      rfl
    · rw [Taking.chilled_order? found, Option.map_some, Order.abortedBy, step]
  · exact congrArg Slot.timer (vmod_get_self _ _ _)
  · rw [← own]
    exact Live.queue_heads_congr rfl

/-- An order of a cold rivet whose message is unsent has it taken back (R93, R47). -/
theorem Taking.chilled_takenBack (found : t.live.order? o.tag = some o) (unsent : o.unsent = true)
    (placed : t.holdDones = false) :
    TakenBack c t.live o.goesCold ((t.chilled o.tag).abort c o.goesCold .rivetCold).live
      ∧ GoesBack t.live o.goesCold ((t.chilled o.tag).abort c o.goesCold .rivetCold).live := by
  have taken := Taking.abort_takenBack (c := c) (t := t.chilled o.tag) (o := o.goesCold) (cause := .rivetCold) unsent
  have goes := Taking.abort_goesBack (c := c) (t := t.chilled o.tag) (o := o.goesCold) (cause := .rivetCold) unsent placed
    (Taking.chilled_order? found)
  exact ⟨takenBack_congr (l := (t.chilled o.tag).live) rfl rfl taken,
    goesBack_congr (l := (t.chilled o.tag).live) Iff.rfl rfl (fun _ said => said) goes⟩

end Expiry

/-- Settles O37: by whether a rivet stands at the place, and by the order it is assigned to. -/
theorem rivetExpires : Obligations.RivetExpires := by
  refine ⟨fun i place s held => ⟨unassigned_idle held, assigned_idle held⟩, fun i place r s held at_ => ?_⟩
  dsimp only
  refine ⟨fun free unmapped => ?_, fun free h mapped => ?_, fun tag assigned gone => ?_, fun tag o assigned found => ?_⟩
  · rw [unassigned_of held at_ free, 
      Live.scrap_unmapped (c := (s.elapse (r.left s.setup.now)).setup) unmapped]
    rfl
  · rw [unassigned_of held at_ free, Live.scrap_mapped (c := (s.elapse (r.left s.setup.now)).setup) mapped,
      show ((s.elapse (r.left s.setup.now)).live.removeRivet i place).slots[h].state = s.live.slots[h].state from
        elapse_slot_state _ h]
    rfl
  · rw [assigned_of held at_ assigned, Taking.rivetCold_absent gone]
    rfl
  · obtain rfl : o.tag = tag := Live.order?_tag found
    have found : (Taking.start (withoutRivet s i place r)).live.order? o.tag = some o := found
    refine ⟨_, assigned_of held at_ assigned, ?_, ?_, fun issued sent => ?_, fun issued unsent => ?_, fun other => ?_⟩
    · rw [Taking.rivetCold_stock]
      exact withoutRivet_stock
    · exact (Taking.rivetCold_examined _ _ _).notices
    · obtain ⟨order, timer, heads⟩ := Taking.rivetCold_sent (c := (s.elapse (r.left s.setup.now)).setup) found issued sent
      have same := heads.trans (Live.queue_heads_congr (l := (s.elapse (r.left s.setup.now)).live) rfl)
      refine ⟨order, timer, ?_, same, fun j other => ?_⟩
      · rw [same]
        exact Live.mem_queue ..
      · rw [Taking.rivetCold_found found, if_pos issued]
        exact Taking.abort_head_other other
    · rw [Taking.rivetCold_found found, if_pos issued]
      exact Taking.chilled_takenBack found unsent rfl
    · rw [Taking.rivetCold_found found, if_neg other]
      exact ⟨Taking.chilled_order? found, rfl, rfl⟩

end Sys2Proof.Machine
end

section
/-! PROOFS. The cell link and the bytes of its messages (O54). -/

namespace Sys2Proof.Machine

open Sys2Proof.Safety

section CellLinks

variable {s : State} {k : CellLink} {m : CellMsg} {h : Header} {kind : Nat}

/-! ### The outbound list (R170, R171) -/

theorem CellLink.place_busy (busy : k.sending ≠ none) : k.place m = { k with
    list := k.list ++ [m], holdoff := holdoffAt (k.list.length + 1) k.holdoff
    status := { k.status with highMark := max k.status.highMark (k.list.length + 1) } } := by
  simp only [CellLink.place, List.length_append, List.length_singleton]
  exact CellLink.begin_busy busy

/-- On an idle transmitter the message begins at once, HOLDOFF clear with the list empty. -/
theorem CellLink.place_idle (idle : k.sending = none) (empty : k.list = []) : k.place m = { k with
    sending := some { m with flags := { m.flags with holdoff := false } }, holdoff := false
    status := { k.status with highMark := max k.status.highMark 1 } } := by
  simp only [CellLink.place, empty, List.nil_append]
  exact CellLink.begin_idle idle rfl

/-! ### Bytes of codes (section 9.6, R177) -/

theorem Mode.code_eq (x : Mode) : x.code = [Mode.standby, .hold, .run, .stop].idxOf x := by cases x <;> rfl

theorem WaitReason.code_eq (x : WaitReason) :
    x.code = [WaitReason.mode, .queued, .predecessor, .zone, .position, .pump, .rivet, .laneFull, .inZone].idxOf x + 1 := by
  cases x <;> rfl

theorem Reason.code_eq (x : Reason) :
    x.code = [Reason.locked, .stopped, .noFrame, .tagInUse, .poolFull, .badSlot, .badZone, .slotAbsent, .slotFaulted,
      .slotLeaving, .wrongKind, .badValue, .badHole, .badLane, .wrongRail, .holeState, .holeClaimed, .laneAuto, .toolSpent,
      .unknownTag, .unknownKind, .exists_, .noRoom, .noPattern, .patternComplete, .badRow, .patternInUse,
      .patternIncomplete, .noRow, .wrongMode, .inFlight, .zoneClamped, .guardOpen, .frameBound, .inUse, .channels,
      .slotState, .slotBusy, .busy, .badAddress, .protected_, .badImage].idxOf x + 1 := by
  cases x <;> rfl

theorem DoneCause.code_eq (x : DoneCause) :
    x.code = [DoneCause.cancel, .guard, .clampLost, .rivetCold, .cancelLate, .headFault, .opTimeout, .noAccept,
      .linkLost, .abortLost, .positionLost, .slotFaulted, .slotLeaving, .slotLost, .toolSpent, .frameEnded,
      .holeChanged].idxOf x + 1 := by
  cases x <;> rfl

theorem OrderKind.code_eq (x : OrderKind) :
    x.code = 0x10 + [OrderKind.drill, .ream, .set, .heat, .clamp, .unclamp, .park].idxOf x := by cases x <;> rfl

theorem OrderOutcome.code_eq (x : OrderOutcome) :
    x.code = [OrderOutcome.completed, .cancelled, .aborted, .failed, .withdrawn].idxOf x + 1 := by cases x <;> rfl

theorem HoleState.code_eq (x : HoleState) :
    x.code = [HoleState.planned, .drilling, .drilled, .oversize, .undersize, .suspect, .setting, .set, .defect,
      .barred].idxOf x + 1 := by cases x <;> rfl

theorem Gauge.code_eq (x : Gauge) : x.code = [Gauge.within, .under, .over].idxOf x + 1 := by cases x <;> rfl

theorem Force.code_eq (x : Force) : x.code = [Force.ok, .low, .high].idxOf x + 1 := by cases x <;> rfl

theorem toNat_mul_eq_ite (v : Bool) (n : Nat) : v.toNat * n = if v = true then n else 0 := by cases v <;> simp

/-- The flags byte, bit by bit (section 9.6). -/
theorem CellFlags.byte_eq (f : CellFlags) :
    let flag := fun (v : Bool) (n : Nat) => if v = true then n else 0
    f.byte = BitVec.ofNat 8 (flag f.attention 128 + flag f.slow 64 + flag f.locked 32 + flag f.holdoff 16
      + [Mode.standby, .hold, .run, .stop].idxOf f.mode) := by
  dsimp only
  rw [CellFlags.byte, Mode.code_eq]
  simp only [toNat_mul_eq_ite]

/-! ### ORDER DONE (section 9.6) -/

/-- The bytes that every ORDER DONE carries after its header. -/
def OrderDone.fixedBytes (d : OrderDone) : List Byte :=
  byte1 d.kind.code ++ byte1 (d.slot.val + 1) ++ byte2 d.target.number ++ byte1 d.outcome.code
    ++ byte1 ((d.cause.map DoneCause.code).getD 0) ++ byte1 d.cancel.toNat

theorem OrderDone.fixedBytes_eq (d : OrderDone) :
    d.fixedBytes =
      [BitVec.ofNat 8 (0x10 + [OrderKind.drill, .ream, .set, .heat, .clamp, .unclamp, .park].idxOf d.kind),
        BitVec.ofNat 8 (d.slot.val + 1)]
      ++ byte2 (match d.target with
        | .hole n => n
        | .zone z => z.val + 1
        | .lane i => i.val + 1
        | .home => 0)
      ++ [ BitVec.ofNat 8 ([OrderOutcome.completed, .cancelled, .aborted, .failed, .withdrawn].idxOf d.outcome + 1),
           BitVec.ofNat 8 (match d.cause with
            | none => 0
            | some x => [DoneCause.cancel, .guard, .clampLost, .rivetCold, .cancelLate, .headFault, .opTimeout, .noAccept,
              .linkLost, .abortLost, .positionLost, .slotFaulted, .slotLeaving, .slotLost, .toolSpent, .frameEnded,
              .holeChanged].idxOf x + 1),
           BitVec.ofNat 8 (if d.cancel = true then 1 else 0) ] := by
  have target : d.target.number = (match d.target with
      | .hole n => n
      | .zone z => z.val + 1
      | .lane i => i.val + 1
      | .home => 0) := by cases d.target <;> rfl
  have cancel : d.cancel.toNat = if d.cancel = true then 1 else 0 := by cases d.cancel <;> rfl
  have cause : (d.cause.map DoneCause.code).getD 0 = (match d.cause with
      | none => 0
      | some x => [DoneCause.cancel, .guard, .clampLost, .rivetCold, .cancelLate, .headFault, .opTimeout, .noAccept,
        .linkLost, .abortLost, .positionLost, .slotFaulted, .slotLeaving, .slotLost, .toolSpent, .frameEnded,
        .holeChanged].idxOf x + 1) := by
    cases d.cause with
    | none => rfl
    | some x => exact DoneCause.code_eq x
  rw [fixedBytes, target, cancel, cause, OrderKind.code_eq, OrderOutcome.code_eq]
  rfl

/-- The bytes of a hole entry in an ORDER DONE. -/
def entryBytes (hole : HoleState) (cls : Nat) : List Byte := byte1 hole.code ++ byte1 cls

theorem orderDone_bytes {d : OrderDone} {f : CellFlags} {rest : List Byte} (e : d.bytes = d.fixedBytes ++ rest) :
    CellMsg.bytes { body := .orderDone d, flags := f } =
      [BitVec.ofNat 8 (rest.length + 11), 0x82, BitVec.ofNat 8 d.tag, f.byte] ++ d.fixedBytes ++ rest := by
  have length : (d.fixedBytes ++ rest).length + 4 = rest.length + 11 := by
    rw [List.length_append, Nat.add_comm _ rest.length]
    rfl
  show bodyOf 0x82 d.tag f.byte d.bytes = _
  rw [e, bodyOf, length]
  rfl

section Layouts

variable {d : OrderDone} {hole : HoleState} {cls n : Nat}

theorem OrderDone.bytes_plain (bare : d.holeInfo = none)
    (kind : d.kind = .clamp ∨ d.kind = .unclamp ∨ d.kind = .park ∨ (d.kind = .heat ∧ d.outcome ≠ .completed)) :
    d.bytes = d.fixedBytes ++ [] := by
  unfold OrderDone.bytes OrderDone.fixedBytes
  rw [bare]
  by_cases ends : d.outcome = .completed
  · rw [if_neg (not_not_intro ends)]
    obtain kind | kind | kind | ⟨-, other⟩ := kind
    case inr.inr.inr => exact absurd ends other
    all_goals rw [kind]; rfl
  · rw [if_pos ends]

theorem OrderDone.bytes_heat (kind : d.kind = .heat) (ends : d.outcome = .completed) (serial : d.serial = some n) :
    d.bytes = d.fixedBytes ++ byte2 n := by
  unfold OrderDone.bytes OrderDone.fixedBytes
  rw [if_neg (not_not_intro ends), kind, serial]
  rfl

theorem OrderDone.bytes_hole (info : d.holeInfo = some (hole, cls)) (ends : d.outcome ≠ .completed) :
    d.bytes = d.fixedBytes ++ entryBytes hole cls := by
  unfold OrderDone.bytes OrderDone.fixedBytes
  rw [if_pos ends, info]
  rfl

theorem OrderDone.bytes_drill (info : d.holeInfo = some (hole, cls)) (ends : d.outcome = .completed)
    (kind : d.kind = .drill ∨ d.kind = .ream) :
    d.bytes = d.fixedBytes ++ (entryBytes hole cls ++ byte1 ((d.gauge.map Gauge.code).getD 0) ++ byte2 (d.measure.getD 0)) := by
  unfold OrderDone.bytes OrderDone.fixedBytes
  rw [if_neg (not_not_intro ends), info]
  obtain kind | kind := kind <;> rw [kind] <;> rfl

theorem OrderDone.bytes_set (info : d.holeInfo = some (hole, cls)) (ends : d.outcome = .completed) (kind : d.kind = .set) :
    d.bytes = d.fixedBytes ++ (entryBytes hole cls ++ byte1 ((d.force.map Force.code).getD 0) ++ byte2 (d.measure.getD 0)
      ++ byte2 (d.serial.getD 0)) := by
  unfold OrderDone.bytes OrderDone.fixedBytes
  rw [if_neg (not_not_intro ends), info, kind]
  rfl

end Layouts

/-! ### The sent event (R170, R194) -/

theorem State.placeRestartAnswer_untaken (none : ∀ seq, s.setup.restart ≠ .taken seq) : s.placeRestartAnswer = s := by
  unfold State.placeRestartAnswer
  split
  next seq taken => exact absurd taken (none seq)
  next => rfl

theorem State.placeRestartAnswer_empty {seq : Nat} (taken : s.setup.restart = .taken seq) (empty : s.live.cell.list = []) :
    s.placeRestartAnswer =
      ({ s with setup := { s.setup with restart := .answered } } : State).place (.answer seq .restarting) := by
  unfold State.placeRestartAnswer
  rw [taken, empty]
  rfl

theorem State.placeRestartAnswer_waits (more : s.live.cell.list ≠ []) : s.placeRestartAnswer = s := by
  unfold State.placeRestartAnswer
  split
  · rw [if_neg (by rwa [List.isEmpty_iff])]
  · rfl

theorem Live.cellSent_empty {l : Live} (empty : l.cell.list = []) :
    l.cellSent = { l with cell := { l.cell with sending := none } } := by
  unfold Live.cellSent
  rw [CellLink.begin_empty (k := { l.cell with sending := none }) empty]

theorem Live.cellSent_cons {l : Live} {x : CellMsg} {rest : List CellMsg} (more : l.cell.list = x :: rest) :
    l.cellSent = { l with cell := { l.cell with
      list := rest, holdoff := holdoffAt rest.length l.cell.holdoff
      sending := some { x with flags := { x.flags with holdoff := holdoffAt rest.length l.cell.holdoff } } } } := by
  unfold Live.cellSent
  rw [CellLink.begin_idle (k := { l.cell with sending := none }) rfl more]

theorem sent_idle (held : s.setup.resetHeld = false) (idle : s.live.cell.sending = none) :
    exec .cellSentEvent s = .next s := by
  show execCellSentEvent s = _
  rw [execCellSentEvent, event_taken held, idle]

theorem sent_resets (held : s.setup.resetHeld = false) (sending : s.live.cell.sending = some m) (ends : m.endsRestart = true) :
    exec .cellSentEvent s = .next (s.takeReset .restart) := by
  show execCellSentEvent s = _
  rw [execCellSentEvent, event_taken held, sending]
  exact congrArg _ (if_pos ends)

theorem sent_goesOn (held : s.setup.resetHeld = false) (sending : s.live.cell.sending = some m)
    (other : m.endsRestart = false) :
    exec .cellSentEvent s = .next ({ s with live := s.live.cellSent } : State).placeRestartAnswer := by
  show execCellSentEvent s = _
  rw [execCellSentEvent, event_taken held, sending]
  exact congrArg _ (if_neg (by rw [other]; exact Bool.false_ne_true))

/-! ### Frames that are not taken, and the start delimiter (R168, R171, R194) -/

theorem unknownKind_taken (w : Weighed s) :
    exec (.unknownKind h kind) s = .next (answered { s with live := s.live.cellError .protocol } h (.refused .unknownKind)) :=
  w.taken (form := .management) (lockable := false) (exempt := false)
    (take := fun s => ({ s with live := s.live.cellError .protocol } : State).refuse h .unknownKind) rfl rfl
    (fun no => absurd no Bool.false_ne_true)

theorem restartDiscarded_taken (held : s.setup.resetHeld = false) (taken : s.setup.restart ≠ .idle) :
    exec .restartDiscardedFrame s = .next { s with live := s.live.closeFrame } := by
  show execRestartDiscardedFrame s = _
  rw [execRestartDiscardedFrame, event_taken held, if_pos taken]

section Open

variable (held : s.setup.resetHeld = false) (idle : s.setup.restart = .idle)
include held idle

theorem restartDiscarded_idle : exec .restartDiscardedFrame s = .next s := by
  show execRestartDiscardedFrame s = _
  rw [execRestartDiscardedFrame, event_taken held, if_neg (not_not_intro idle)]

theorem holdoffDiscard_under (under : s.live.cell.underHoldoff = true) :
    exec .holdoffDiscard s = .next { s with live := s.live.closeFrame.cellError .overrun } := by
  show execHoldoffDiscard s = _
  rw [execHoldoffDiscard, event_taken held, if_neg (not_not_intro idle), if_pos under]

theorem holdoffDiscard_free (free : s.live.cell.underHoldoff = false) : exec .holdoffDiscard s = .next s := by
  show execHoldoffDiscard s = _
  rw [execHoldoffDiscard, event_taken held, if_neg (not_not_intro idle), if_neg (by rw [free]; exact Bool.false_ne_true)]

theorem startDelimiter_outside (outside : s.live.cell.rx.state = .outside) :
    exec .startDelimiter s = .next { s with live := { s.live with cell := { s.live.cell with
      rx := { state := .inside, content := [], discarding := s.live.cell.holdoff } } } } := by
  have opens : s.live.cell.rx.byte s.live.cell.holdoff 0xD1 = (Receiver.opening s.live.cell.holdoff, none) := by
    rw [Receiver.byte, outside]
    rfl
  show execStartDelimiter s = _
  rw [execStartDelimiter, event_taken held, State.cellBytes, if_neg (not_not_intro idle), receive, opens]
  rfl

end Open

/-! ### What the links send (R163, R182, R183, R194) -/

theorem frameOf_eq (body : List Byte) :
    frameOf body = [0xD1#8] ++ (body ++ [((crcOf body) >>> 8).truncate 8, (crcOf body).truncate 8]).flatMap
      (fun b => if b = 0xD1 ∨ b = 0xD2 ∨ b = 0xD3 then [0xD3, b ^^^ 0x20] else [b]) ++ [0xD2#8] := rfl

theorem cellLine_eq (s : State) : s.cellLine = if s.setup.resetHeld = true then []
    else match s.live.cell.sending with
      | some m => frameOf m.bytes
      | none => [0xD0] := rfl

theorem headLine_eq (slot : SlotId) (s : State) :
    s.headLine slot = if s.setup.resetHeld = true ∨ s.setup.headHold ≠ none then []
      else match s.live.heads[slot].sending with
        | some m => frameOf (m.bytes slot)
        | none => [0xD0] := by
  unfold State.headLine
  exact if_congr (by rw [Option.isSome_iff_ne_none]) rfl rfl

/-- Settles O54: each layout by the codes it carries, each event by the case of the transmitter it finds. -/
theorem cellLinkEvents : Obligations.CellLinkEvents := by
  refine ⟨fun c l b => rfl, ?_, ?_, ?_⟩
  · intro tag f st r d hole cls b w waits reasons causes flag fixed entry done
    have entry_eq : entryBytes hole cls = entry := by rw [entryBytes, HoleState.code_eq]; rfl
    have done_of : ∀ {rest n}, d.bytes = d.fixedBytes ++ rest → n = rest.length + 11 → done n rest := by
      intro rest n e length
      show CellMsg.bytes _ = _
      rw [orderDone_bytes e, length, d.fixedBytes_eq]
      rfl
    refine ⟨f.byte_eq, ?_, ?_, ?_, ?_, ?_, ?_, ?_, ?_⟩
    · obtain (_ | x) | _ | _ | _ | _ := st
      case waiting.some =>
        show bodyOf 0x80 tag f.byte (byte1 1 ++ byte1 x.code) = _
        rw [WaitReason.code_eq]
        rfl
      all_goals rfl
    · show bodyOf 0x81 tag f.byte (byte1 r.code) = _
      rw [Reason.code_eq]
      rfl
    · show bodyOf 0x83 tag f.byte (byte1 r.code ++ []) = _
      rw [Reason.code_eq]
      rfl
    · exact fun bare kind => done_of (OrderDone.bytes_plain bare kind) rfl
    · exact fun n _ kind ends serial => done_of (OrderDone.bytes_heat kind ends serial) rfl
    · exact fun info ends => entry_eq ▸ done_of (OrderDone.bytes_hole info ends) rfl
    · intro info ends kind
      have gauge : (d.gauge.map Gauge.code).getD 0 = (match d.gauge with
          | none => 0
          | some x => [Gauge.within, .under, .over].idxOf x + 1) := by
        cases d.gauge with
        | none => rfl
        | some x => exact Gauge.code_eq x
      have bytes := OrderDone.bytes_drill info ends kind
      rw [gauge, entry_eq] at bytes
      exact done_of bytes rfl
    · intro info ends kind
      have force : (d.force.map Force.code).getD 0 = (match d.force with
          | none => 0
          | some x => [Force.ok, .low, .high].idxOf x + 1) := by
        cases d.force with
        | none => rfl
        | some x => exact Force.code_eq x
      have bytes := OrderDone.bytes_set info ends kind
      rw [force, entry_eq] at bytes
      exact done_of bytes rfl
  · exact fun slot s => ⟨cellLine_eq s, headLine_eq slot s, rfl, rfl⟩
  · intro h kind s k held begun
    refine ⟨fun m => CellLink.place_busy, fun m => CellLink.place_idle, unknownKind_taken, sent_idle, ?_, ?_,
      restartDiscarded_taken, fun free m => sent_resets free⟩
    · intro free m sending other
      rw [sent_goesOn free sending other]
      refine ⟨fun untaken empty => ?_, fun untaken x rest more => ?_, fun seq taken => ⟨fun empty => ?_,
        fun x more => ?_, fun x y rest more => ?_⟩⟩
      · rw [Live.cellSent_empty empty, State.placeRestartAnswer_untaken (by exact untaken)]
      · rw [Live.cellSent_cons more]
        exact congrArg _ (State.placeRestartAnswer_untaken (by exact untaken))
      · rw [Live.cellSent_empty empty]
        exact congrArg _ (State.placeRestartAnswer_empty (by exact taken) empty)
      · rw [Live.cellSent_cons more]
        exact congrArg _ (State.placeRestartAnswer_empty (by exact taken) rfl)
      · rw [Live.cellSent_cons more]
        exact congrArg _ (State.placeRestartAnswer_waits (List.cons_ne_nil y rest))
    · exact fun free idle => ⟨holdoffDiscard_under free idle, holdoffDiscard_free free idle,
        startDelimiter_outside free idle, restartDiscarded_idle free idle⟩

end CellLinks

end Sys2Proof.Machine
end

section
/-! PROOFS. A slot becomes LEAVING, and the lever (O45). -/

namespace Sys2Proof.Machine

open Sys2Proof.Safety

/-! ### A slot becomes LEAVING (R121) -/

section Leaving

variable {c : Setup} {t : Taking} {i : SlotId} {o : Order}

theorem Taking.leaving_slot : (t.leaving c i).live.slots[i] =
    { t.live.slots[i] with state := .leaving, leverPending := false, aspect := aspectOf t.live.slots[i].lamp .leaving } := by
  rw [congrArg (fun v : Vector Slot 12 => v[i]) (Taking.leaving_slots (t := t) (c := c)), Live.syncLamp_slots, Live.updSlot_slots,
    vmod_vmod]
  exact vmod_get_self _ _ _

theorem Taking.leaving_order? (place : o ∈ t.live.pool) (own : o.slot = i) (waiting : o.state = .waiting) :
    (t.leaving c i).live.order? o.tag = none := by
  rw [Live.order?, Taking.leaving_pool, List.find?_eq_none]
  intro q kept same
  obtain ⟨-, apart⟩ := List.mem_filter.1 kept
  have among : o ∈ t.live.pool.filter fun q => q.slot == i && q.state == .waiting && true := by simp [place, own, waiting]
  have differs := List.all_eq_true.1 apart o among
  exact (bne_iff_ne.1 differs) (beq_iff_eq.1 same)

theorem Taking.leaving_stands (place : o ∈ t.live.pool)
    (other : ∀ q ∈ t.live.pool, q.tag = o.tag → q.slot ≠ i ∨ q.state ≠ .waiting) : o ∈ (t.leaving c i).live.pool := by
  rw [Taking.leaving_pool, List.mem_filter, List.all_eq_true]
  refine ⟨place, fun q among => bne_iff_ne.2 fun same => ?_⟩
  obtain ⟨member, hits⟩ := List.mem_filter.1 among
  obtain ⟨own, waiting⟩ : q.slot = i ∧ q.state = .waiting := by simpa using hits
  exact (other q member same.symm).elim (absurd own) (absurd waiting)

theorem Taking.leaving_says (placing : t.holdDones = false) (place : o ∈ t.live.pool) (own : o.slot = i)
    (waiting : o.state = .waiting) :
    Says (t.leaving c i).live (orderDone t.live o .withdrawn (some .slotLeaving)) := by
  let marked := t.on fun l => l.updSlot i fun x => { x with state := .leaving, leverPending := false }
  have among : o ∈ marked.live.pool.filter fun q => q.slot == i && q.state == .waiting && true := by
    simp [marked, place, own, waiting]
  have bodies : (t.leaving c i).live.cell.bodies = (marked.withdrawWaiting c i (fun _ => true) .slotLeaving).live.cell.bodies := by
    unfold Taking.leaving
    simp [marked]
  rw [Says, bodies, Taking.withdrawWaiting, Taking.withdrawAll_bodies (t := marked) (h := placing)]
  refine List.mem_append_right _ (List.mem_map.2 ⟨o, among, ?_⟩)
  rw [orderDone_eq (by simp)]
  rfl

theorem Taking.leaving_posted : (t.leaving c i).live.notices =
    t.live.notices.set (noticeIndex (slotSource i) .warn)
      (some (postedEntry .leverOpen .none t.live.notices[noticeIndex (slotSource i) .warn])) := Taking.leaving_notices

end Leaving

/-! ### The lever (R120, R122) -/

section Lever

variable {c : Setup} {t : Taking} {i : SlotId} {hs : Nat} {s : State} {st : SlotState}

/-- The slot whose lever opens, with that recorded. -/
def Live.leverAt (i : SlotId) (v : Lever) (l : Live) : Live := l.updSlot i fun y => { y with lever := v }

theorem Live.leverAt_slot {l : Live} {v : Lever} : (l.leverAt i v).slots[i] = { l.slots[i] with lever := v } :=
  vmod_get_self _ _ _

theorem Taking.leverAt_slot {v : Lever} : (t.on fun l => l.updSlot i fun y => { y with lever := v }).live.slots[i] =
    { t.live.slots[i] with lever := v } := vmod_get_self _ _ _

theorem SlotState.working_iff : st.working = true ↔ st = .ready ∨ st = .busy := by cases st <;> simp [working]

theorem Taking.leverOpened_auto (working : t.live.slots[i].state.working = true) (auto : t.live.slots[i].lamp = .auto) :
    t.leverOpened c i = (t.on (Live.leverAt i .opened)).leaving c i := by
  unfold Taking.leverOpened
  simp only [Taking.leverAt_slot (t := t), if_pos working, if_pos auto]
  rfl

theorem Taking.leverOpened_forced (working : t.live.slots[i].state.working = true) (forced : t.live.slots[i].lamp ≠ .auto) :
    t.leverOpened c i = t.on fun l => (l.leverAt i .opened).updSlot i fun y => { y with leverPending := true } := by
  unfold Taking.leverOpened
  simp only [Taking.leverAt_slot (t := t), if_pos working, if_neg forced]
  rfl

theorem Taking.leverOpened_idle (idle : ¬ t.live.slots[i].state.working = true) :
    t.leverOpened c i = t.on (Live.leverAt i .opened) := by
  unfold Taking.leverOpened
  simp only [Taking.leverAt_slot (t := t), if_neg idle]
  rfl

theorem Taking.leverShut_working (working : t.live.slots[i].state = .ready ∨ t.live.slots[i].state = .busy) :
    t.leverShut c i = t.on fun l => (l.leverAt i .closed).updSlot i fun x => { x with leverPending := false } := by
  unfold Taking.leverShut
  simp only [Taking.leverAt_slot (t := t)]
  obtain state | state := working
  all_goals
    rw [state]
    rfl

theorem Taking.leverShut_back (away : t.live.slots[i].state = .leaving ∨ t.live.slots[i].state = .released) :
    let back := fun st : SlotState =>
      t.on fun l => ((l.leverAt i .closed).updSlot i fun x => { x with state := st }).syncLamp c i
    t.leverShut c i = if t.live.slots[i].work = .idle then (back .ready).wakeGate else back .busy := by
  unfold Taking.leverShut
  simp only [Taking.leverAt_slot (t := t)]
  by_cases idle : t.live.slots[i].work = .idle
  all_goals
    simp only [idle, if_true, if_false]
    obtain state | state := away
    all_goals
      rw [state]
      rfl

theorem Taking.leverShut_other (ready : t.live.slots[i].state ≠ .ready) (busy : t.live.slots[i].state ≠ .busy)
    (leaving : t.live.slots[i].state ≠ .leaving) (released : t.live.slots[i].state ≠ .released) :
    t.leverShut c i = t.on (Live.leverAt i .closed) := by
  unfold Taking.leverShut
  simp only [Taking.leverAt_slot (t := t)]
  rfl

theorem leverOpen_taken (r : Reports s i) :
    exec (.leverOpen i hs) s = .next (settled s ((Taking.start (framed s i hs)).leverOpened s.setup i)) := r.taken

theorem leverClosed_taken (r : Reports s i) :
    exec (.leverClosed i hs) s = .next (settled s ((Taking.start (framed s i hs)).leverShut s.setup i)) := r.taken

theorem framed_slot : (Taking.start (framed s i hs)).live.slots[i] = s.live.slots[i] :=
  congrArg (fun v : Vector Slot 12 => v[i]) framed_slots

theorem framed_orderDone (o : Order) (x : OrderOutcome) (y : Option DoneCause) :
    orderDone (framed s i hs) o x y = orderDone s.live o x y := by
  rw [orderDone, show (framed s i hs).hole? = s.live.hole? from funext framed_hole?]
  rfl

/-- Settles O45: the lever opened and shut, by the state its slot is in. -/
theorem levers : Obligations.Levers := by
  intro i hs s r x l opened shut working
  have works : (Taking.start l).live.slots[i].state.working = true ↔ working := by
    rw [framed_slot, SlotState.working_iff]
  rw [leverOpen_taken r, leverClosed_taken r]
  refine ⟨fun busy auto => ⟨_, rfl, ?_⟩, fun busy forced => ?_, fun idle => ?_, fun busy => ?_, fun away => ?_,
    fun idle leaving released => ?_⟩
  · rw [Taking.leverOpened_auto (works.2 busy) (by rw [framed_slot]; exact auto)]
    let t := (Taking.start l).on (Live.leverAt i .opened)
    have own : t.live.slots[i] = { x with lever := .opened } := by
      rw [Taking.on_live, Live.leverAt_slot, framed_slot]
    have pool : t.live.pool = s.live.pool := framed_pool
    have notices : t.live.notices = s.live.notices := framed_notices
    refine ⟨?_, fun o place slot waiting => ⟨?_, ?_, ?_⟩, fun o place other => ?_, Taking.leaving_heads, ?_⟩
    · rw [Taking.leaving_slot (t := t), own, auto]
      rfl
    · exact Taking.leaving_order? (t := t) (pool ▸ place) slot waiting
    · exact Taking.leaving_withdrawn (t := t) (pool ▸ place) slot waiting
    · rw [← framed_orderDone (i := i) (hs := hs)]
      exact Taking.leaving_says (t := t) rfl (pool ▸ place) slot waiting
    · exact Taking.leaving_stands (t := t) (pool ▸ place) (pool ▸ other)
    · intro k
      rw [← notices]
      exact Taking.leaving_posted (t := t)
  · rw [Taking.leverOpened_forced (works.2 busy) (by rw [framed_slot]; exact forced)]
    rfl
  · rw [Taking.leverOpened_idle (mt works.1 idle)]
    rfl
  · rw [Taking.leverShut_working (by rw [framed_slot]; exact busy)]
    rfl
  · rw [Taking.leverShut_back (by rw [framed_slot]; exact away), framed_slot]
    rfl
  · rw [Taking.leverShut_other (by rw [framed_slot]; exact fun state => idle (.inl state))
      (by rw [framed_slot]; exact fun state => idle (.inr state)) (by rw [framed_slot]; exact leaving)
      (by rw [framed_slot]; exact released)]
    rfl

end Lever

end Sys2Proof.Machine
end

section
/-! PROOFS. The slot messages of the cell (O46). -/

namespace Sys2Proof.Machine

open Sys2Proof.Safety

section SlotMessaging

variable {c : Setup} {h : Header} {slot setting tag : Nat} {s : State} {i : SlotId} {r : Reason} {v : LampSetting} {l : Live}

/-! ### SLOT CLEAR and SLOT RELEASE (R131, R123) -/

theorem slotClear_refuses (w : Weighed s) (plain : Plain h 5)
    (first : firstReason
      [ (s.setup.lockout, .locked), ((slotOf slot).isNone, .badSlot),
        ((slotOf slot).any fun i => s.live.slots[i].state != .faulted, .slotState) ] = some r) :
    exec (.slotClear h slot) s = .next (answered s h (.refused r)) := by
  rw [show exec (.slotClear h slot) s = execSlotClear h slot s from rfl, execSlotClear]
  obtain ⟨locked, rfl⟩ | ⟨unlocked, first⟩ := firstReason_head first
  · exact manage_locked w plain locked
  rw [manage_taken w plain fun _ => unlocked]
  cases named : slotOf slot with
  | none =>
    obtain rfl : Reason.badSlot = r := by simpa [firstReason, named] using first
    rfl
  | some i =>
    obtain ⟨state, rfl⟩ : s.live.slots[i].state ≠ .faulted ∧ Reason.slotState = r := by
      simpa [firstReason, named] using first
    exact congrArg _ (if_pos state)

theorem slotClear_clears (w : Weighed s) (plain : Plain h 5) (unlocked : s.setup.lockout = false) (named : slotOf slot = some i)
    (faulted : s.live.slots[i].state = .faulted) :
    let l := (closed s).live.updSlot i fun x => { x with state := .joining }
    let l := ((l.queueJoin s.setup i (.rejoin .cleared)).syncLamp s.setup i).syncCadences s.setup
    exec (.slotClear h slot) s = .next (({ s with live := l } : State).place (.answer h.tag .ok)) := by
  intro _ l
  rw [show exec (.slotClear h slot) s = execSlotClear h slot s from rfl, execSlotClear,
    manage_taken w plain fun _ => unlocked, named]
  exact congrArg _ (if_neg (not_not_intro faulted))

theorem slotRelease_refuses (w : Weighed s) (plain : Plain h 5)
    (first : firstReason
      [ (s.setup.lockout, .locked), ((slotOf slot).isNone, .badSlot),
        ((slotOf slot).any fun i => s.live.slots[i].state != .leaving, .slotState),
        ((slotOf slot).any fun i => s.live.slots[i].work != .idle, .slotBusy) ] = some r) :
    exec (.slotRelease h slot) s = .next (answered s h (.refused r)) := by
  rw [show exec (.slotRelease h slot) s = execSlotRelease h slot s from rfl, execSlotRelease]
  obtain ⟨locked, rfl⟩ | ⟨unlocked, first⟩ := firstReason_head first
  · exact manage_locked w plain locked
  rw [manage_taken w plain fun _ => unlocked]
  cases named : slotOf slot with
  | none =>
    obtain rfl : Reason.badSlot = r := by simpa [firstReason, named] using first
    rfl
  | some i =>
    rw [named] at first
    obtain ⟨unnamed, -⟩ | ⟨-, first⟩ := firstReason_head first
    · exact absurd unnamed Bool.false_ne_true
    obtain ⟨state, rfl⟩ | ⟨state, first⟩ := firstReason_head first
    · exact congrArg _ (if_pos (by simpa using state))
    obtain ⟨working, rfl⟩ : s.live.slots[i].work ≠ .idle ∧ Reason.slotBusy = r := by simpa [firstReason] using first
    exact congrArg _ ((if_neg (by simpa using state)).trans (if_pos working))

theorem slotRelease_releases (w : Weighed s) (plain : Plain h 5) (unlocked : s.setup.lockout = false)
    (named : slotOf slot = some i) (leaving : s.live.slots[i].state = .leaving) (idle : s.live.slots[i].work = .idle) :
    let l := ((closed s).live.queueToolSync s.setup i).updSlot i fun x => { x with state := .released }
    let l := (l.syncLamp s.setup i).syncCadences s.setup
    exec (.slotRelease h slot) s = .next (({ s with live := l } : State).place (.answer h.tag .ok)) := by
  intro _ l
  rw [show exec (.slotRelease h slot) s = execSlotRelease h slot s from rfl, execSlotRelease,
    manage_taken w plain fun _ => unlocked, named]
  exact congrArg _ ((if_neg (not_not_intro leaving)).trans (if_neg (not_not_intro idle)))

/-! ### LAMP SET (R126) -/

theorem lampOf_eq_none : lampOf setting = none ↔ setting = 0 ∨ 3 < setting := by
  obtain _ | _ | _ | _ | n := setting
  case succ.succ.succ.succ => simp [lampOf]
  all_goals simp [lampOf]

theorem lampSet_refuses (w : Weighed s) (plain : Plain h 6)
    (first : firstReason
      [ (s.setup.lockout, .locked), ((slotOf slot).isNone, .badSlot), (setting == 0 || decide (3 < setting), .badValue) ]
        = some r) :
    exec (.lampSet h slot setting) s = .next (answered s h (.refused r)) := by
  rw [show exec (.lampSet h slot setting) s = execLampSet h slot setting s from rfl, execLampSet]
  obtain ⟨locked, rfl⟩ | ⟨unlocked, first⟩ := firstReason_head first
  · exact manage_locked w plain locked
  rw [manage_taken w plain fun _ => unlocked]
  cases named : slotOf slot with
  | none =>
    obtain rfl : Reason.badSlot = r := by simpa [firstReason, named] using first
    rfl
  | some i =>
    obtain ⟨value, rfl⟩ : (setting = 0 ∨ 3 < setting) ∧ Reason.badValue = r := by simpa [firstReason, named] using first
    rw [lampOf_eq_none.2 value]
    rfl

/-- A slot under a new lamp setting, its aspect worked out anew. -/
def Live.litAs (c : Setup) (i : SlotId) (v : LampSetting) (l : Live) : Live :=
  (l.updSlot i fun x => { x with lamp := v }).syncLamp c i

theorem Live.litAs_slot : (l.litAs c i v).slots[i] =
    { l.slots[i] with lamp := v, aspect := aspectOf v l.slots[i].state } := by
  rw [litAs, syncLamp_slots, updSlot_slots, vmod_vmod]
  exact vmod_get_self _ _ _

/-- The slot under the new setting becomes LEAVING: AUTO finds the mark of a lever opened under a forced lamp. -/
def Slot.leavesUnder (v : LampSetting) (x : Slot) : Prop :=
  v = .auto ∧ (x.state = .ready ∨ x.state = .busy) ∧ x.leverPending = true

/-- The taking of a LAMP SET up to its ANSWER. -/
def lampTurned (c : Setup) (i : SlotId) (v : LampSetting) (l : Live) : Taking :=
  let t := Taking.start (l.litAs c i v)
  if v = .auto ∧ t.live.slots[i].state.working ∧ t.live.slots[i].leverPending then t.leaving c i else t

/-- The ANSWER of a LAMP SET, as the slot then stands. -/
def lampAnswer (tag : Nat) (y : Slot) : CellBody := .answer tag (.lamp y.lamp y.aspect y.leverPending)

/-- The taking of a LAMP SET. -/
def lampTaking (c : Setup) (i : SlotId) (v : LampSetting) (tag : Nat) (l : Live) : Taking :=
  (lampTurned c i v l).on fun l' => l'.place c (lampAnswer tag (lampTurned c i v l).live.slots[i])

theorem lampSet_taken (w : Weighed s) (plain : Plain h 6) (unlocked : s.setup.lockout = false) (named : slotOf slot = some i)
    (value : lampOf setting = some v) :
    exec (.lampSet h slot setting) s = .next (settled s (lampTaking s.setup i v h.tag (closed s).live)) := by
  rw [show exec (.lampSet h slot setting) s = execLampSet h slot setting s from rfl, execLampSet,
    manage_taken w plain fun _ => unlocked, named, value]
  rfl

theorem lampTurned_leaves (leaves : l.slots[i].leavesUnder v) :
    lampTurned c i v l = (Taking.start (l.litAs c i v)).leaving c i := by
  obtain ⟨auto, working, pending⟩ := leaves
  unfold lampTurned
  dsimp only
  refine if_pos ⟨auto, ?_⟩
  rw [Taking.start_live, Live.litAs_slot, SlotState.working_iff]
  exact ⟨working, pending⟩

theorem lampTurned_stays (stays : ¬ l.slots[i].leavesUnder v) : lampTurned c i v l = Taking.start (l.litAs c i v) := by
  unfold lampTurned
  dsimp only
  refine if_neg fun leaves => stays ?_
  rwa [Taking.start_live, Live.litAs_slot, SlotState.working_iff] at leaves

theorem lampTurned_slot : (lampTurned c i v l).live.slots[i].lamp = v
    ∧ (l.slots[i].leavesUnder v → (lampTurned c i v l).live.slots[i].state = .leaving
      ∧ (lampTurned c i v l).live.slots[i].leverPending = false)
    ∧ (¬ l.slots[i].leavesUnder v → (lampTurned c i v l).live.slots[i].state = l.slots[i].state
      ∧ (lampTurned c i v l).live.slots[i].leverPending = l.slots[i].leverPending)
    ∧ (lampTurned c i v l).live.slots[i].aspect = aspectOf v (lampTurned c i v l).live.slots[i].state := by
  by_cases leaves : l.slots[i].leavesUnder v
  · rw [lampTurned_leaves leaves, Taking.leaving_slot, Taking.start_live, Live.litAs_slot]
    exact ⟨rfl, fun _ => ⟨rfl, rfl⟩, absurd leaves, rfl⟩
  · rw [lampTurned_stays leaves, Taking.start_live, Live.litAs_slot]
    exact ⟨rfl, fun no => absurd no leaves, fun _ => ⟨rfl, rfl⟩, rfl⟩

theorem aspectOf_eq (v : LampSetting) (st : SlotState) : aspectOf v st = match v with
    | .forceOn => .steady
    | .forceOff => .off
    | .auto => if st = .leaving then .blink else if st = .released then .steady else .off := by
  cases v with
  | auto => cases st <;> rfl
  | _ => rfl

theorem litAs_orderDone (o : Order) (x : OrderOutcome) (y : Option DoneCause) :
    orderDone (l.litAs c i v) o x y = orderDone l o x y := by
  rw [orderDone, show (l.litAs c i v).hole? = l.hole? from funext fun n => by simp [Live.hole?, Live.litAs]]
  rfl

theorem Live.place_order? {b : CellBody} : (l.place c b).order? tag = l.order? tag := rfl

theorem Live.place_request? {b : CellBody} : (l.place c b).request? tag = l.request? tag := rfl

/-- What the LEAVING that a LAMP SET of AUTO brings leaves (R121). -/
theorem lampTaking_leaves (leaves : l.slots[i].leavesUnder v) :
    let u := lampTaking c i v tag l
    u.live.heads = (((l.litAs c i v).updSlot i fun z => { z with state := .leaving, leverPending := false }).syncLamp c i).heads
      ∧ (∀ o ∈ l.pool, o.slot = i → o.state = .waiting →
        u.live.order? o.tag = none ∧ u.live.request? o.tag = none
          ∧ Says u.live (orderDone l o .withdrawn (some .slotLeaving)))
      ∧ (∀ o ∈ l.pool, (∀ q ∈ l.pool, q.tag = o.tag → q.slot ≠ i ∨ q.state ≠ .waiting) → o ∈ u.live.pool)
      ∧ (let k := noticeIndex (slotSource i) .warn
        u.live.notices = l.notices.set k (some (postedEntry .leverOpen .none l.notices[k]))) := by
  intro u
  let t := Taking.start (l.litAs c i v)
  have pool : t.live.pool = l.pool := by simp [t, Live.litAs]
  have notices : t.live.notices = l.notices := by simp [t, Live.litAs]
  have turned : u = (t.leaving c i).on fun l' => l'.place c (lampAnswer tag (t.leaving c i).live.slots[i]) := by
    show lampTaking c i v tag l = _
    rw [lampTaking, lampTurned_leaves leaves]
  rw [turned]
  simp only [← pool, ← notices]
  rw [Taking.on_live, Live.place_heads, Live.place_pool, Live.place_notices]
  refine ⟨Taking.leaving_heads (t := t), fun o place own waiting => ⟨?_, ?_, ?_⟩, fun o place other => ?_, ?_⟩
  · rw [Live.place_order?]
    exact Taking.leaving_order? (t := t) place own waiting
  · rw [Live.place_request?]
    exact Taking.leaving_withdrawn (t := t) place own waiting
  · rw [← litAs_orderDone (c := c) (i := i) (v := v), Says, Live.place_bodies]
    exact List.mem_append_left _ (Taking.leaving_says (t := t) rfl place own waiting)
  · exact Taking.leaving_stands (t := t) place other
  · exact Taking.leaving_posted (t := t)

/-- Settles O46: each message by its refusals, and LAMP SET by whether AUTO finds the pending mark. -/
theorem slotMessages : Obligations.SlotMessages := by
  intro h slot setting s w is
  refine ⟨fun plain => ⟨fun r => slotClear_refuses w plain, fun i => slotClear_clears w plain,
    fun r => slotRelease_refuses w plain, fun i => slotRelease_releases w plain⟩, fun plain => ⟨fun r => lampSet_refuses w plain,
    fun i v unlocked named value => ?_⟩⟩
  intro x leaves lit
  have setting : lampOf setting = some v := by obtain ⟨rfl, rfl⟩ | ⟨rfl, rfl⟩ | ⟨rfl, rfl⟩ := value <;> rfl
  refine ⟨_, lampSet_taken w plain unlocked named setting, fun stays => ?_, lampTaking_leaves (l := (closed s).live), ?_⟩
  · rw [lampTaking, lampTurned_stays (l := (closed s).live) stays, Taking.start_live, lampAnswer]
    have slot : (Live.litAs s.setup i v (closed s).live).slots[i].lamp = v
        ∧ (Live.litAs s.setup i v (closed s).live).slots[i].leverPending = x.leverPending := by
      rw [Live.litAs_slot]
      exact ⟨rfl, rfl⟩
    rw [slot.1, slot.2]
    rfl
  · obtain ⟨lamp, left, stayed, aspect⟩ := lampTurned_slot (c := s.setup) (i := i) (v := v) (l := (closed s).live)
    refine ⟨lamp, ?_, ?_, ?_, ?_⟩
    · by_cases go : leaves
      · rw [if_pos go]; exact (left go).1
      · rw [if_neg go]; exact (stayed go).1
    · by_cases go : leaves
      · rw [if_pos go]; exact (left go).2
      · rw [if_neg go]; exact (stayed go).2
    · exact aspect.trans (aspectOf_eq _ _)
    · rw [Says, lampTaking, Taking.on_live, Live.place_bodies]
      refine List.mem_append_right _ (List.mem_singleton.2 ?_)
      rw [lampAnswer, lamp]
      rfl

end SlotMessaging

end Sys2Proof.Machine
end

section
/-! PROOFS. The guard chain, and what entering STOP leaves in flight (O50). -/

namespace Sys2Proof.Machine

open Sys2Proof.Safety

/-! ### The gate's aborts (R146) -/

section GuardAborts

variable {c : Setup} {t : Taking} {l : Live} {o : Order} {tags : List Nat} {j : SlotId}

/-- The turn of one order as STOP is entered: an order in flight and not yet aborted is aborted. -/
def guardStep (c : Setup) (t : Taking) (o : Order) : Taking := if o.abortable then t.abort c o .guard else t

theorem abortAll_eq_each : t.abortAll c .guard tags = t.each (guardStep c) tags := rfl

/-- What an abort keeps, every turn keeps. -/
theorem guardStep_rel {r : Taking → Taking → Prop} (refl : r t t) (aborts : r t (t.abort c o .guard)) :
    r t (guardStep c t o) := by
  unfold guardStep
  split
  · exact aborts
  · exact refl

theorem guardStep_keeps : Keeps (guardStep c) := fun t o =>
  guardStep_rel (r := fun t u => (u.live.pool.map Order.fixed).Sublist (t.live.pool.map Order.fixed)) (List.Sublist.refl _)
    (Taking.abort_examined c o .guard t).orders

theorem guardStep_ownOnly : OwnOnly (guardStep c) := fun t _ tag other =>
  guardStep_rel (r := fun t u => u.live.order? tag = t.live.order? tag) (t := t) rfl (Taking.abort_order?_other other)

/-- What every abort keeps, the whole keeps. -/
theorem guardAborts_rel {r : Taking → Taking → Prop} (refl : ∀ t, r t t) (trans : ∀ a b c, r a b → r b c → r a c)
    (aborts : ∀ t o, r t (t.abort c o .guard)) (tags : List Nat) (t : Taking) : r t (t.each (guardStep c) tags) :=
  Taking.each_rel (p := fun _ => True) guardStep_keeps refl trans (fun t o _ => guardStep_rel (refl t) (aborts t o))
    fun _ _ _ => trivial

theorem guardAborts_says {b : CellBody} (said : Says t.live b) : Says (t.each (guardStep c) tags).live b :=
  guardAborts_rel (r := fun t u => Says t.live b → Says u.live b) (fun _ => id) (fun _ _ _ h k => k ∘ h)
    (fun t o h => (Taking.abort_examined c o .guard t).bodies.subset h) tags t said

theorem guardAborts_notices : (t.each (guardStep c) tags).live.notices = t.live.notices :=
  guardAborts_rel (r := fun t u => u.live.notices = t.live.notices) (fun _ => rfl) (fun _ _ _ h k => k.trans h)
    (fun _ _ => Taking.abort_notices) tags t

theorem guardAborts_holdDones : (t.each (guardStep c) tags).holdDones = t.holdDones :=
  guardAborts_rel (r := fun t u => u.holdDones = t.holdDones) (fun _ => rfl) (fun _ _ _ h k => k.trans h)
    (fun _ _ => Taking.abort_holdDones) tags t

theorem guardAborts_leaving :
    (t.each (guardStep c) tags).live.slots[j].state = .leaving ↔ t.live.slots[j].state = .leaving :=
  guardAborts_rel (r := fun t u => u.live.slots[j].state = .leaving ↔ t.live.slots[j].state = .leaving) (fun _ => Iff.rfl)
    (fun _ _ _ h k => k.trans h) (fun _ _ => Taking.abort_leaving j) tags t

theorem guardAborts_cls3 (none : ∀ m ∈ t.live.heads[j].list, m.cls ≠ 3) :
    ∀ m ∈ (t.each (guardStep c) tags).live.heads[j].list, m.cls ≠ 3 :=
  guardAborts_rel (r := fun t u => (∀ m ∈ t.live.heads[j].list, m.cls ≠ 3) → ∀ m ∈ u.live.heads[j].list, m.cls ≠ 3)
    (fun _ => id) (fun _ _ _ h k => k ∘ h) (fun _ _ => Taking.abort_cls3) tags t none

/-- The gate's aborts as STOP is entered, of each order of the pool in the order of arrival. -/
def gateStopped (c : Setup) (l : Live) : Taking := (Taking.start l).abortAll c .guard (l.pool.map Order.tag)

section Turn

variable (unique : (l.pool.map Order.tag).Nodup) (place : o ∈ l.pool)
include unique place

/-- The turn of an order: the aborts before it leave its record, those after it meet other tags. -/
theorem gateStopped_turn : ∃ before after, o.tag ∉ after
    ∧ ((Taking.start l).each (guardStep c) before).live.order? o.tag = some o
    ∧ gateStopped c l = (guardStep c ((Taking.start l).each (guardStep c) before) o).each (guardStep c) after := by
  obtain ⟨before, after, -, apart, -, -, found, whole⟩ := Taking.each_turn (f := guardStep c) (t := Taking.start l)
    guardStep_keeps guardStep_ownOnly unique (List.mem_map_of_mem place) (Live.order?_of_mem unique place)
  exact ⟨before, after, apart, found, whole⟩

theorem gateStopped_grounded (grounded : o.abortable = false) : (gateStopped c l).live.order? o.tag = some o := by
  obtain ⟨before, after, apart, found, whole⟩ := gateStopped_turn (c := c) unique place
  rw [whole, Taking.each_order?_other guardStep_keeps guardStep_ownOnly apart, guardStep, if_neg (by rw [grounded]; nofun)]
  exact found

theorem gateStopped_sent (flying : o.abortable = true) (sent : o.unsent = false) :
    (gateStopped c l).live.order? o.tag = some (o.abortedBy .guard o) := by
  obtain ⟨before, after, apart, found, whole⟩ := gateStopped_turn (c := c) unique place
  rw [whole, Taking.each_order?_other guardStep_keeps guardStep_ownOnly apart, guardStep, if_pos flying,
    Taking.abort_sent sent]
  refine (Live.updOrder_order?_self (f := o.abortedBy .guard) fun _ => rfl).trans ?_
  rw [found, Option.map_some]

/-- An order whose message is unsent goes as its flag and its slot say (R47). -/
theorem gateStopped_goesBack (flying : o.abortable = true) (unsent : o.unsent = true) :
    GoesBack l o (gateStopped c l).live := by
  obtain ⟨before, after, apart, found, whole⟩ := gateStopped_turn (c := c) unique place
  have back := Taking.abort_goesBack (c := c) (cause := .guard) unsent
    (guardAborts_holdDones (c := c) (t := Taking.start l) (tags := before)) found
  have leaving : l.slots[o.slot].state = .leaving ↔
      ((Taking.start l).each (guardStep c) before).live.slots[o.slot].state = .leaving :=
    (guardAborts_leaving (t := Taking.start l)).symm
  refine goesBack_congr leaving ?_ (fun b said => ?_) back
  · rw [whole, Taking.each_order?_other guardStep_keeps guardStep_ownOnly apart, guardStep, if_pos flying]
  · rw [whole, guardStep, if_pos flying]
    exact guardAborts_says said

theorem gateStopped_cls3 (flying : o.abortable = true) (unsent : o.unsent = true) :
    ∀ m ∈ (gateStopped c l).live.heads[o.slot].list, m.cls ≠ 3 := by
  obtain ⟨before, after, apart, found, whole⟩ := gateStopped_turn (c := c) unique place
  obtain ⟨list, -⟩ := Taking.abort_takenBack (c := c) (t := (Taking.start l).each (guardStep c) before) (cause := .guard) unsent
  rw [whole, guardStep, if_pos flying]
  refine guardAborts_cls3 ?_
  rw [list]
  intro m inList
  have kept := (List.mem_filter.1 inList).2
  simp only [Bool.and_eq_true, bne_iff_ne] at kept
  exact kept.1

end Turn

theorem goesBack_waits {u : Live} {q : Order} (back : GoesBack l o u) (found : u.order? o.tag = some q) :
    q.state = .waiting := by
  obtain ⟨cancelled, withdrawn, waits⟩ := back
  cases flag : o.cancel with
  | true =>
    obtain ⟨gone, -⟩ := cancelled flag
    exact absurd (gone.symm.trans found) nofun
  | false =>
    by_cases leaving : l.slots[o.slot].state = .leaving
    · obtain ⟨gone, -⟩ := withdrawn flag leaving
      exact absurd (gone.symm.trans found) nofun
    · obtain rfl := Option.some.inj ((waits flag leaving).symm.trans found)
      rfl

theorem Order.abortable_iff : o.abortable = true ↔ o.state ≠ .waiting ∧ o.state ≠ .aborting := by
  unfold Order.abortable
  cases o.state <;> decide

/-- The gate's aborts leave no order in flight but those that are ABORTING. -/
theorem gateStopped_states (unique : (l.pool.map Order.tag).Nodup) :
    ∀ q ∈ (gateStopped c l).live.pool, q.state = .waiting ∨ q.state = .aborting := by
  intro q left
  have shrinks : ((gateStopped c l).live.pool.map Order.fixed).Sublist (l.pool.map Order.fixed) :=
    Taking.each_keeps (f := guardStep c) (t := Taking.start l) guardStep_keeps
  have tags : ((gateStopped c l).live.pool.map Order.tag).Sublist (l.pool.map Order.tag) := by
    simpa only [map_fixed_tag] using shrinks.map Prod.fst
  have found : (gateStopped c l).live.order? q.tag = some q := Live.order?_of_mem (unique.sublist tags) left
  obtain ⟨o, place, same⟩ := List.mem_map.1 (tags.subset (List.mem_map_of_mem left))
  rw [← same] at found
  cases flying : o.abortable with
  | false =>
    obtain rfl := Option.some.inj ((gateStopped_grounded (c := c) unique place flying).symm.trans found)
    have grounded := mt Order.abortable_iff.2 (Bool.eq_false_iff.1 flying)
    by_cases waiting : o.state = .waiting
    · exact .inl waiting
    · exact .inr (not_not.1 fun other => grounded ⟨waiting, other⟩)
  | true =>
    cases sent : o.unsent with
    | false =>
      obtain rfl := Option.some.inj ((gateStopped_sent (c := c) unique place flying sent).symm.trans found)
      exact .inr rfl
    | true => exact .inl (goesBack_waits (gateStopped_goesBack (c := c) unique place flying sent) found)

end GuardAborts

/-! ### The lanes' own heats (R89) -/

section LaneHeats

variable {c : Setup} {t : Taking} {i : LaneId}

/-- A heat that is not the lane's own, or that its lane has aborted. -/
def Heat.stopped (x : Heat) : Prop := x.origin = .lane → x.step = some .aborting

/-- What STOP makes of a lane's heat: nothing, the taking back of its unsent ISSUE, or its abort. -/
theorem Taking.stopHeat_ends :
    ((t.stopHeat c i).live = t.live ∧ ∀ x ∈ t.live.lanes[i].heat, x.stopped)
      ∨ ∃ h, t.live.lanes[i].heat = some h
        ∧ ((t.stopHeat c i).live =
            (((t.live.unqueue h.slot fun m => m.cls == 3).closeHeat h.slot i).updSlot h.slot fun x =>
              { x with work := .idle, timer := none, state := if x.state = .busy then .ready else x.state }).unqueue h.slot
              HeadMsg.isAbort
          ∨ (t.stopHeat c i).live =
            { t.live with
              lanes := (t.live.editHeat h.slot i fun g => { g with step := some .aborting }).lanes
              heads := (t.live.queue c h.slot (.abort 0)).heads
              slots := (t.live.startStage h.slot .abort (c.acted Timing.acceptLimit)).slots }) := by
  unfold Taking.stopHeat
  cases open_ : t.live.lanes[i].heat with
  | none => exact .inl ⟨rfl, nofun⟩
  | some h =>
    dsimp only
    split
    next stops =>
      refine .inl ⟨rfl, fun x same lane => ?_⟩
      obtain rfl := Option.mem_some.1 same
      exact stops.resolve_left (by rw [lane]; exact nofun)
    next =>
      refine .inr ⟨h, rfl, ?_⟩
      split
      next => exact .inl (Taking.workEnds_live _ _)
      next =>
        right
        rw [Taking.on_live, Live.queue_first rfl]
        have heads : ((t.live.editHeat h.slot i fun g => { g with step := some .aborting }).queue c h.slot (.abort 0)).heads =
            (t.live.queue c h.slot (.abort 0)).heads := Live.queue_heads_congr rfl
        rw [heads]
        rfl

theorem Taking.stopHeat_pool : (t.stopHeat c i).live.pool = t.live.pool := by
  obtain ⟨same, -⟩ | ⟨h, -, closed | aborted⟩ := Taking.stopHeat_ends (c := c) (t := t) (i := i)
  · rw [same]
  · rw [closed]
    rfl
  · rw [aborted]

theorem Taking.stopHeat_heat : ∀ x ∈ (t.stopHeat c i).live.lanes[i].heat, x.stopped := by
  obtain ⟨same, stopped⟩ | ⟨h, open_, closed | aborted⟩ := Taking.stopHeat_ends (c := c) (t := t) (i := i)
  · rw [same]
    exact stopped
  · rw [closed, Live.unqueue_lanes, Live.updSlot_lanes, Live.closeHeat_lane, if_pos rfl, Live.unqueue_lanes]
    dsimp only [Lane.heatOff]
    rw [open_]
    simp
  · rw [aborted]
    dsimp only
    rw [Live.editHeat_lanes, vmod_get_self]
    dsimp only
    rw [open_, Option.map_some, if_pos rfl]
    intro x same _
    obtain rfl := Option.mem_some.1 same
    rfl

theorem Taking.stopHeat_lane_other {j : LaneId} (other : j ≠ i) : (t.stopHeat c i).live.lanes[j] = t.live.lanes[j] := by
  obtain ⟨same, -⟩ | ⟨h, -, closed | aborted⟩ := Taking.stopHeat_ends (c := c) (t := t) (i := i)
  · rw [same]
  · rw [closed, Live.unqueue_lanes, Live.updSlot_lanes, Live.closeHeat_lane, if_neg other, Live.unqueue_lanes]
  · rw [aborted]
    exact vmod_get_ne _ _ other

theorem Live.unqueue_mem {l : Live} {s j : SlotId} {p : HeadMsg → Bool} {m : HeadMsg}
    (inList : m ∈ (l.unqueue s p).heads[j].list) : m ∈ l.heads[j].list := by
  rw [Live.unqueue_heads, vmod_get] at inList
  split at inList
  next same =>
    rw [same]
    exact (List.mem_filter.1 inList).1
  next => exact inList

theorem Live.queue_mem {l : Live} {s j : SlotId} {x m : HeadMsg} (inList : m ∈ (l.queue c s x).heads[j].list) :
    m ∈ l.heads[j].list ∨ m = x := by
  by_cases own : j = s
  · subst own
    exact Live.queue_list inList
  · unfold Live.queue at inList
    rw [Live.beginHead_heads_ne own, Live.updHead_heads, vmod_get_ne _ _ own] at inList
    exact .inl inList

theorem Taking.stopHeat_cls3 {j : SlotId} (none : ∀ m ∈ t.live.heads[j].list, m.cls ≠ 3) :
    ∀ m ∈ (t.stopHeat c i).live.heads[j].list, m.cls ≠ 3 := by
  obtain ⟨same, -⟩ | ⟨h, -, closed | aborted⟩ := Taking.stopHeat_ends (c := c) (t := t) (i := i)
  · rw [same]
    exact none
  · rw [closed]
    exact fun m inList => none m (Live.unqueue_mem (Live.unqueue_mem inList))
  · rw [aborted]
    intro m inList
    obtain old | rfl := Live.queue_mem inList
    · exact none m old
    · exact nofun

end LaneHeats

/-! ### Entering STOP (R146) -/

section EnterStop

variable {c : Setup} {l : Live} {o : Order}

/-- STOP as it is entered, up to the examination that follows. -/
def stopTaking (c : Setup) (l : Live) : Taking :=
  (((gateStopped c l).stopHeat c 0).stopHeat c 1).on (Live.post 0 .guardOpen .none)

theorem enterStop_eq : l.enterStop c = (stopTaking c l).finish c := rfl

theorem stopTaking_pool : (stopTaking c l).live.pool = (gateStopped c l).live.pool := by
  rw [stopTaking, Taking.on_live, Live.post_pool, Taking.stopHeat_pool, Taking.stopHeat_pool]

theorem stopTaking_order? (tag : Nat) : (stopTaking c l).live.order? tag = (gateStopped c l).live.order? tag :=
  Live.order?_congr stopTaking_pool

theorem stopTaking_notices : (stopTaking c l).live.notices = (l.post 0 .guardOpen .none).notices := by
  rw [stopTaking, Taking.on_live, Live.post_notices, (Taking.stopHeat_examined c 1 _).notices,
    (Taking.stopHeat_examined c 0 _).notices, gateStopped, abortAll_eq_each, guardAborts_notices]
  rfl

theorem stopTaking_heat (i : LaneId) : ∀ x ∈ (stopTaking c l).live.lanes[i].heat, x.stopped := by
  rw [stopTaking, Taking.on_live, Live.post_lanes]
  obtain rfl | rfl := laneId_cases i
  · rw [Taking.stopHeat_lane_other (by decide)]
    exact Taking.stopHeat_heat
  · exact Taking.stopHeat_heat

theorem stopTaking_says {b : CellBody} (said : Says (gateStopped c l).live b) : Says (stopTaking c l).live b := by
  rw [stopTaking, Says, Taking.on_live, Live.post_cell]
  exact ((Taking.stopHeat_examined c 0 _).bodies.trans (Taking.stopHeat_examined c 1 _).bodies).subset said

theorem stopTaking_cls3 {j : SlotId} (none : ∀ m ∈ (gateStopped c l).live.heads[j].list, m.cls ≠ 3) :
    ∀ m ∈ (stopTaking c l).live.heads[j].list, m.cls ≠ 3 := by
  rw [stopTaking, Taking.on_live, Live.post_heads]
  exact Taking.stopHeat_cls3 (Taking.stopHeat_cls3 none)

/-- What entering STOP leaves of the pool, the lanes' heats and the notices (R146). -/
theorem stopTaking_leaves (unique : (l.pool.map Order.tag).Nodup) :
    let u := stopTaking c l
    (∀ o ∈ u.live.pool, o.state = .waiting ∨ o.state = .aborting)
      ∧ (∀ o ∈ l.pool, o.state ≠ .waiting → o.unsent = false → ∃ o', u.live.order? o.tag = some o'
          ∧ o'.state = .aborting ∧ (o.state ≠ .aborting → o'.cause = some .guard))
      ∧ (∀ o ∈ l.pool, o.state ≠ .waiting → o.state ≠ .aborting → o.unsent = true →
          GoesBack l o u.live ∧ ∀ m ∈ u.live.heads[o.slot].list, m.cls ≠ 3)
      ∧ (∀ i : LaneId, ∀ x ∈ u.live.lanes[i].heat, x.origin = .lane → x.step = some .aborting)
      ∧ u.live.notices = (l.post 0 .guardOpen .none).notices := by
  refine ⟨stopTaking_pool ▸ gateStopped_states unique, fun o place flies sent => ?_, fun o place flies fresh unsent => ⟨?_, ?_⟩,
    stopTaking_heat, stopTaking_notices⟩
  · rw [stopTaking_order?]
    by_cases aborting : o.state = .aborting
    · have grounded : o.abortable = false := Bool.eq_false_iff.2 fun flying => (Order.abortable_iff.1 flying).2 aborting
      exact ⟨o, gateStopped_grounded unique place grounded, aborting, absurd aborting⟩
    · exact ⟨_, gateStopped_sent unique place (Order.abortable_iff.2 ⟨flies, aborting⟩) sent, rfl, fun _ => rfl⟩
  · exact goesBack_congr Iff.rfl (stopTaking_order? _) (fun _ => stopTaking_says)
      (gateStopped_goesBack unique place (Order.abortable_iff.2 ⟨flies, fresh⟩) unsent)
  · exact stopTaking_cls3 (gateStopped_cls3 unique place (Order.abortable_iff.2 ⟨flies, fresh⟩) unsent)

end EnterStop

/-! ### The guard state (R149, R150) -/

section GuardStates

variable {s : State} {ch : Channel} {v : Level}

theorem guardAfter_eq (before : GuardState) (ch1 ch2 : Level) : guardAfter before ch1 ch2 =
    if before = .latched then (if ch1 = .opened ∧ ch2 = .opened then .opened else .latched)
    else if ch1 = .closed ∧ ch2 = .closed then .closed else .opened := by
  cases before <;> cases ch1 <;> cases ch2 <;> rfl

theorem GuardPins.change_eq (p : GuardPins) : p.change ch v =
    { ch1 := if ch = .one then v else p.ch1, ch2 := if ch = .two then v else p.ch2 } := by
  cases ch <;> rfl

theorem Guard.level_eq_iff (g : Guard) : g.level ch = v ↔ (ch = .one ∧ v = g.ch1) ∨ (ch = .two ∧ v = g.ch2) := by
  cases ch <;> simp [Guard.level, eq_comm]

/-- A channel event leaves the record of the table of the guard state and of the discrepancy timer. -/
theorem Guard.change_eq (g : Guard) :
    let ch1 := if ch = .one then v else g.ch1
    let ch2 := if ch = .two then v else g.ch2
    let state : GuardState :=
      if g.state = .latched then (if ch1 = .opened ∧ ch2 = .opened then .opened else .latched)
      else if ch1 = .closed ∧ ch2 = .closed then .closed else .opened
    g.change ch v = { ch1, ch2, state, timer := if ch1 ≠ ch2 ∧ state ≠ .latched then some 50 else none } := by
  rw [Guard.change]
  simp only [guardAfter_eq]
  rfl

theorem channel_unheard (idle : s.setup.resetHeld = true ∨ s.setup.guard.level ch = v) :
    exec (.guardChannelChange ch v) s =
      .next { s with setup := { s.setup with pins := s.setup.pins.change ch v } } := by
  show execGuardChannelChange ch v s = _
  unfold execGuardChannelChange
  dsimp only
  by_cases held : s.setup.resetHeld = true
  · rw [if_pos held]
  · rw [if_neg held, if_pos (idle.resolve_left held)]

theorem channel_heard (free : s.setup.resetHeld = false) (moved : s.setup.guard.level ch ≠ v) :
    exec (.guardChannelChange ch v) s = .next (({ s with setup := { s.setup with
      pins := s.setup.pins.change ch v, guard := s.setup.guard.change ch v } } : State).guardMoved s.setup.guard.state
        (s.setup.guard.change ch v).state) := by
  show execGuardChannelChange ch v s = _
  unfold execGuardChannelChange
  exact (if_neg (by rw [free]; nofun)).trans (if_neg moved)

theorem State.guardMoved_none {before after : GuardState} (opens : ¬ (before = .closed ∧ after = .opened))
    (closes : ¬ (before = .opened ∧ after = .closed)) : s.guardMoved before after = s := by
  unfold State.guardMoved
  split
  · exact absurd ⟨rfl, rfl⟩ opens
  · exact absurd ⟨rfl, rfl⟩ closes
  · rfl

theorem discrepancy_idle (idle : s.setup.guard.timer = none) : exec .discrepancyExpiry s = .next s := by
  show execDiscrepancyExpiry s = _
  unfold execDiscrepancyExpiry event
  dsimp only
  rw [idle]
  exact ite_self _

theorem discrepancy_latches {n : Nat} (free : s.setup.resetHeld = false) (running : s.setup.guard.timer = some n)
    (open_ : s.setup.guard.state = .opened) (differ : s.setup.guard.ch1 ≠ s.setup.guard.ch2) :
    let e := s.elapse n
    exec .discrepancyExpiry s = .next { e with
      setup := { e.setup with guard := { s.setup.guard with state := .latched, timer := none } }
      live := e.live.post 0 .guardDiscrepancy (.channel (if s.setup.guard.ch1 = .opened then .one else .two)) } := by
  show execDiscrepancyExpiry s = _
  rw [execDiscrepancyExpiry, event_taken free, running]
  exact congrArg _ (if_pos ⟨open_, differ⟩)

/-- Settles O50: the channel event by what it makes of the guard state, STOP entered by its aborts one after another, and
the latch. -/
theorem guardChain : Obligations.GuardChain := by
  refine ⟨fun ch v s => ?_, fun s => discrepancy_idle, fun n s => discrepancy_latches⟩
  intro pins g ch1 ch2 state guard s'
  have pins_eq : s.setup.pins.change ch v = pins := GuardPins.change_eq _
  have guard_eq : g.change ch v = guard := Guard.change_eq _
  refine ⟨fun idle => ?_, fun free moved => ?_⟩
  · rw [channel_unheard (idle.imp_right g.level_eq_iff.2), pins_eq]
  · rw [channel_heard free (mt g.level_eq_iff.1 moved), pins_eq, show s.setup.guard.change ch v = guard from guard_eq]
    have opens (was : g.state = .closed) (is : state = .opened) :
        s'.guardMoved s.setup.guard.state guard.state = s'.guardMoved .closed .opened :=
      congrArg₂ (fun a b => s'.guardMoved a b) was is
    refine ⟨fun was is stop => ?_, fun was is other unique => ⟨stopTaking { s'.setup with mode := .stop } s.live, ?_,
      stopTaking_leaves unique⟩, fun was is => ?_, fun opens closes => congrArg _ (State.guardMoved_none opens closes)⟩
    · exact congrArg _ ((opens was is).trans (if_pos stop))
    · exact congrArg _ ((opens was is).trans (if_neg other))
    · exact congrArg _ (congrArg₂ (fun a b => s'.guardMoved a b) was is)

end GuardStates

end Sys2Proof.Machine
end

section
/-! PROOFS. Spans and sweeps, the weighing of a claim request and its grant, rail examinations, withdrawn claims (O32). -/

namespace Sys2Proof.Machine

open Sys2Proof.Safety

/-! ### Runs of segments (R57, R60) -/

section Runs

variable {a b g : Run} {c t seg : Nat}

theorem Run.contains_iff : a.contains seg = true ↔ a.first ≤ seg ∧ seg ≤ a.last := by simp [Run.contains]

theorem Run.overlaps_iff : a.overlaps b = true ↔ a.first ≤ b.last ∧ b.first ≤ a.last := by simp [Run.overlaps]

theorem Run.inside_iff : a.inside b = true ↔ b.first ≤ a.first ∧ a.last ≤ b.last := by simp [Run.inside]

/-- The span of a centre is the centre and its neighbours on the rail (R57). -/
theorem span_contains_iff (centre : c ≤ 15) :
    (span c).contains seg = true ↔ seg ≤ 15 ∧ (seg + 1 = c ∨ seg = c ∨ seg = c + 1) := by
  simp only [Run.contains_iff, span]
  omega

/-- The sweep is the hull of the holding and the target's span (R60). -/
theorem sweepOf_eq (onRail : g.last ≤ 15) :
    sweepOf g t = { first := min g.first (span t).first, last := max g.last (span t).last } := by
  unfold sweepOf span
  simp only [Run.mk.injEq, true_and]
  omega

theorem Run.inside_hull : a.inside { first := min a.first b.first, last := max a.last b.last } = true
    ∧ b.inside { first := min a.first b.first, last := max a.last b.last } = true := by
  simp only [Run.inside_iff]
  omega

end Runs

/-! ### One request weighed, and its grant (R64, R65) -/

section Weighing

variable {c : Setup} {r : Rail} {l : Live} {fences : List Run} {q : Request} {slot : SlotId} {run : Run}

theorem Live.blocked_eq_false_iff : l.blocked slot r run = false ↔
    ∀ x : SlotId, x ≠ slot → ∀ k, l.holdings[x] = some k → k.rail = r →
      ¬ (k.run.first ≤ run.last ∧ run.first ≤ k.run.last) := by
  unfold Live.blocked
  simp only [← Run.overlaps_iff]
  rw [List.any_eq_false]
  refine ⟨fun none x other k holds onRail meets => none x (mem_allSlots x) ?_, fun clear x _ hit => ?_⟩
  · simp [other, holds, onRail, meets]
  · obtain ⟨other, held⟩ := Bool.and_eq_true_iff.1 hit
    cases holds : l.holdings[x] with
    | none => simp [holds] at held
    | some k =>
      obtain ⟨onRail, meets⟩ : k.rail = r ∧ k.run.overlaps run = true := by simpa [holds] using held
      exact clear x (by simpa using other) k holds onRail meets

/-- Nothing stands in the way of a request: no other slot's holding on its rail, and no older URGENT request's fence (R64). -/
def Request.Free (r : Rail) (l : Live) (fences : List Run) (q : Request) : Prop :=
  (∀ x : SlotId, x ≠ q.slot → ∀ k, l.holdings[x] = some k → k.rail = r →
      ¬ (k.run.first ≤ q.sweep.last ∧ q.sweep.first ≤ k.run.last))
    ∧ ∀ f ∈ fences, ¬ (q.sweep.first ≤ f.last ∧ f.first ≤ q.sweep.last)

theorem Request.free_iff :
    (!l.blocked q.slot r q.sweep && !fences.any q.sweep.overlaps) = true ↔ q.Free r l fences := by
  rw [Bool.and_eq_true, Bool.not_eq_true', Bool.not_eq_true', Live.blocked_eq_false_iff, List.any_eq_false]
  simp only [Run.overlaps_iff]
  exact Iff.rfl

theorem weighRequest_free {g : Holding} (holds : l.holdings[q.slot] = some g) (free : q.Free r l fences) :
    weighRequest c r (l, fences) q = (l.grant c r q g.run, fences) := by
  unfold weighRequest
  dsimp only
  rw [holds]
  exact if_pos (Request.free_iff.2 free)

theorem weighRequest_stopped {g : Holding} (holds : l.holdings[q.slot] = some g) (stopped : ¬ q.Free r l fences) :
    weighRequest c r (l, fences) q = (l, if q.urgent = true then fences ++ [q.sweep] else fences) := by
  unfold weighRequest
  dsimp only
  rw [holds]
  exact if_neg (mt Request.free_iff.1 stopped)

/-- A grant as one change of the live state, and the TRAVEL queued on it (R65, R43). -/
theorem Live.grant_eq (c : Setup) (r : Rail) (q : Request) (former : Run) (l : Live) :
    l.grant c r q former = ({ l with
      requestsA := if r = .a then l.requestsA.filter (fun x => x.tag != q.tag) else l.requestsA
      requestsB := if r = .b then l.requestsB.filter (fun x => x.tag != q.tag) else l.requestsB
      holdings := l.holdings.set q.slot (some { rail := r, run := q.sweep })
      travels := l.travels.set q.slot (some { tag := q.tag, target := q.target, sweep := q.sweep, former })
      pool := l.pool.map fun o => if o.tag = q.tag then
        { o with state := .travelling, wait := none, travelMark := some .unsent } else o
      slots := l.slots.set q.slot { l.slots[q.slot] with
        state := .busy, work := .order q.tag
        timer := some { stage := .travel, left := c.acted Timing.travelLimit } } } : Live).queue c q.slot
      (.travel q.tag q.target) := by
  unfold Live.grant Live.startStage Live.updSlot
  dsimp only
  rw [vmod_vmod]
  cases r <;> rfl

end Weighing

/-! ### Rail examinations and withdrawn claims (R61, R63) -/

section Examinations

theorem Setup.progresses_iff {c : Setup} : c.progresses = true ↔ c.mode = .run ∨ c.mode = .standby := by
  simp [Setup.progresses]

/-- A rail is examined when it is due in RUN or STANDBY (R63). -/
theorem settled_rail_eq (c : Setup) (due : Bool) (r : Rail) (l : Live) :
    (if (due && c.progresses) = true then l.examineRail c r else l) =
      if due = true ∧ (c.mode = .run ∨ c.mode = .standby) then l.examineRail c r else l := by
  simp only [Bool.and_eq_true, Setup.progresses_iff]

end Examinations

/-- Settles O32: the arithmetic of runs, a request by whether it is free, and the rest by what each operation says. -/
theorem railGrant : Obligations.RailGrant := by
  refine ⟨fun c seg centre => span_contains_iff centre, fun g t _ onRail _ => ?_, fun c r l fences q g holds => ?_,
    fun c l => ⟨rfl, rfl⟩, fun c t => ?_, fun t tag => rfl⟩
  · rw [sweepOf_eq onRail]
    exact ⟨rfl, rfl, Run.inside_hull⟩
  · exact ⟨fun free => by rw [weighRequest_free holds free, Live.grant_eq], weighRequest_stopped holds⟩
  · unfold Taking.settleRails
    simp only [settled_rail_eq]

end Sys2Proof.Machine
end

section
/-! PROOFS. ARRIVED, set aside and taken good (O33). -/

namespace Sys2Proof.Machine

open Sys2Proof.Safety

/-! ### A good arrival, before its order is settled (R67, R68) -/

section Narrowing

variable {t : Taking} {slot : SlotId} {run : Run} {g : Holding}

theorem Taking.narrow_live (holds : t.live.holdings[slot] = some g) : (t.narrow slot run).live = { t.live with
    holdings := t.live.holdings.set slot (some { rail := g.rail, run }), travels := t.live.travels.set slot none } := by
  unfold Taking.narrow
  rw [holds]
  dsimp only
  split
  · rfl
  · rw [Taking.wakeRail_live]
    rfl

@[simp] theorem Taking.narrow_holdDones : (t.narrow slot run).holdDones = t.holdDones := by
  unfold Taking.narrow
  split
  · rfl
  · dsimp only
    split
    · rfl
    · rw [Taking.wakeRail_holdDones]
      rfl

/-- The holding narrowed, the travel closed and the slot's work ended, the examination of R35 due. -/
def Taking.atCentre (slot : SlotId) (centre : Nat) (t : Taking) : Taking :=
  ((t.narrow slot (span centre)).workEnds slot).wakeGate

variable {centre : Nat}

theorem Taking.atCentre_live (holds : t.live.holdings[slot] = some g) :
    (t.atCentre slot centre).live = (({ t.live with
        holdings := t.live.holdings.set slot (some { rail := g.rail, run := span centre })
        travels := t.live.travels.set slot none } : Live).updSlot slot fun x => { x with
      work := .idle, timer := none, state := if x.state = .busy then .ready else x.state }).unqueue slot HeadMsg.isAbort := by
  rw [Taking.atCentre, Taking.wakeGate_live, Taking.workEnds_live, Taking.narrow_live holds]

theorem Taking.atCentre_holdDones : (t.atCentre slot centre).holdDones = t.holdDones :=
  (Taking.workEnds_holdDones ..).trans Taking.narrow_holdDones

theorem Taking.atCentre_pool (holds : t.live.holdings[slot] = some g) :
    (t.atCentre slot centre).live.pool = t.live.pool := by
  rw [Taking.atCentre_live holds]
  rfl

theorem Taking.atCentre_leaving (holds : t.live.holdings[slot] = some g) :
    (t.atCentre slot centre).live.slots[slot].state = .leaving ↔ t.live.slots[slot].state = .leaving := by
  rw [Taking.atCentre, Taking.wakeGate_live, Taking.workEnds_leaving, Taking.narrow_live holds]

theorem Taking.atCentre_holes (holds : t.live.holdings[slot] = some g) :
    (t.atCentre slot centre).live.holes = t.live.holes := by
  rw [Taking.atCentre_live holds]
  rfl

end Narrowing

/-! ### What becomes of the order (R67, R68) -/

section Arrival

variable {c : Setup} {slot : SlotId} {v : Travel} {o : Order} {centre : Nat} {t : Taking} {s : State} {hs tag : Nat}
  {g : Holding}

theorem Taking.arrive_cancelled (aborting : o.state ≠ .travelling) (flag : o.cancel = true) :
    t.arrive c slot v o centre = (t.atCentre slot centre).leave c o .cancelled none none := if_pos ⟨aborting, flag⟩

/-- An arrival by which the order has not been CANCELLED. -/
theorem Taking.arrive_kept (kept : o.state = .travelling ∨ o.cancel = false) :
    t.arrive c slot v o centre =
      if (t.atCentre slot centre).live.slots[slot].state = .leaving then
        if o.kind = .park ∧ centre = v.target then (t.atCentre slot centre).leave c o .completed none none
        else (t.atCentre slot centre).withdraw c o .slotLeaving
      else (t.atCentre slot centre).on (Live.updOrder o.tag Order.requeued) :=
  if_neg fun ⟨aborting, flag⟩ => kept.elim aborting fun unflagged => by rw [unflagged] at flag; cases flag

/-- Every end of an arrival: the order leaves, or it waits again. -/
theorem Taking.arrive_ends {P : Taking → Prop} (leaves : ∀ x y, P ((t.atCentre slot centre).leave c o x y none))
    (requeues : P ((t.atCentre slot centre).on (Live.updOrder o.tag Order.requeued))) : P (t.arrive c slot v o centre) := by
  by_cases cancelled : o.state ≠ .travelling ∧ o.cancel = true
  · rw [Taking.arrive_cancelled cancelled.1 cancelled.2]
    exact leaves _ _
  · rw [Taking.arrive_kept (by simpa [imp_iff_not_or] using cancelled)]
    split
    · split
      · exact leaves _ _
      · exact leaves _ _
    · exact requeues

/-- Settling the order changes of the live state the orders, their claims and the messages for the cell alone. -/
theorem Taking.arrive_works : (t.arrive c slot v o centre).live.works = (t.atCentre slot centre).live.works :=
  Taking.arrive_ends (P := fun u => u.live.works = (t.atCentre slot centre).live.works) (fun _ _ => by simp [Live.works]) rfl

theorem Taking.arrive_gateDue : (t.arrive c slot v o centre).gateDue = true :=
  Taking.arrive_ends (P := fun u => u.gateDue = true) (fun _ _ => Taking.leave_gateDue ..) rfl

/-- The order leaves at the arrival, with the ORDER DONE of its end. -/
theorem Taking.atCentre_leaves {l : Live} (holds : t.live.holdings[slot] = some g) (holes : t.live.holes = l.holes)
    (placed : t.holdDones = false) {x : OrderOutcome} (y : Option DoneCause) (unfinished : x ≠ .completed) :
    let u := ((t.atCentre slot centre).leave c o x y none).live
    u.order? o.tag = none ∧ Says u (orderDone l o x y) := by
  have said := Taking.leave_says (c := c) (o := o) (t := t.atCentre slot centre)
    (Taking.atCentre_holdDones.trans placed) x y none
  rw [orderDoneOf_congr _ _ _ _ ((Taking.atCentre_holes holds).trans holes), orderDone_eq unfinished] at said
  exact ⟨Taking.leave_order? .., said⟩

/-! ### The report (R66) -/

/-- The order whose ARRIVED is expected, by the slot's travel and the order's record (R66). -/
theorem expectedTravel_eq_some {l : Live} : l.expectedTravel slot tag = some (v, o) ↔
    l.travels[slot] = some v ∧ l.orderOf? slot tag = some o ∧ v.tag = tag
      ∧ (o.state = .travelling ∨ (o.state = .aborting ∧ o.step = some .travel)) ∧ o.travelMark = some .sent := by
  unfold Live.expectedTravel
  split
  case h_1 w p travel found =>
    rw [travel, found]
    split
    case isTrue awaited =>
      simp only [Option.some.injEq, Prod.mk.injEq]
      exact ⟨fun ⟨a, b⟩ => ⟨a, b, a ▸ b ▸ awaited⟩, fun ⟨a, b, _⟩ => ⟨a, b⟩⟩
    case isFalse other =>
      refine ⟨nofun, fun ⟨a, b, awaited⟩ => absurd ?_ other⟩
      rw [Option.some.inj a, Option.some.inj b]
      exact awaited
  case h_2 missing => exact ⟨nofun, fun ⟨travel, found, _⟩ => absurd found (missing v o travel)⟩

theorem framed_expectedTravel : (framed s slot hs).expectedTravel slot tag = s.live.expectedTravel slot tag := by
  unfold Live.expectedTravel
  rw [framed_orderOf?, framed_travels]

theorem arrived_unexpected (r : Reports s slot) (none_ : s.live.expectedTravel slot tag = none) :
    exec (.arrived slot hs tag centre) s = .next (setAside s slot hs) := by
  rw [show exec (.arrived slot hs tag centre) s = execArrived slot hs tag centre s from rfl, execArrived, r.taken]
  dsimp only
  rw [framed_expectedTravel, none_]
  rfl

theorem arrived_good (r : Reports s slot) (awaited : s.live.expectedTravel slot tag = some (v, o))
    (good : goodArrival v o centre = true) :
    exec (.arrived slot hs tag centre) s = .next
      (settled s ((Taking.start (framed s slot hs)).arrive s.setup slot v o centre)) := by
  rw [show exec (.arrived slot hs tag centre) s = execArrived slot hs tag centre s from rfl, execArrived, r.taken]
  dsimp only
  rw [framed_expectedTravel, awaited]
  exact congrArg Host.Outcome.next (if_pos good)

/-- What the arrival leaves of the slot, whatever becomes of the order (R67, R134, R175). -/
theorem arrived_works (holds : s.live.holdings[slot] = some g) :
    let u := ((Taking.start (framed s slot hs)).arrive c slot v o centre).live
    u.holdings[slot] = some { rail := g.rail, run := span centre } ∧ u.travels[slot] = none ∧ WorkOver s.live slot u
      ∧ u.holes = s.live.holes ∧ u.unitsInUse = s.live.unitsInUse ∧ u.notices = s.live.notices := by
  have holds' : (Taking.start (framed s slot hs)).live.holdings[slot] = some g := by
    rw [Taking.start_live, alike_framed.holdings, holds]
  have narrowed := Taking.narrow_live (run := span centre) holds'
  have ended : WorkOver s.live slot ((Taking.start (framed s slot hs)).atCentre slot centre).live :=
    workEnds_over (by rw [narrowed]; rfl) (by rw [narrowed]; exact framed_slots)
  have live := Taking.atCentre_live (centre := centre) holds'
  have works := Taking.arrive_works (c := c) (v := v) (o := o) (slot := slot) (centre := centre)
    (t := Taking.start (framed s slot hs))
  simp only [Live.works, Live.Works.mk.injEq] at works
  obtain ⟨heads, slots, holes, units, -, -, holdings, travels, notices⟩ := works
  dsimp only
  refine ⟨?_, ?_, workOver_congr heads slots ended, ?_, ?_, ?_⟩
  · rw [holdings, live]
    exact (vset_get ..).trans (if_pos rfl)
  · rw [travels, live]
    exact (vset_get ..).trans (if_pos rfl)
  · rw [holes, live]
    exact alike_framed.holes
  · rw [units, live]
    exact framed_units
  · rw [notices, live]
    exact framed_notices

end Arrival

/-- Settles O33: an ARRIVED by whether its travel is expected, and a good one by its holding, its slot and its order. -/
theorem arrivals : Obligations.Arrivals := by
  refine ⟨fun slot hs tag centre s r stray => arrived_unexpected r ?_,
    fun slot hs tag centre v o g s r travel named found mark holds unique good => ?_⟩
  · refine Option.eq_none_iff_forall_ne_some.2 fun ⟨v, o⟩ awaited => ?_
    obtain ⟨travel, found, named, state, mark⟩ := expectedTravel_eq_some.1 awaited
    exact stray v o travel named found mark state
  · have awaited : s.live.expectedTravel slot tag = some (v, o) :=
      expectedTravel_eq_some.2 ⟨travel, found, named, good.imp And.left fun h => ⟨h.1, h.2.1⟩, mark⟩
    have arrives : goodArrival v o centre = true := by
      unfold goodArrival
      obtain ⟨state, target⟩ | ⟨state, -, low, inside⟩ := good
      · simp [state, target]
      · simp [state, low, inside]
    obtain ⟨inPool, rfl, mine⟩ := Live.orderOf?_spec found
    have holds' : (Taking.start (framed s slot hs)).live.holdings[slot] = some g := by
      rw [Taking.start_live, alike_framed.holdings, holds]
    have leaving := Taking.atCentre_leaving (centre := centre) holds'
    rw [framed_slot] at leaving
    obtain ⟨holding, travelled, ended, holes, units, notices⟩ :=
      arrived_works (c := s.setup) (v := v) (o := o) (centre := centre) (hs := hs) holds
    refine ⟨_, arrived_good r awaited arrives, Taking.arrive_gateDue, holding, travelled, ended, holes, units, notices,
      fun aborting flag => ?_, fun kept gone => ⟨fun parked => ?_, fun other => ?_⟩, fun kept stays => ?_⟩
    · rw [Taking.arrive_cancelled (by rw [aborting]; nofun) flag]
      exact Taking.atCentre_leaves holds' alike_framed.holes rfl none nofun
    · rw [Taking.arrive_kept kept, if_pos (leaving.2 gone), if_pos parked]
      obtain ⟨left, d, said, own, -, -, outcome, cause, -⟩ := Taking.leave_tells (c := s.setup) (o := o)
        (t := (Taking.start (framed s slot hs)).atCentre slot centre) Taking.atCentre_holdDones .completed none none
      exact ⟨left, d, said, own, outcome, cause⟩
    · rw [Taking.arrive_kept kept, if_pos (leaving.2 gone), if_neg other]
      exact Taking.atCentre_leaves holds' alike_framed.holes rfl _ nofun
    · rw [Taking.arrive_kept kept, if_neg (mt leaving.1 stays), Taking.on_live,
        Live.updOrder_order?_self (f := Order.requeued) fun _ => rfl,
        Live.order?_congr ((Taking.atCentre_pool holds').trans framed_pool), Live.order?_of_mem unique inPool]
      rfl

end Sys2Proof.Machine
end

section
/-! PROOFS. The passing of time, what is due of itself, and what overruns without a fault (O48). -/

namespace Sys2Proof.Machine

open Sys2Proof.Safety

/-! ### The passing of time (R62, R82, R86, R132) -/

section Time

variable {n : Nat} {s : State}

theorem elapse_slot (j : SlotId) : (s.elapse n).live.slots[j] = { s.live.slots[j] with
    timer := s.live.slots[j].timer.map fun g => { g with left := g.left - n } } := vmap_get _ _ _

theorem elapse_lane (i : LaneId) : (s.elapse n).live.lanes[i] = { s.live.lanes[i] with
    cadence := s.live.lanes[i].cadence.map fun k => k - n } := vmap_get _ _ _

/-- The claim clocks count in RUN and STANDBY alone (R62). -/
theorem elapse_requests (r : Rail) : (s.elapse n).live.requests r =
    if s.setup.mode = .run ∨ s.setup.mode = .standby then
      (s.live.requests r).map fun q => { q with waited := q.waited + n }
    else s.live.requests r := by
  have aged : (s.elapse n).live.requests r =
      (s.live.requests r).map fun q => if s.setup.progresses then q.age n else q := by cases r <;> rfl
  rw [aged]
  simp only [← Setup.progresses_iff]
  by_cases counts : s.setup.progresses = true
  · simp only [counts, if_true, Request.age]
  · simp only [counts, if_false, Bool.false_eq_true, List.map_id']

/-- A rivet whose heat has ended ages with the clock (R82). -/
theorem Rivet.left_add {r : Rivet} {now : Nat} (ended : r.heatEnd ≤ now) : r.left (now + n) = r.left now - n := by
  unfold Rivet.left Rivet.age
  omega

end Time

/-! ### What is due of itself (log entry 1) -/

section Due

variable {α β : Type} {c : Setup} {s : State} {i : Instr} {t : Option Nat}

theorem firstOf_some {l : List α} {f : α → Option β} {b : β} (e : firstOf l f = some b) : ∃ a ∈ l, f a = some b :=
  List.exists_of_findSome?_eq_some e

theorem firstOf_eq_none {l : List α} {f : α → Option β} : firstOf l f = none ↔ ∀ a ∈ l, f a = none :=
  List.findSome?_eq_none_iff

theorem ranDown_some {e : Instr} (h : ranDown t e = some i) : i = e ∧ t = some 0 := by
  unfold ranDown at h
  split at h
  case isTrue out => exact ⟨(Option.some.inj h).symm, out⟩
  case isFalse => cases h

theorem ranDown_eq_none {e : Instr} : ranDown t e = none ↔ t ≠ some 0 := by
  unfold ranDown
  split <;> simp_all

theorem preloadStep_some (h : c.preloadStep = some i) : ∃ e, c.engine = some e ∧
    ((i = .preloadHeaderRead ∧ e.phase = .header ∧ c.store.writing = none)
      ∨ ∃ at_ left position crc want, e.phase = .records at_ left position crc want
          ∧ i = if left = 0 then .preloadEnd else .preloadRecord) := by
  unfold Setup.preloadStep at h
  split at h
  case h_1 => cases h
  case h_2 e engine =>
    refine ⟨e, engine, ?_⟩
    split at h
    case h_1 header =>
      split at h
      case isTrue => cases h
      case isFalse idle => exact .inl ⟨(Option.some.inj h).symm, header, by simpa using idle⟩
    case h_2 records => exact .inr ⟨_, _, _, _, _, records, (Option.some.inj h).symm⟩

theorem preloadStep_eq_none : c.preloadStep = none ↔ ∀ e, c.engine = some e → e.phase = .header ∧ c.store.writing ≠ none := by
  unfold Setup.preloadStep
  split
  case h_1 off => simp [off]
  case h_2 e engine =>
    rw [engine]
    split
    case h_1 header => simp [header, Option.isSome_iff_ne_none]
    case h_2 records => simp [records]

/-- The store write in progress has come to its end (R185). -/
def Setup.Written (c : Setup) : Prop := ∃ w, c.store.writing = some w ∧ w.left = 0

theorem Setup.written_iff : (c.store.writing.any fun w => w.left == 0) = true ↔ c.Written := by
  unfold Setup.Written
  cases c.store.writing <;> simp

theorem writeDue_some (h : c.writeDue = some i) : i = .storeWriteEnd ∧ c.Written := by
  unfold Setup.writeDue at h
  split at h
  case isTrue out => exact ⟨(Option.some.inj h).symm, Setup.written_iff.1 out⟩
  case isFalse => cases h

theorem writeDue_eq_none : c.writeDue = none ↔ ¬ c.Written := by
  unfold Setup.writeDue
  rw [← Setup.written_iff]
  split <;> simp_all

/-- The instruction of a rivet at a place whose window has ended (R91, R92). -/
theorem expiredRivet_some {now first : Nat} {k : LaneId} {stock : List Rivet} (h : expiredRivet now k first stock = some i) :
    ∃ place r, stock[place]? = some r ∧ r.left now = 0
      ∧ i = if r.tag = none then .rivetExpiryUnassigned k (first + place) else .rivetExpiryAssigned k (first + place) := by
  induction stock generalizing first with
  | nil => cases h
  | cons r rest ih =>
    unfold expiredRivet at h
    split at h
    case isTrue out =>
      refine ⟨0, r, rfl, out, (Option.some.inj h).symm.trans ?_⟩
      cases r.tag <;> rfl
    case isFalse =>
      obtain ⟨place, q, at_, out, named⟩ := ih h
      refine ⟨place + 1, q, at_, out, ?_⟩
      rw [named, Nat.add_right_comm, Nat.add_assoc]

theorem expiredRivet_eq_none {now first : Nat} {k : LaneId} {stock : List Rivet} :
    expiredRivet now k first stock = none ↔ ∀ r ∈ stock, r.left now ≠ 0 := by
  induction stock generalizing first with
  | nil => simp [expiredRivet]
  | cons r rest ih =>
    unfold expiredRivet
    rw [List.forall_mem_cons]
    split
    case isTrue out => simp [out]
    case isFalse runs => simp [ih, runs]

/-- A rail's request whose patience has ended while the claim clocks count (R62). -/
def Request.Starved (c : Setup) (q : Request) : Prop :=
  q.urgent = false ∧ q.patience ≤ q.waited ∧ (c.mode = .run ∨ c.mode = .standby)

/-- The first slot whose transmission goes on: what is due of it is its end. -/
def Live.sentDue (l : Live) : Option Instr :=
  firstOf allSlots fun j => l.heads[j].sending.map fun _ => .headSentEvent j

/-- The first slot whose stage has run down (R132). -/
def Live.stageDue (l : Live) : Option Instr :=
  firstOf allSlots fun j => l.slots[j].timer.bind fun g => if g.left = 0 then some (g.stage.expiry j) else none

/-- The first slot whose link has been silent to the limit (R173). -/
def Live.silenceDue (l : Live) : Option Instr := firstOf allSlots fun j => ranDown l.heads[j].silence (.linkDown j)

/-- The first lane whose cadence timer has run down (R86). -/
def Live.cadenceDue (l : Live) : Option Instr :=
  firstOf [0, 1] fun k : LaneId => ranDown l.lanes[k].cadence (.cadenceExpiry k)

/-- The first rivet whose window has ended, lane by lane (R91, R92). -/
def Live.rivetDue (now : Nat) (l : Live) : Option Instr :=
  firstOf [0, 1] fun k : LaneId => expiredRivet now k 0 l.lanes[k].stock

/-- The first claim that has waited out its patience (R62). -/
def Live.claimDue (c : Setup) (l : Live) : Option Instr :=
  if c.progresses then
    firstOf (l.requestsA ++ l.requestsB) fun q =>
      if !q.urgent && decide (q.patience ≤ q.waited) then some (.claimStarved q.slot) else none
  else none

/-- With the reset pin not held, the first of all that is due (log entry 1). -/
theorem dueEvent_eq (free : s.setup.resetHeld = false) : s.dueEvent = firstOf
    [s.live.cell.sending.map fun _ => .cellSentEvent, s.live.sentDue, s.setup.preloadStep, s.setup.writeDue,
      ranDown s.setup.headHold .headLinkHoldEnd, ranDown s.setup.guard.timer .discrepancyExpiry, s.live.stageDue,
      s.live.silenceDue, s.live.cadenceDue, s.live.rivetDue s.setup.now, s.live.claimDue s.setup] id :=
  if_neg (by rw [free]; nofun)

variable {l : Live} {now : Nat}

theorem sentDue_some (h : l.sentDue = some i) : ∃ j : SlotId, i = .headSentEvent j ∧ l.heads[j].sending ≠ none := by
  obtain ⟨j, -, sent⟩ := firstOf_some h
  obtain ⟨m, sending, named⟩ := Option.map_eq_some_iff.1 sent
  exact ⟨j, named.symm, by rw [sending]; nofun⟩

theorem sentDue_eq_none : l.sentDue = none ↔ ∀ j : SlotId, l.heads[j].sending = none := by
  simp [Live.sentDue, firstOf_eq_none, mem_allSlots]

theorem stageDue_some (h : l.stageDue = some i) : ∃ (j : SlotId) (g : StageTimer),
    l.slots[j].timer = some g ∧ g.left = 0 ∧ i = g.stage.expiry j := by
  obtain ⟨j, -, expires⟩ := firstOf_some h
  obtain ⟨g, timer, named⟩ := Option.bind_eq_some_iff.1 expires
  split at named
  case isTrue out => exact ⟨j, g, timer, out, (Option.some.inj named).symm⟩
  case isFalse => cases named

theorem stageDue_eq_none : l.stageDue = none ↔ ∀ (j : SlotId) g, l.slots[j].timer = some g → g.left ≠ 0 := by
  simp [Live.stageDue, firstOf_eq_none, mem_allSlots, Option.bind_eq_none_iff]

theorem silenceDue_some (h : l.silenceDue = some i) : ∃ j : SlotId, i = .linkDown j ∧ l.heads[j].silence = some 0 := by
  obtain ⟨j, -, down⟩ := firstOf_some h
  exact ⟨j, ranDown_some down⟩

theorem silenceDue_eq_none : l.silenceDue = none ↔ ∀ j : SlotId, l.heads[j].silence ≠ some 0 := by
  simp [Live.silenceDue, firstOf_eq_none, mem_allSlots, ranDown_eq_none]

theorem cadenceDue_some (h : l.cadenceDue = some i) : ∃ k : LaneId, i = .cadenceExpiry k ∧ l.lanes[k].cadence = some 0 := by
  obtain ⟨k, -, down⟩ := firstOf_some h
  exact ⟨k, ranDown_some down⟩

/-- Both lanes are looked through. -/
theorem firstOf_lanes_eq_none {f : LaneId → Option β} : firstOf [0, 1] f = none ↔ ∀ k, f k = none := by
  simp [firstOf_eq_none, Fin.forall_fin_two]

theorem cadenceDue_eq_none : l.cadenceDue = none ↔ ∀ k : LaneId, l.lanes[k].cadence ≠ some 0 :=
  firstOf_lanes_eq_none.trans (forall_congr' fun _ => ranDown_eq_none)

theorem rivetDue_some (h : l.rivetDue now = some i) : ∃ (k : LaneId) (place : Nat) (r : Rivet),
    l.lanes[k].stock[place]? = some r ∧ r.left now = 0
      ∧ i = if r.tag = none then .rivetExpiryUnassigned k place else .rivetExpiryAssigned k place := by
  obtain ⟨k, -, expired⟩ := firstOf_some h
  obtain ⟨place, r, found⟩ := expiredRivet_some expired
  rw [Nat.zero_add] at found
  exact ⟨k, place, r, found⟩

theorem rivetDue_eq_none : l.rivetDue now = none ↔ ∀ k : LaneId, ∀ r ∈ l.lanes[k].stock, r.left now ≠ 0 :=
  firstOf_lanes_eq_none.trans (forall_congr' fun _ => expiredRivet_eq_none)

theorem claimDue_some (h : l.claimDue c = some i) :
    ∃ q ∈ l.requestsA ++ l.requestsB, i = .claimStarved q.slot ∧ q.Starved c := by
  unfold Live.claimDue at h
  split at h
  case isTrue counts =>
    obtain ⟨q, filed, starves⟩ := firstOf_some h
    split at starves
    case isTrue out =>
      obtain ⟨calm, waited⟩ : q.urgent = false ∧ q.patience ≤ q.waited := by simpa using out
      exact ⟨q, filed, (Option.some.inj starves).symm, calm, waited, Setup.progresses_iff.1 counts⟩
    case isFalse => cases starves
  case isFalse => cases h

theorem claimDue_eq_none : l.claimDue c = none ↔ ((c.mode = .run ∨ c.mode = .standby) →
    ∀ q ∈ l.requestsA ++ l.requestsB, q.urgent = false → q.waited < q.patience) := by
  unfold Live.claimDue
  rw [← Setup.progresses_iff]
  split
  case isTrue counts => simp [counts, firstOf_eq_none]
  case isFalse stands => simp [stands]

end Due

/-! ### Stages and claims that overrun (R62, R133) -/

section Expiries

variable {s : State} {slot : SlotId} {n : Nat} {c : Setup} {g : StageTimer} {r : Rail} {q : Request}

theorem stageExpiry_idle {p : TimedStage → Bool} {take : Setup → TimedStage → Taking → Taking}
    (idle : s.live.slots[slot].timer = none) : stageExpiry slot p take s = .next s := by
  unfold stageExpiry event
  dsimp only
  rw [idle]
  exact ite_self _

/-- A stage's expiry finds no timer running (log entry 2). -/
theorem stage_idle {i : Instr} (idle : s.live.slots[slot].timer = none)
    (expiry : i = .acceptStageExpiry slot ∨ i = .runStageExpiry slot ∨ i = .travelStageExpiry slot
      ∨ i = .graceStageExpiry slot ∨ i = .abortStageExpiry slot) : exec i s = .next s := by
  obtain rfl | rfl | rfl | rfl | rfl := expiry
  all_goals
    dsimp only [exec, execAcceptStageExpiry, execRunStageExpiry, execTravelStageExpiry, execGraceStageExpiry,
      execAbortStageExpiry]
    exact stageExpiry_idle idle

/-- OP_SLOW names the order in work, and 0 where a heat of a lane's own overruns (R133). -/
theorem slowStage_eq (next : TimedStage) : (s.elapse n).live.slowStage (s.elapse n).setup slot next =
    ((s.elapse n).live.postSlot slot .opSlow
      (.tag (match s.live.slots[slot].work with
        | .order tag => tag
        | _ => 0))).updSlot slot fun x =>
          { x with timer := some { stage := next, left := s.setup.acted Timing.grace } } := by
  unfold Live.slowStage Live.startStage
  rw [elapse_slot]
  cases s.live.slots[slot].work <;> rfl

/-- A stage that overruns without a fault, its time left having passed (R133). -/
theorem slowExpiry_of {p : TimedStage → Bool} (next : TimedStage) (held : s.setup.resetHeld = false)
    (timer : s.live.slots[slot].timer = some g) (runs : p g.stage = true) :
    stageExpiry slot p (fun c _ t => t.on (Live.slowStage c slot next)) s = .next (settled (s.elapse g.left)
      (Taking.start (((s.elapse g.left).live.postSlot slot .opSlow
        (.tag (match s.live.slots[slot].work with
          | .order tag => tag
          | _ => 0))).updSlot slot fun x =>
            { x with timer := some { stage := next, left := s.setup.acted Timing.grace } }))) := by
  rw [stageExpiry_of held timer runs, ← slowStage_eq]
  rfl

theorem claimStarved_idle (held : s.setup.resetHeld = false) (none_ : s.live.requestOf slot = none) :
    exec (.claimStarved slot) s = .next s := by
  rw [show exec (.claimStarved slot) s = execClaimStarved slot s from rfl, execClaimStarved, event_taken held, none_]

/-- A claim that is URGENT already or whose clock stands starves no more (R62). -/
theorem claimStarved_still (held : s.setup.resetHeld = false) (filed : s.live.requestOf slot = some (r, q))
    (still : (q.urgent || !s.setup.progresses) = true) : exec (.claimStarved slot) s = .next s := by
  rw [show exec (.claimStarved slot) s = execClaimStarved slot s from rfl, execClaimStarved, event_taken held, filed]
  exact congrArg Host.Outcome.next (if_pos still)

theorem claimStarved_of (held : s.setup.resetHeld = false) (filed : s.live.requestOf slot = some (r, q))
    (counts : (q.urgent || !s.setup.progresses) = false) : exec (.claimStarved slot) s = .next
      (settled (s.elapse (q.patience - q.waited))
        ((Taking.start (s.elapse (q.patience - q.waited)).live).starve r q)) := by
  rw [show exec (.claimStarved slot) s = execClaimStarved slot s from rfl, execClaimStarved, event_taken held, filed]
  exact congrArg Host.Outcome.next (if_neg (by rw [counts]; nofun))

theorem requestOf_slot {l : Live} (filed : l.requestOf slot = some (r, q)) : q.slot = slot := by
  unfold Live.requestOf at filed
  split at filed
  case h_1 found => simpa [← (Prod.mk.inj (Option.some.inj filed)).2] using List.find?_some found
  case h_2 =>
    obtain ⟨x, found, same⟩ := Option.map_eq_some_iff.1 filed
    simpa [← (Prod.mk.inj same).2] using List.find?_some found

end Expiries

/-- Settles O48: the passing of time field by field, what is due by its sources, and each expiry by what it finds. -/
theorem overruns : Obligations.Overruns := by
  refine ⟨fun n s => ⟨rfl, rfl, fun j => ⟨elapse_slot j, elapse_head j⟩,
      fun i => ⟨elapse_lane i, fun r _ ended => Rivet.left_add ended⟩, elapse_requests, rfl⟩,
    fun s => ⟨fun held => if_pos held, fun free => ⟨fun i due => ?_, ?_⟩⟩,
    fun slot s held => ⟨fun idle i expiry => stage_idle idle expiry, claimStarved_idle held, fun r q filed still => ?_,
      fun g timer => ⟨fun stage => ?_, fun stage => ?_⟩, fun r q filed calm counts => ?_⟩⟩
  · rw [dueEvent_eq free] at due
    obtain ⟨source, among, found⟩ := firstOf_some due
    obtain rfl : source = some i := found
    simp only [List.mem_cons, List.not_mem_nil, or_false] at among
    refine among.imp ?_ <| .imp (fun h => sentDue_some h.symm) <| .imp (fun h => preloadStep_some h.symm) <|
      .imp (fun h => writeDue_some h.symm) <| .imp (fun h => ranDown_some h.symm) <| .imp (fun h => ranDown_some h.symm) <|
      .imp (fun h => stageDue_some h.symm) <| .imp (fun h => silenceDue_some h.symm) <|
      .imp (fun h => cadenceDue_some h.symm) <| .imp (fun h => rivetDue_some h.symm) fun h => claimDue_some h.symm
    intro h
    obtain ⟨m, sending, named⟩ := Option.map_eq_some_iff.1 h.symm
    exact ⟨named.symm, by rw [sending]; nofun⟩
  · rw [dueEvent_eq free, firstOf_eq_none]
    simp only [List.forall_mem_cons, List.not_mem_nil, false_imp_iff, implies_true, and_true, id, Option.map_eq_none_iff,
      sentDue_eq_none, preloadStep_eq_none, writeDue_eq_none, ranDown_eq_none, stageDue_eq_none, silenceDue_eq_none,
      cadenceDue_eq_none, rivetDue_eq_none, claimDue_eq_none, forall_and, and_assoc]
    exact Iff.rfl
  · refine claimStarved_still held filed ?_
    obtain urgent | hold | stop := still
    · rw [urgent, Bool.true_or]
    · simp [Setup.progresses, hold]
    · simp [Setup.progresses, stop]
  · exact slowExpiry_of (p := fun g => g == .run) .graceRun held timer (by rw [stage]; rfl)
  · exact slowExpiry_of (p := fun g => g == .travel) .graceTravel held timer (by rw [stage]; rfl)
  · rw [claimStarved_of held filed (by rw [calm, Setup.progresses_iff.2 counts]; rfl), ← requestOf_slot filed]
    rfl

end Sys2Proof.Machine
end

section
/-! PROOFS. TABLE WRITE SLOT and LANE (O35). -/

namespace Sys2Proof.Machine

open Sys2Proof.Safety

section EntryWrites

variable {h : Header} {selector n : Nat} {take : State → State} {s : State} {i : LaneId} {e : LaneEntry} {c : Setup}
  {l : Live} {t : Vector LaneEntry 2}

/-- A weighed TABLE WRITE of its own selector and length is taken. -/
theorem tableWrite_taken (w : Weighed s) (k : Selects h selector n) :
    tableWrite h selector n take s = .next (take (closed s)) := w.taken k.holds.1 k.holds.2 (by simp)

theorem tableWriteSlot_eq {a b k : Nat} (w : Weighed s) (own : Selects h 2 7) :
    exec (.tableWriteSlot h a b k) s = .next (match slotEntryOf a b k with
      | none => answered s h (.refused .badValue)
      | some (i, e) =>
        if e.expected.isSome ∧ s.live.slots[i].state.joined ∧ s.live.slots[i].kind? ≠ e.expected then
          answered s h (.refused .wrongKind)
        else
          answered (s.withTables { s.setup.tables with slots := s.setup.tables.slots.set i e }) h
            (.slotWritten s.live.slots[i].state)) := by
  rw [show exec (.tableWriteSlot h a b k) s = execTableWriteSlot h a b k s from rfl, execTableWriteSlot,
    tableWrite_taken w own]
  rfl

theorem tableWriteLane_eq {a b k d f : Nat} (w : Weighed s) (own : Selects h 4 9) :
    exec (.tableWriteLane h a b k d f) s = .next (match laneEntryOf a b k d f with
      | none => answered s h (.refused .badValue)
      | some (i, e) =>
        if laneTaken s.setup.tables.lanes i e then answered s h (.refused .badValue)
        else if laneInUse s.setup s.live i e then answered s h (.refused .inUse)
        else
          let c := { s.setup with tables := { s.setup.tables with lanes := s.setup.tables.lanes.set i e } }
          let l := (closed s).live.syncCadences c
          ({ s with setup := c, live := l } : State).place (.answer h.tag (.laneWritten (l.laneState c i)))) := by
  rw [show exec (.tableWriteLane h a b k d f) s = execTableWriteLane h a b k d f s from rfl, execTableWriteLane,
    tableWrite_taken w own]
  rfl

/-- There are two lanes (R79). -/
theorem otherLane_iff {i j : LaneId} : (if i = 0 then 1 else 0) = j ↔ j ≠ i := by
  revert i j
  decide

/-- The heater slot stands in the other lane's entry (R80 check 2). -/
theorem laneTaken_iff : laneTaken t i e = true ↔ e.slot ≠ none ∧ ∃ j : LaneId, j ≠ i ∧ t[j].slot = e.slot := by
  simp only [laneTaken, Bool.and_eq_true, Option.isSome_iff_ne_none, beq_iff_eq, ← otherLane_iff, exists_eq_left']

/-- No slot, or one that is EMPTY or JOINING (R80). -/
def Live.heaterIdle (l : Live) (x : Option SlotId) : Bool :=
  x.all fun j => l.slots[j].state == .empty || l.slots[j].state == .joining

theorem Live.heaterIdle_iff {x : Option SlotId} : l.heaterIdle x = true ↔
    ∀ j, x = some j → l.slots[j].state = .empty ∨ l.slots[j].state = .joining := by
  cases x <;> simp [Live.heaterIdle]

theorem laneInUse_eq : laneInUse c l i e =
    (((e.cls != c.tables.lanes[i].cls || e.slot != c.tables.lanes[i].slot)
        && (!l.lanes[i].stock.isEmpty || l.lanes[i].heat.isSome))
      || (e.slot != c.tables.lanes[i].slot && !(l.heaterIdle c.tables.lanes[i].slot && l.heaterIdle e.slot))) := by
  unfold laneInUse Live.heaterIdle
  dsimp only
  cases c.tables.lanes[i].slot <;> cases e.slot <;> rfl

/-- The IN_USE checks of R80. -/
theorem laneInUse_iff : laneInUse c l i e = true ↔
    let idle := fun x : Option SlotId => ∀ j, x = some j → l.slots[j].state = .empty ∨ l.slots[j].state = .joining
    ((e.cls ≠ c.tables.lanes[i].cls ∨ e.slot ≠ c.tables.lanes[i].slot)
        ∧ (l.lanes[i].stock ≠ [] ∨ l.lanes[i].heat ≠ none))
      ∨ (e.slot ≠ c.tables.lanes[i].slot ∧ ¬ (idle c.tables.lanes[i].slot ∧ idle e.slot)) := by
  simp only [laneInUse_eq, Bool.or_eq_true, Bool.and_eq_true, bne_iff_ne, Bool.not_eq_true', ← Bool.not_eq_true,
    List.isEmpty_iff, Option.isSome_iff_ne_none, ne_eq, Live.heaterIdle_iff]

end EntryWrites

/-- Settles O35: the entries by their codes, then either write by the checks its entry passes. -/
theorem slotAndLaneWrites : Obligations.SlotAndLaneWrites := by
  refine ⟨fun _ _ _ _ _ => slotEntryOf_eq_some, fun _ _ _ _ _ _ _ => laneEntryOf_eq_some, fun h a b c d f s w =>
    ⟨fun own bad => ?_, fun own i e entry => ⟨fun wrong => ?_, fun right => ?_⟩,
      fun own bad => ?_, fun own i e entry => ⟨fun taken => ?_, fun free used => ?_, fun free unused => ?_⟩⟩⟩
  · rw [tableWriteSlot_eq w own, bad]
  · rw [tableWriteSlot_eq w own, entry]
    exact congrArg _ (if_pos (wrong.imp_left Option.isSome_iff_ne_none.2))
  · rw [tableWriteSlot_eq w own, entry]
    exact congrArg _ (if_neg (mt (And.imp_left Option.isSome_iff_ne_none.1) right))
  · rw [tableWriteLane_eq w own, bad]
  · rw [tableWriteLane_eq w own, entry]
    exact congrArg _ (if_pos (laneTaken_iff.2 taken))
  · rw [tableWriteLane_eq w own, entry]
    exact congrArg _ ((if_neg (mt laneTaken_iff.1 free)).trans (if_pos (laneInUse_iff.2 used)))
  · rw [tableWriteLane_eq w own, entry]
    exact congrArg _ ((if_neg (mt laneTaken_iff.1 free)).trans (if_neg (mt laneInUse_iff.1 unused)))

end Sys2Proof.Machine
end

section
/-! PROOFS. The cadence timer of a lane and its expiry (O38). -/

namespace Sys2Proof.Machine

open Sys2Proof.Safety

section Cadence

variable {i j : LaneId} {h : SlotId} {n : Nat} {s : State} {l l' : Live} {c c' : Setup}

/-! ### The state of a lane (R79) -/

/-- A joined slot that the lane's entry names and whose head declared the lane. -/
theorem Live.servingSlot_eq_some : l.servingSlot c i = some h ↔
    c.tables.lanes[i].slot = some h ∧ l.slots[h].state.joined = true
      ∧ l.slots[h].head.map Joined.declared = some (.heat i) := by
  rw [Live.servingSlot_eq, Option.filter_eq_some_iff, Bool.and_eq_true, beq_iff_eq]

theorem SlotState.joined_of_working {x : SlotState} (works : x.working = true) : x.joined = true := by
  obtain rfl | rfl := SlotState.working_iff.1 works <;> rfl

theorem Live.laneState_serving (serving : l.servingSlot c i = some h) : l.laneState c i =
    if l.slots[h].state.working = false then .off else if l.lanes[i].heat = none then .ready else .heating := by
  unfold Live.laneState
  rw [serving]
  simp only [Bool.not_eq_true', Option.isNone_iff_eq_none]

/-- A lane is not OFF just where a READY or BUSY slot serves it (R79). -/
theorem Live.laneState_off (idle : ¬ ∃ h, c.tables.lanes[i].slot = some h
    ∧ (l.slots[h].state = .ready ∨ l.slots[h].state = .busy) ∧ l.slots[h].head.map Joined.declared = some (.heat i)) :
    l.laneState c i = .off := by
  cases serving : l.servingSlot c i with
  | none => unfold Live.laneState; rw [serving]
  | some h =>
    obtain ⟨mapped, -, declared⟩ := Live.servingSlot_eq_some.1 serving
    rw [Live.laneState_serving serving, if_pos]
    exact Bool.eq_false_iff.2 fun works => idle ⟨h, mapped, SlotState.working_iff.1 works, declared⟩

theorem Live.laneState_on (mapped : c.tables.lanes[i].slot = some h)
    (works : l.slots[h].state = .ready ∨ l.slots[h].state = .busy)
    (declared : l.slots[h].head.map Joined.declared = some (.heat i)) :
    l.laneState c i = if l.lanes[i].heat = none then .ready else .heating := by
  have works := SlotState.working_iff.2 works
  rw [Live.laneState_serving (Live.servingSlot_eq_some.2 ⟨mapped, SlotState.joined_of_working works, declared⟩),
    if_neg (by rw [works]; exact Bool.noConfusion)]

/-- The serving slot of a lane is read off the tables, the slots' states and what their heads declared. -/
theorem Live.servingSlot_congr (tables : c'.tables = c.tables) (states : ∀ h : SlotId, l'.slots[h].state = l.slots[h].state)
    (heads : ∀ h : SlotId, l'.slots[h].head = l.slots[h].head) : l'.servingSlot c' i = l.servingSlot c i := by
  simp only [Live.servingSlot_eq, tables, states, heads]

/-- The state of a lane is read off its serving slot and its heat record. -/
theorem Live.laneState_congr (tables : c'.tables = c.tables) (states : ∀ h : SlotId, l'.slots[h].state = l.slots[h].state)
    (heads : ∀ h : SlotId, l'.slots[h].head = l.slots[h].head) (heat : l'.lanes[i].heat = l.lanes[i].heat) :
    l'.laneState c' i = l.laneState c i := by
  unfold Live.laneState
  rw [Live.servingSlot_congr tables states heads, heat]
  cases l.servingSlot c i with
  | none => rfl
  | some h => simp only [states]

/-! ### The cadence timer started and stopped (R86) -/

theorem Live.syncCadence_lane : (l.syncCadence c i).lanes[j] = if j = i then { l.lanes[i] with
      cadence := if l.cadenceRuns c i = true then some (l.lanes[i].cadence.getD (c.acted Timing.cadence)) else none }
    else l.lanes[j] := by
  rw [Live.syncCadence, Live.updLane_lanes, vmod_get]
  cases l.lanes[i].cadence <;> rfl

theorem Live.cadenceRuns_syncCadence : (l.syncCadence c i).cadenceRuns c j = l.cadenceRuns c j := by
  have state : (l.syncCadence c i).laneState c j = l.laneState c j :=
    Live.laneState_congr rfl (fun _ => rfl) (fun _ => rfl) (by rw [Live.syncCadence_lane]; split <;> simp_all)
  rw [Live.cadenceRuns, state, Live.cadenceRuns]

/-- Each lane's timer starts and stops by that lane alone. -/
theorem Live.syncCadences_lane : (l.syncCadences c).lanes[i] = { l.lanes[i] with
    cadence := if l.cadenceRuns c i = true then some (l.lanes[i].cadence.getD (c.acted Timing.cadence)) else none } := by
  rw [Live.syncCadences, Live.syncCadence_lane, Live.cadenceRuns_syncCadence]
  simp only [Live.syncCadence_lane]
  match i with
  | 0 => rfl
  | 1 => rfl

theorem Live.cadenceRuns_iff : l.cadenceRuns c i = true ↔
    c.tables.lanes[i].mode = .auto ∧ (c.mode = .run ∨ c.mode = .hold) ∧ l.laneState c i ≠ .off := by
  simp [Live.cadenceRuns, and_assoc]

/-! ### The expiry (R87) -/

theorem cadence_idle (idle : s.live.lanes[i].cadence = none) : exec (.cadenceExpiry i) s = .next s := by
  rw [show exec (.cadenceExpiry i) s = execCadenceExpiry i s from rfl, execCadenceExpiry, event,
    idle]
  exact ite_self _

/-- The live state with the cadence timer of a lane started again. -/
def Live.cadenced (c : Setup) (i : LaneId) (l : Live) : Live :=
  l.updLane i fun x => { x with cadence := some (c.acted Timing.cadence) }

theorem Live.cadenced_lane : (l.cadenced c i).lanes[i] =
    { l.lanes[i] with cadence := some (c.acted Timing.cadence) } := vmod_get_self _ _ _

theorem Live.cadenced_servingSlot : (l.cadenced c i).servingSlot c i = l.servingSlot c i := rfl

theorem Live.cadenced_laneState : (l.cadenced c i).laneState c i = l.laneState c i :=
  Live.laneState_congr rfl (fun _ => rfl) (fun _ => rfl) (by rw [Live.cadenced_lane])

theorem Live.cadenceExpired_off (off : l.laneState c i = .off) : l.cadenceExpired c i = l.cadenced c i := by
  have off : (l.cadenced c i).laneState c i = .off := Live.cadenced_laneState.trans off
  rw [Live.cadenced] at off
  unfold Live.cadenceExpired
  dsimp only
  rw [off]
  generalize Live.servingSlot c _ i = serving
  cases serving <;> rfl

theorem Live.cadenceExpired_heating (serving : l.servingSlot c i = some h) (heating : l.laneState c i = .heating) :
    l.cadenceExpired c i =
      let late := (l.cadenced c i).updLane i fun x => { x with late := true }
      if l.lanes[i].late = true then late else late.postSlot h .heatLate (.lane i) := by
  have serving : (l.cadenced c i).servingSlot c i = some h := serving
  have heating : (l.cadenced c i).laneState c i = .heating := Live.cadenced_laneState.trans heating
  have late : l.lanes[i].late = (l.cadenced c i).lanes[i].late := by rw [Live.cadenced_lane]
  rw [late]
  unfold Live.cadenceExpired
  rw [Live.cadenced] at serving heating
  dsimp only
  rw [serving, heating]
  rfl

theorem Live.cadenceExpired_ready (serving : l.servingSlot c i = some h) (ready : l.laneState c i = .ready) :
    l.cadenceExpired c i =
      if l.lanes[i].stock.length < c.tables.lanes[i].target ∧ l.slots[h].work = .idle then
        (l.cadenced c i).issueLaneHeat c i h
      else l.cadenced c i := by
  have serving : (l.cadenced c i).servingSlot c i = some h := serving
  have ready : (l.cadenced c i).laneState c i = .ready := Live.cadenced_laneState.trans ready
  have stock : l.lanes[i].stock = (l.cadenced c i).lanes[i].stock := by rw [Live.cadenced_lane]
  rw [stock]
  unfold Live.cadenceExpired
  rw [Live.cadenced] at serving ready
  dsimp only
  rw [serving, ready]
  rfl

/-- A heat of the lane's own: its record opens, the slot turns BUSY under the ACCEPT stage, and ISSUE is queued (R84, R87). -/
theorem Live.issueLaneHeat_eq : l.issueLaneHeat c i h =
    ((l.updLane i fun x => { x with heat := some {
          tag := 0, origin := .lane, slot := h, cls := c.tables.lanes[i].cls, serial := none, step := some .issued
          mark := some .unsent } }).updSlot h fun x =>
        { x with
          state := .busy, work := .heat i
          timer := some { stage := .accept, left := c.acted Timing.acceptLimit } }).queue c h
      (.issue 0 (.heat i c.tables.lanes[i].cls)) := by
  unfold Live.issueLaneHeat Live.startStage Live.updSlot
  dsimp only
  rw [vmod_vmod]
  rfl

theorem elapse_servingSlot : (s.elapse n).live.servingSlot (s.elapse n).setup i = s.live.servingSlot s.setup i :=
  Live.servingSlot_congr rfl (fun h => by rw [elapse_slot]) fun h => by rw [elapse_slot]

theorem elapse_laneState : (s.elapse n).live.laneState (s.elapse n).setup i = s.live.laneState s.setup i :=
  Live.laneState_congr rfl (fun h => by rw [elapse_slot]) (fun h => by rw [elapse_slot]) (by rw [elapse_lane])

theorem cadence_of (held : s.setup.resetHeld = false) (runs : s.live.lanes[i].cadence = some n) :
    exec (.cadenceExpiry i) s = .next (settled (s.elapse n)
      (Taking.start ((s.elapse n).live.cadenceExpired (s.elapse n).setup i))) := by
  rw [show exec (.cadenceExpiry i) s = execCadenceExpiry i s from rfl, execCadenceExpiry, event_taken held, runs]
  rfl

end Cadence

/-- Settles O38: the states of a lane, its timer at the end of a taking, and the expiry by the lane's state. -/
theorem cadenceExpires : Obligations.CadenceExpires := by
  refine ⟨fun i s => cadence_idle, fun c l i => ⟨Live.laneState_off, ?_, ?_, rfl, fun t => rfl⟩, fun i n s held runs => ?_⟩
  · rintro ⟨h, mapped, works, declared⟩
    exact Live.laneState_on mapped works declared
  · simp only [Live.syncCadences_lane, Live.cadenceRuns_iff]
  dsimp only
  refine ⟨fun off => ?_, fun h serving => ⟨fun heating => ?_, fun ready rests => ?_, fun ready short idle => ?_⟩⟩
  · rw [cadence_of held runs, Live.cadenceExpired_off (elapse_laneState.trans off)]
    rfl
  · rw [cadence_of held runs, Live.cadenceExpired_heating (elapse_servingSlot.trans serving) (elapse_laneState.trans heating),
      elapse_lane]
    rfl
  all_goals
    rw [cadence_of held runs, Live.cadenceExpired_ready (elapse_servingSlot.trans serving) (elapse_laneState.trans ready),
      elapse_lane, elapse_slot]
  · rw [if_neg fun issues => rests.elim (Nat.not_le_of_lt issues.1) fun works => works issues.2]
    rfl
  · rw [if_pos ⟨short, idle⟩, Live.issueLaneHeat_eq]
    rfl

end Sys2Proof.Machine
end

section
/-! PROOFS. Reports with tag 0 for a heat of a lane's own (O39). -/

namespace Sys2Proof.Machine

open Sys2Proof.Safety

section LaneHeats

variable {i : LaneId} {slot : SlotId} {hs n : Nat} {serial : Option Nat} {g : Heat} {s : State} {l : Live} {c : Setup}
  {t : Taking}

/-! ### The heat that a report with tag 0 names (R42, R88) -/

theorem Live.ownHeat_spec (own : l.ownHeat slot = some (i, g)) :
    l.lanes[i].heatOn slot = some g ∧ g.origin = .lane := by
  obtain ⟨j, -, found⟩ := List.exists_of_findSome?_eq_some own
  split at found
  next x on_ =>
    split at found
    next lane =>
      obtain ⟨rfl, rfl⟩ := Prod.mk.inj (Option.some.inj found)
      exact ⟨on_, lane⟩
    next => cases found
  next => cases found

theorem framed_ownHeat : (framed s slot hs).ownHeat slot = s.live.ownHeat slot := by
  rw [framed_eq]
  rfl

/-! ### The reports -/

theorem accept_own (r : Reports s slot) (own : s.live.ownHeat slot = some (i, g)) :
    exec (.accept slot hs 0 serial) s =
      .next { s with live := (framed s slot hs).acceptHeat s.setup slot i g serial } := by
  rw [show exec (.accept slot hs 0 serial) s = execAccept slot hs 0 serial s from rfl, execAccept, r.taken, if_pos rfl]
  dsimp only
  rw [framed_ownHeat, own]

theorem done_own (r : Reports s slot) (own : s.live.ownHeat slot = some (i, g)) :
    exec (.done slot hs 0 (.serial n)) s =
      .next (settled s (((Taking.start (framed s slot hs)).joinRivet s.setup slot i n).workEnds slot)) := by
  rw [show exec (.done slot hs 0 (.serial n)) s = execDone slot hs 0 (.serial n) s from rfl, execDone, r.taken, if_pos rfl]
  dsimp only
  rw [framed_ownHeat, own]
  rfl

/-- A DONE without a serial is no DONE of a heat (R174). -/
theorem done_own_misshapen {b : DoneBody} (r : Reports s slot) (own : s.live.ownHeat slot = some (i, g))
    (other : ∀ k, b ≠ .serial k) : exec (.done slot hs 0 b) s = .next (setAside s slot hs) := by
  rw [show exec (.done slot hs 0 b) s = execDone slot hs 0 b s from rfl, execDone, r.taken, if_pos rfl]
  dsimp only
  rw [framed_ownHeat, own]
  cases b with
  | serial k => exact absurd rfl (other k)
  | bare => rfl
  | result code value => rfl
  | other length => rfl

theorem abortedHeat_own (own : s.live.ownHeat slot = some (i, g)) :
    ({ s with live := framed s slot hs } : State).abortedHeat slot =
      if g.step = some .aborting then
        settled s (((Taking.start (framed s slot hs)).on (Live.closeHeat slot i)).workEnds slot)
      else setAside s slot hs := by
  rw [State.abortedHeat, framed_ownHeat, own]
  rfl

/-- With tag 0 either progress is taken alike (R88, R89). -/
theorem aborted_own (r : Reports s slot) {a : Instr} (report : a = .abortedNone slot hs 0 ∨ a = .abortedPartial slot hs 0) :
    exec a s = .next (({ s with live := framed s slot hs } : State).abortedHeat slot) := by
  obtain rfl | rfl := report
  · rw [show exec (.abortedNone slot hs 0) s = execAbortedNone slot hs 0 s from rfl, execAbortedNone, r.taken, if_pos rfl]
  · rw [show exec (.abortedPartial slot hs 0) s = execAbortedPartial slot hs 0 s from rfl, execAbortedPartial, r.taken,
      if_pos rfl]

/-! ### The end of the heat (R83, R134, R175) -/

theorem Taking.workEnds_slot : (t.workEnds slot).live.slots[slot] = { t.live.slots[slot] with
    work := .idle, timer := none
    state := if t.live.slots[slot].state = .busy then .ready else t.live.slots[slot].state } := by
  rw [Taking.workEnds_live, Live.unqueue_slots, Live.updSlot_slots, vmod_get_self]

theorem Taking.workEnds_head : (t.workEnds slot).live.heads[slot] = { t.live.heads[slot] with
    list := t.live.heads[slot].list.filter fun m => !m.isAbort } := by
  rw [Taking.workEnds_live, Live.unqueue_heads, Live.updSlot_heads, vmod_get_self]

/-- The rivet of a heat on the heater slot joins its lane. -/
theorem Taking.joinRivet_joins (on_ : t.live.lanes[i].heatOn slot = some g) (mapped : c.tables.lanes[i].slot = some slot) :
    t.joinRivet c slot i n = (t.on fun l => l.updLane i fun x => { x with
      heat := x.heatOff slot, late := false
      stock := x.stock ++
        [{ serial := n, cls := g.cls, heatEnd := c.now, window := c.acted Timing.heatWindow, tag := none }] }).wakeGate := by
  unfold Taking.joinRivet Taking.on Live.updLane
  rw [on_]
  dsimp only
  rw [if_neg fun elsewhere => elsewhere.2 mapped, vmod_vmod]

/-- From a slot that is no longer the heater slot the rivet of a lane's own heat is discarded (log entry 24). -/
theorem Taking.joinRivet_discards (on_ : t.live.lanes[i].heatOn slot = some g) (lane : g.origin = .lane)
    (elsewhere : c.tables.lanes[i].slot ≠ some slot) :
    t.joinRivet c slot i n = t.on fun l => ((l.updLane i fun x => { x with heat := x.heatOff slot, late := false }).queueDiscard
      c slot n).postSlot slot .rivetScrapped (.lane i) := by
  unfold Taking.joinRivet
  rw [on_]
  exact if_pos ⟨lane, elsewhere⟩

theorem Live.queueDiscard_lanes : (l.queueDiscard c slot n).lanes = l.lanes := by
  rw [Live.queueDiscard_eq]

/-- DISCARD is queued while fewer than 4 stand unsent (R175). -/
theorem Live.mem_queueDiscard (room : (l.heads[slot].list.filter HeadMsg.isDiscard).length < 4) :
    HeadMsg.discard n ∈ (l.queueDiscard c slot n).heads[slot].sending.toList ++ (l.queueDiscard c slot n).heads[slot].list := by
  rw [Live.queueDiscard, if_neg (Nat.not_le_of_lt room)]
  exact Live.mem_queue ..

/-- The end of work takes no message off a link but an ABORT (R175). -/
theorem Taking.workEnds_keeps {m : HeadMsg} (other : m.isAbort = false)
    (told : m ∈ t.live.heads[slot].sending.toList ++ t.live.heads[slot].list) :
    m ∈ (t.workEnds slot).live.heads[slot].sending.toList ++ (t.workEnds slot).live.heads[slot].list := by
  rw [Taking.workEnds_head]
  obtain sending | listed := List.mem_append.1 told
  · exact List.mem_append_left _ sending
  · exact List.mem_append_right _ (List.mem_filter.2 ⟨listed, by rw [other]; rfl⟩)

end LaneHeats

/-- Settles O39: each report by the step of the heat, a DONE by whether its slot is still the heater slot. -/
theorem laneHeatReports : Obligations.LaneHeatReports := by
  intro slot hs n serial i g s r own
  obtain ⟨on_, lane⟩ := Live.ownHeat_spec own
  have begun : (Taking.start (framed s slot hs)).live.lanes[i].heatOn slot = some g := by
    rwa [Taking.start_live, framed_lanes]
  refine ⟨fun issued => ?_, fun later => ?_, fun mapped => ⟨_, done_own r own, ?_⟩, fun elsewhere => ⟨_, done_own r own, ?_⟩,
    fun b => done_own_misshapen r own, fun aborting a report => ?_, fun other => ⟨?_, ?_⟩⟩
  · rw [accept_own r own, Live.acceptHeat, if_pos issued]
    rfl
  · rw [accept_own r own, Live.acceptHeat, if_neg later]
  · have lanes : (((Taking.start (framed s slot hs)).joinRivet s.setup slot i n).workEnds slot).live.lanes[i] =
        { s.live.lanes[i] with
          heat := s.live.lanes[i].heatOff slot, late := false
          stock := s.live.lanes[i].stock ++ [{ serial := n, cls := g.cls, heatEnd := s.setup.now
                                               window := s.setup.acted Timing.heatWindow, tag := none }] } := by
      rw [Taking.workEnds_lanes, Taking.joinRivet_joins begun mapped, ← framed_lanes (s := s) (slot := slot) (hs := hs)]
      exact vmod_get_self _ _ _
    rw [lanes, Taking.workEnds_notices, Taking.joinRivet_joins begun mapped]
    exact ⟨Taking.workEnds_gateDue_of rfl, rfl, rfl, rfl, workEnds_over rfl framed_slots, framed_notices⟩
  · rw [Taking.joinRivet_discards begun lane elsewhere]
    simp only [Taking.workEnds_lanes, Taking.workEnds_notices, Taking.workEnds_slot, Taking.on_live, Taking.start_live,
      Live.postSlot_lanes, Live.queueDiscard_lanes, Live.updLane_lanes, Live.postSlot_slots, Live.queueDiscard_slots,
      Live.updLane_slots, Live.postSlot_notices, Live.queueDiscard_notices, Live.updLane_notices, vmod_get_self, framed_lanes,
      framed_slots, framed_notices]
    refine ⟨trivial, trivial, trivial, trivial, trivial, trivial, fun m listed => ?_, trivial, fun room => ?_⟩
    · rw [Taking.workEnds_head] at listed
      simpa using (List.mem_filter.1 listed).2
    · exact Taking.workEnds_keeps rfl (Live.mem_queueDiscard (by rwa [Live.updLane_heads, Taking.start_live, framed_own.1]))
  · rw [aborted_own r report, abortedHeat_own own, if_pos aborting]
    have lanes : (((Taking.start (framed s slot hs)).on (Live.closeHeat slot i)).workEnds slot).live.lanes[i] =
        { s.live.lanes[i] with heat := s.live.lanes[i].heatOff slot } := by
      rw [Taking.workEnds_lanes, Taking.on_live, Live.closeHeat_lane, if_pos rfl, Taking.start_live, framed_lanes]
    refine ⟨_, rfl, ?_, ?_, ?_, workEnds_over rfl framed_slots⟩ <;> rw [lanes]
  · rw [aborted_own r (.inl rfl), abortedHeat_own own, if_neg other]
  · rw [aborted_own r (.inr rfl), abortedHeat_own own, if_neg other]

end Sys2Proof.Machine
end

section
/-! PROOFS. UNLOCK, RELOAD and RESTART (O59). -/

namespace Sys2Proof.Machine

open Sys2Proof.Safety

section Locks

variable {h : Header} {s : State} {c : Setup} {l : Live} {i j : LaneId}

/-! ### The flags of a placed message (R170) -/

/-- On an idle transmitter the oldest message begins, and the one placed is the last of the list. -/
theorem CellLink.place_waiting {k : CellLink} {m x : CellMsg} {rest : List CellMsg} (idle : k.sending = none)
    (waiting : k.list = x :: rest) : (k.place m).list = rest ++ [m] := by
  simp [CellLink.place, CellLink.begin_, idle, waiting]

/-- A placed message stands on the list or is in transmission, of its flags HOLDOFF alone written anew. -/
theorem CellLink.place_flags (m : CellMsg) (k : CellLink) : ∃ flags : CellFlags, flags.locked = m.flags.locked
    ∧ ({ body := m.body, flags } : CellMsg) ∈ (k.place m).sending.toList ++ (k.place m).list := by
  by_cases idle : k.sending = none
  · cases waiting : k.list with
    | nil =>
      refine ⟨{ m.flags with holdoff := false }, rfl, ?_⟩
      rw [CellLink.place_idle idle waiting]
      exact List.mem_append_left _ (List.mem_singleton.2 rfl)
    | cons x rest =>
      refine ⟨m.flags, rfl, List.mem_append_right _ ?_⟩
      rw [CellLink.place_waiting idle waiting]
      exact List.mem_append_right _ (List.mem_singleton.2 rfl)
  · refine ⟨m.flags, rfl, List.mem_append_right _ ?_⟩
    rw [CellLink.place_busy idle]
    exact List.mem_append_right _ (List.mem_singleton.2 rfl)

/-- The LOCKED flag of a message is the lockout of the moment it is placed. -/
theorem Live.place_locked (c : Setup) (b : CellBody) (l : Live) : ∃ flags : CellFlags, flags.locked = c.lockout
    ∧ ({ body := b, flags } : CellMsg) ∈ (l.place c b).cell.sending.toList ++ (l.place c b).cell.list :=
  l.cell.place_flags { body := b, flags := flagsAtPlacement c l }

/-! ### The stocks at a RELOAD (R98) -/

/-- A rivet's scrapping changes links and notices alone. -/
theorem Live.scrap_eq (c : Setup) (i : LaneId) (n : Nat) (l : Live) :
    l.scrap c i n = { l with heads := (l.scrap c i n).heads, notices := (l.scrap c i n).notices } := by
  cases mapped : c.tables.lanes[i].slot with
  | none => rw [Live.scrap_unmapped mapped]
  | some h =>
    rw [Live.scrap_mapped mapped]
    split
    · rw [Live.queueDiscard_eq]
      rfl
    · rfl

theorem Live.scrapAll_eq (c : Setup) (i : LaneId) (rs : List Rivet) (l : Live) :
    ∃ heads notices, rs.foldl (fun l r => l.scrap c i r.serial) l = { l with heads, notices } := by
  induction rs generalizing l with
  | nil => exact ⟨_, _, rfl⟩
  | cons r rest ih =>
    obtain ⟨heads, notices, all⟩ := ih (l.scrap c i r.serial)
    rw [List.foldl_cons, all, Live.scrap_eq]
    exact ⟨_, _, rfl⟩

/-- An emptied stock leaves of its lane the heat, the cadence timer and the fault record. -/
theorem Live.emptyStock_eq (c : Setup) (i : LaneId) (l : Live) : ∃ heads notices, l.emptyStock c i =
    { l.updLane i (fun x => { x with stock := [], late := false }) with heads, notices } :=
  Live.scrapAll_eq c i _ _

theorem Live.emptyStocks_eq (c : Setup) (l : Live) : ∃ heads notices, (l.emptyStock c 0).emptyStock c 1 =
    { l with heads, notices, lanes := vmap (fun x : Lane => { x with stock := [], late := false }) l.lanes } := by
  obtain ⟨heads, notices, first⟩ := Live.emptyStock_eq c 0 l
  obtain ⟨heads', notices', second⟩ := Live.emptyStock_eq c 1 (l.emptyStock c 0)
  have both : vmod (vmod l.lanes 0 fun x => { x with stock := [], late := false }) 1
      (fun x => { x with stock := [], late := false }) =
        vmap (fun x : Lane => { x with stock := [], late := false }) l.lanes := by
    apply vector_ext
    intro j
    rw [vmod_get, vmod_get, vmod_get, vmap_get]
    match j with
    | 0 => rfl
    | 1 => rfl
  rw [second, first]
  exact ⟨heads', notices', congrArg (fun lanes => { l with heads := heads', notices := notices', lanes }) both⟩

/-! ### RELOAD and RESTART (R192, R194) -/

theorem reload_eq (w : Weighed s) (plain : Plain h 4) : exec (.reload h) s = .next (
    if s.setup.mode ≠ .standby then answered s h (.refused .wrongMode)
    else if !s.live.pool.isEmpty then answered s h (.refused .inUse)
    else if s.setup.store.writing.isSome then answered s h (.refused .busy)
    else ({ closed s with
        setup := s.setup.emptyPatterns.beginPreload
        live := ((closed s).live.emptyStock s.setup 0).emptyStock s.setup 1 } : State).place (.answer h.tag .ok)) := by
  rw [show exec (.reload h) s = execReload h s from rfl, execReload, manage_taken w plain (by simp)]
  rfl

theorem reload_refuses (w : Weighed s) (plain : Plain h 4) {r : Reason}
    (first : firstReason
        [ (s.setup.mode != .standby, .wrongMode), (!s.live.pool.isEmpty, .inUse),
          (s.setup.store.writing.isSome, .busy) ] = some r) :
    exec (.reload h) s = .next (answered s h (.refused r)) := by
  rw [reload_eq w plain]
  obtain ⟨mode, rfl⟩ | ⟨standby, first⟩ := firstReason_head first
  · rw [if_pos (by simpa using mode)]
  rw [if_neg (by simpa using standby)]
  obtain ⟨orders, rfl⟩ | ⟨none_, first⟩ := firstReason_head first
  · rw [if_pos orders]
  rw [if_neg (Bool.eq_false_iff.1 none_)]
  obtain ⟨writing, rfl⟩ | ⟨-, first⟩ := firstReason_head first
  · rw [if_pos writing]
  · exact absurd first firstReason_nil

theorem reload_begins (w : Weighed s) (plain : Plain h 4) (standby : s.setup.mode = .standby) (empty : s.live.pool = [])
    (idle : s.setup.store.writing = none) : exec (.reload h) s = .next
      (({ closed s with
        setup := s.setup.emptyPatterns.beginPreload
        live := ((closed s).live.emptyStock s.setup 0).emptyStock s.setup 1 } : State).place (.answer h.tag .ok)) := by
  rw [reload_eq w plain, if_neg (not_not_intro standby), if_neg (by simp [empty]), if_neg (by simp [idle])]

theorem restart_eq (w : Weighed s) (plain : Plain h 4) : exec (.restart h) s = .next (
    if s.setup.store.writing.isSome then answered s h (.refused .busy)
    else ({ closed s with setup := { s.setup with restart := .taken h.tag } } : State).placeRestartAnswer) := by
  rw [show exec (.restart h) s = execRestart h s from rfl, execRestart, manage_taken w plain (by simp)]
  rfl

end Locks

/-- Settles O59: UNLOCK at once, RELOAD by its checks, RESTART by the store and the outbound list. -/
theorem lockMessages : Obligations.LockMessages := by
  intro h s w plain
  refine ⟨⟨_, ?_, rfl, Live.place_locked { s.setup with lockout := false } _ _⟩,
    ⟨fun r => reload_refuses w plain, fun passes => ?_⟩, fun busy => ?_, fun idle => ⟨fun empty => ?_, fun waiting => ?_⟩⟩
  · rw [show exec (.unlock h) s = execUnlock h s from rfl, execUnlock, manage_taken w plain (by simp)]
    rfl
  · dsimp only
    obtain ⟨standby, empty, idle⟩ : s.setup.mode = .standby ∧ s.live.pool = [] ∧ s.setup.store.writing = none := by
      simpa [firstReason_eq_none, forall_and] using passes
    obtain ⟨heads, notices, emptied⟩ := Live.emptyStocks_eq s.setup (closed s).live
    have scraps (i : LaneId) (l : Live) : l.emptyStock s.setup i = l.lanes[i].stock.foldl (fun l r =>
        match s.setup.tables.lanes[i].slot with
        | none => l
        | some j => (if l.slots[j].state.joined = true then l.queueDiscard s.setup j r.serial else l).postSlot j
            .rivetScrapped (.lane i)) (l.updLane i fun x => { x with stock := [], late := false }) := by
      unfold Live.emptyStock
      congr 1
      funext l r
      cases mapped : s.setup.tables.lanes[i].slot with
      | none => exact Live.scrap_unmapped mapped
      | some j => exact Live.scrap_mapped mapped
    refine ⟨_, reload_begins w plain standby empty idle, ?_, rfl, ?_, ?_, ?_, ?_, fun i => ?_,
      Live.place_locked s.setup.emptyPatterns.beginPreload _ _⟩
    · rw [scraps, scraps]
      rfl
    all_goals rw [State.place_live, emptied]
    · exact empty
    · rfl
    · rfl
    · rfl
    · simp
  · rw [restart_eq w plain, if_pos busy]
  · rw [restart_eq w plain, if_neg (by simp [idle])]
    exact congrArg _ (State.placeRestartAnswer_empty rfl empty)
  · rw [restart_eq w plain, if_neg (by simp [idle])]
    exact congrArg _ (State.placeRestartAnswer_waits waiting)

end Sys2Proof.Machine
end

section
/-! PROOFS. TABLE WRITE ZONE (O36). -/

namespace Sys2Proof.Machine

open Sys2Proof.Safety

section ZoneWrites

variable {h : Header} {zone slot channel : Nat} {s : State} {c : Setup} {l : Live} {z : ZoneId} {e : Option ZoneMap}

/-! ### The checks of R101 -/

/-- A test of the slot and channel that an entry names, where a module has joined there (R101 checks 5 and 6). -/
def Live.joinedModule (l : Live) (e : Option ZoneMap) (p : SlotId → Nat → Bool) : Bool :=
  e.any fun m => l.slots[m.slot].state.joined && p m.slot m.channel

/-- The checks on the joined module alone. -/
def moduleChecks (l : Live) (e : Option ZoneMap) : List (Bool × Reason) :=
  [ (l.joinedModule e fun i _ => l.slots[i].channels?.isNone, .wrongKind),
    (l.joinedModule e fun i n => l.slots[i].channels?.any fun k => decide (k < n), .channels) ]

/-- The checks of R101 on an entry within its ranges, each with its reason. -/
def zoneWriteChecks (c : Setup) (l : Live) (z : ZoneId) (e : Option ZoneMap) : List (Bool × Reason) :=
  [ (c.frame.isSome, .frameBound),
    (decide (c.tables.zones[z] ≠ e)
      && l.pool.any (fun o => (o.kind == .clamp || o.kind == .unclamp) && o.target == .zone z), .inUse),
    (zoneTaken c.tables.zones z e, .badValue) ] ++ moduleChecks l e

theorem Live.zoneOrdered_eq : l.zoneOrdered z =
    l.pool.any fun o => (o.kind == .clamp || o.kind == .unclamp) && o.target == .zone z := by
  simp only [Live.zoneOrdered, OrderKind.zoneKind_eq]

/-- An entry that names a slot where no module has joined meets no check of a module. -/
theorem moduleChecks_unjoined {m : ZoneMap} (away : l.slots[m.slot].state.joined = false) :
    firstReason (moduleChecks l (some m)) = none := by
  simp only [moduleChecks, Live.joinedModule, Option.any_some, away, Bool.false_and]
  rfl

/-- A joined head that declared no channels is no CLAMP module; one that declared too few refuses the channel. -/
theorem moduleChecks_joined {m : ZoneMap} (joined : l.slots[m.slot].state.joined = true) :
    firstReason (moduleChecks l (some m)) = match l.slots[m.slot].channels? with
      | none => some .wrongKind
      | some n => if n < m.channel then some .channels else none := by
  simp only [moduleChecks, Live.joinedModule, Option.any_some, joined, Bool.true_and, firstReason_cons]
  cases l.slots[m.slot].channels? with
  | none => rfl
  | some n => simp [firstReason]

theorem zoneWriteReason_eq : zoneWriteReason c l z e = firstReason (zoneWriteChecks c l z e) := by
  simp only [zoneWriteReason, zoneWriteChecks, List.cons_append, List.nil_append, firstReason_cons, Bool.and_eq_true,
    decide_eq_true_eq, ← Live.zoneOrdered_eq]
  congr 3
  cases e with
  | none => rfl
  | some m =>
    dsimp only
    cases joined : l.slots[m.slot].state.joined with
    | false => exact (moduleChecks_unjoined joined).symm
    | true =>
      rw [moduleChecks_joined joined, Slot.channels?]
      cases l.slots[m.slot].head.map Joined.declared with
      | none => rfl
      | some d => cases d <;> rfl

/-! ### The write -/

/-- The state once a changed entry stands in the table and its zone is UNKNOWN (R101, R112). -/
def State.remapZone (z : ZoneId) (e : Option ZoneMap) (s : State) : State :=
  { s.withTables { s.setup.tables with zones := s.setup.tables.zones.set z e } with live := s.live.forgetZone z }

theorem tableWriteZone_eq (w : Weighed s) (own : Selects h 3 7) (entry : zoneEntryOf zone slot channel = some (z, e)) :
    exec (.tableWriteZone h zone slot channel) s = .next (match firstReason (zoneWriteChecks s.setup s.live z e) with
      | some r => answered s h (.refused r)
      | none =>
        if s.setup.tables.zones[z] = e then answered s h (.zoneWritten s.live.zones[z].state)
        else
          let a := answered (s.remapZone z e) h (.zoneWritten .unknown)
          if s.live.zones[z].state = .unknown then a else settled (s.remapZone z e) (Taking.start a.live).wakeGate) := by
  rw [show exec (.tableWriteZone h zone slot channel) s = execTableWriteZone h zone slot channel s from rfl,
    execTableWriteZone, tableWrite_taken w own, entry, ← zoneWriteReason_eq]
  refine congrArg _ ?_
  dsimp only
  rw [show zoneWriteReason (closed s).setup (closed s).live z e = zoneWriteReason s.setup s.live z e from rfl]
  cases zoneWriteReason s.setup s.live z e with
  | some r => rfl
  | none =>
    by_cases same : s.setup.tables.zones[z] = e
    · exact (if_pos same).trans (if_pos same).symm
    · refine (if_neg same).trans (Eq.trans ?_ (if_neg same).symm)
      by_cases unknown : s.live.zones[z].state = .unknown
      · exact (if_neg (mt of_decide_eq_true (not_not_intro unknown))).trans (if_pos unknown).symm
      · exact (if_pos (decide_eq_true unknown)).trans (if_neg unknown).symm

theorem tableWriteZone_outOfRange (w : Weighed s) (own : Selects h 3 7) (bad : zoneEntryOf zone slot channel = none) :
    exec (.tableWriteZone h zone slot channel) s = .next (answered s h (.refused .badValue)) := by
  rw [show exec (.tableWriteZone h zone slot channel) s = execTableWriteZone h zone slot channel s from rfl,
    execTableWriteZone, tableWrite_taken w own, bad]
  rfl

end ZoneWrites

/-- Settles O36: the entries by their codes, then the first check that refuses the entry, or the entry as it stands or
changed. -/
theorem zoneWrite : Obligations.ZoneWrite := by
  refine ⟨fun _ _ _ _ _ => zoneEntryOf_eq_some, fun h zone slot channel s w own =>
    ⟨tableWriteZone_outOfRange w own, fun z e entry => ⟨fun r first => ?_, fun passes same => ?_, fun passes changed => ?_⟩⟩⟩
  all_goals rw [tableWriteZone_eq w own entry]
  · rw [show firstReason (zoneWriteChecks s.setup s.live z e) = some r from first]
  · rw [show firstReason (zoneWriteChecks s.setup s.live z e) = none from passes]
    exact congrArg _ (if_pos same)
  · rw [show firstReason (zoneWriteChecks s.setup s.live z e) = none from passes]
    exact congrArg _ (if_neg changed)

end Sys2Proof.Machine
end

section
/-! PROOFS. The head links: the choice of the next message, the lists, the frames, and the bytes for the heads (O41, O56). -/

namespace Sys2Proof.Machine

open Sys2Proof.Safety

section HeadLinks

variable {c : Setup} {l : Live} {slot : SlotId} {m : HeadMsg} {list rest : List HeadMsg} {k hs : Nat} {s : State}

/-! ### The choice of the next message (R176) -/

theorem HeadMsg.cls_bounds (m : HeadMsg) : 1 ≤ m.cls ∧ m.cls ≤ 3 := by cases m <;> simp [HeadMsg.cls]

/-- The message of a class that is taken is the oldest of it, and the others keep their order. -/
theorem takeClass_split (found : takeClass k list = some (m, rest)) :
    ∃ older younger, list = older ++ m :: younger ∧ rest = older ++ younger ∧ ∀ x ∈ older, x.cls ≠ k := by
  induction list generalizing rest with
  | nil => cases found
  | cons y ys ih =>
    unfold takeClass at found
    split at found
    · cases found
      exact ⟨[], _, rfl, rfl, fun x none => by cases none⟩
    next other =>
      split at found
      · cases found
      next taken =>
        cases found
        obtain ⟨older, younger, rfl, rfl, apart⟩ := ih taken
        exact ⟨y :: older, younger, rfl, rfl, List.forall_mem_cons.2 ⟨other, apart⟩⟩

theorem takeClass_eq_none : takeClass k list = none ↔ ∀ x ∈ list, x.cls ≠ k := by
  refine ⟨fun none x place same => ?_, fun other => Option.eq_none_iff_forall_ne_some.2 fun ⟨x, rest⟩ found => ?_⟩
  · rw [← Option.isNone_iff_eq_none, Option.isNone_eq_false_iff.2 (Live.takeClass_isSome place same)] at none
    exact Bool.false_ne_true none
  · obtain ⟨older, younger, rfl, -⟩ := takeClass_split found
    exact other x (List.mem_append_right _ List.mem_cons_self) (Live.takeClass_cls found)

/-- The class chosen is the highest that has a message (R176). -/
theorem chooseHead_class (found : chooseHead list = some (m, rest)) :
    takeClass m.cls list = some (m, rest) ∧ ∀ x ∈ list, m.cls ≤ x.cls := by
  unfold chooseHead at found
  split at found
  next taken =>
    cases found
    rw [Live.takeClass_cls taken]
    exact ⟨taken, fun x _ => x.cls_bounds.1⟩
  next first =>
    have above := takeClass_eq_none.1 first
    split at found
    next taken =>
      cases found
      rw [Live.takeClass_cls taken]
      exact ⟨taken, fun x place => Nat.lt_of_le_of_ne x.cls_bounds.1 (above x place).symm⟩
    next second =>
      rw [Live.takeClass_cls found]
      refine ⟨found, fun x place => ?_⟩
      have low := x.cls_bounds.1
      have not1 := above x place
      have not2 := takeClass_eq_none.1 second x place
      omega

theorem chooseHead_eq_none : chooseHead list = none ↔ list = [] := by
  refine ⟨fun none => List.eq_nil_iff_forall_not_mem.2 fun x place => ?_, fun empty => empty ▸ rfl⟩
  unfold chooseHead at none
  split at none
  · cases none
  next first =>
    split at none
    · cases none
    next second =>
      have bounds := x.cls_bounds
      have not1 := takeClass_eq_none.1 first x place
      have not2 := takeClass_eq_none.1 second x place
      have not3 := takeClass_eq_none.1 none x place
      omega

/-- The oldest message of the highest class is chosen, and the others keep their order (R176). -/
theorem chooseHead_split (found : chooseHead list = some (m, rest)) :
    ∃ older younger, list = older ++ m :: younger ∧ rest = older ++ younger
      ∧ (∀ x ∈ older, m.cls < x.cls) ∧ ∀ x ∈ younger, m.cls ≤ x.cls := by
  obtain ⟨taken, highest⟩ := chooseHead_class found
  obtain ⟨older, younger, rfl, rfl, apart⟩ := takeClass_split taken
  exact ⟨older, younger, rfl, rfl,
    fun x place => Nat.lt_of_le_of_ne (highest x (List.mem_append_left _ place)) (apart x place).symm,
    fun x place => highest x (List.mem_append_right _ (List.mem_cons_of_mem _ place))⟩

/-! ### Transmissions (R176, R194) -/

theorem Live.updHead_self {f : HeadLink → HeadLink} : (l.updHead slot f).heads[slot] = f l.heads[slot] :=
  vmod_get_self _ _ _

theorem Live.updHead_updHead {f g : HeadLink → HeadLink} :
    (l.updHead slot f).updHead slot g = l.updHead slot fun k => g (f k) := by
  rw [Live.updHead, Live.updHead_heads, vmod_vmod]
  rfl

theorem Live.updHead_congr {f g : HeadLink → HeadLink} (same : f l.heads[slot] = g l.heads[slot]) :
    l.updHead slot f = l.updHead slot g := by
  rw [Live.updHead, vmod_congr _ _ same]
  rfl

theorem Live.beginHead_busy (busy : c.headHold ≠ none ∨ l.heads[slot].sending ≠ none) : l.beginHead c slot = l := by
  unfold Live.beginHead
  split
  next free idle _ => exact busy.elim (absurd free) (absurd idle)
  next => rfl

theorem Live.beginHead_empty (empty : l.heads[slot].list = []) : l.beginHead c slot = l := by
  unfold Live.beginHead
  rw [empty]
  split
  next chosen => cases chosen
  next => rfl

theorem Live.beginHead_chosen (free : c.headHold = none) (idle : l.heads[slot].sending = none)
    (chosen : chooseHead l.heads[slot].list = some (m, rest)) :
    l.beginHead c slot = (l.updHead slot fun k => { k with list := rest, sending := some m }).markSent slot m := by
  unfold Live.beginHead
  rw [free, idle, chosen]

theorem headSent_idle (held : s.setup.resetHeld = false) (idle : s.live.heads[slot].sending = none) :
    exec (.headSentEvent slot) s = .next s := by
  show execHeadSentEvent slot s = _
  rw [execHeadSentEvent, event_taken held, idle]

theorem headSent_begins (held : s.setup.resetHeld = false) (sending : s.live.heads[slot].sending = some m) :
    exec (.headSentEvent slot) s = .next { s with live :=
      (s.live.updHead slot fun k => { k with sending := none }).beginHead s.setup slot } := by
  show execHeadSentEvent slot s = _
  rw [execHeadSentEvent, event_taken held, sending]

/-! ### Queuing (R119, R175) -/

theorem Live.queue_busy (busy : c.headHold ≠ none ∨ l.heads[slot].sending ≠ none) :
    l.queue c slot m = l.updHead slot fun k => { k with list := k.list ++ [m] } :=
  Live.beginHead_busy (busy.imp_right fun sending => by rwa [Live.updHead_self])

/-- On an idle link a message begins at once. -/
theorem Live.queue_idle (free : c.headHold = none) (idle : l.heads[slot].sending = none) (empty : l.heads[slot].list = []) :
    l.queue c slot m = (l.updHead slot fun k => { k with sending := some m }).markSent slot m := by
  have chosen : chooseHead (l.heads[slot].list ++ [m]) = some (m, []) := by rw [empty]; cases m <;> rfl
  unfold Live.queue
  rw [Live.beginHead_chosen free (by rwa [Live.updHead_self]) (by rwa [Live.updHead_self]), Live.updHead_updHead]
  refine congrArg (Live.markSent slot m) (Live.updHead_congr ?_)
  dsimp only
  rw [← empty]

theorem Live.markSent_other (other : m.cls ≠ 3) : l.markSent slot m = l := by
  cases m with
  | issue => exact absurd rfl other
  | travel => exact absurd rfl other
  | _ => rfl

theorem Live.markSent_issue {tag : Nat} {body : IssueBody} (named : tag ≠ 0) :
    l.markSent slot (.issue tag body) = l.updOrder tag fun o => { o with issueMark := some .sent } := by
  cases tag with
  | zero => exact absurd rfl named
  | succ => rfl

theorem HeadMsg.isToolSync_iff : m.isToolSync = true ↔ ∃ id limit count, m = .toolSync id limit count := by
  cases m <;> simp [HeadMsg.isToolSync]

/-- WELCOME and REJOIN are the messages of class 2 besides TOOL SYNC (R119, R176). -/
theorem HeadMsg.joins_iff : (m.cls = 2 ∧ m.isToolSync = false) ↔
    (∃ kind body, m = .welcome kind body) ∨ ∃ reason, m = .rejoin reason := by
  cases m <;> simp [HeadMsg.cls, HeadMsg.isToolSync]

/-- A TOOL SYNC gives way to an unsent WELCOME or REJOIN (R119). -/
theorem Live.queueJoin_givesWay (sync : m.isToolSync = true)
    (join : ∃ x ∈ l.heads[slot].list, x.cls = 2 ∧ x.isToolSync = false) : l.queueJoin c slot m = l := by
  obtain ⟨x, place, cls, other⟩ := join
  refine if_pos (Bool.and_eq_true_iff.2 ⟨sync, List.any_eq_true.2 ⟨x, place, ?_⟩⟩)
  simp [cls, other]

/-- Any other message of the three takes the place of the unsent one (R119). -/
theorem Live.queueJoin_replaces
    (stands : m.isToolSync = true → ∀ x ∈ l.heads[slot].list, x.cls = 2 → x.isToolSync = true) :
    l.queueJoin c slot m = (l.unqueue slot fun x => x.cls == 2).queue c slot m := by
  refine if_neg fun gives => ?_
  obtain ⟨sync, some⟩ := Bool.and_eq_true_iff.1 gives
  obtain ⟨x, place, hit⟩ := List.any_eq_true.1 some
  obtain ⟨cls, other⟩ : x.cls = 2 ∧ x.isToolSync = false := by simpa using hit
  exact Bool.false_ne_true (other.symm.trans (stands sync x place cls))

/-! ### The lamp (R125) -/

theorem Live.syncLamp_same (same : aspectOf l.slots[slot].lamp l.slots[slot].state = l.slots[slot].aspect) :
    l.syncLamp c slot = l := if_pos same

/-- A new aspect is recorded, and LAMP queued but in EMPTY. -/
theorem Live.syncLamp_changed (changed : aspectOf l.slots[slot].lamp l.slots[slot].state ≠ l.slots[slot].aspect) :
    let shown := l.updSlot slot fun x => { x with aspect := aspectOf l.slots[slot].lamp l.slots[slot].state }
    l.syncLamp c slot = if l.slots[slot].state = .empty then shown else shown.queueLamp c slot := by
  intro shown
  have state : shown.slots[slot].state = l.slots[slot].state := by
    simp only [shown, Live.updSlot_slots, vmod_get_self]
  exact (if_neg changed).trans (if_congr (by rw [state]) rfl rfl)

/-! ### Frames (R173, R174) -/

/-- What a good frame leaves of its link: the silence timer in full on a link that is UP, the receiver outside a frame, the
head state kept. -/
theorem Live.headFrame_eq : l.headFrame slot hs = l.updHead slot fun k => { k with
    silence := if k.up = true then some 250 else k.silence
    rx := { state := .outside, content := [], discarding := false }
    status := if 3 < hs then { k.status with headState := some hs }.record .protocol
      else { k.status with headState := some hs } } := by
  unfold Live.headFrame Live.heard Live.headError
  by_cases strange : 3 < hs
  all_goals
    simp only [strange, if_true, if_false, Live.updHead_updHead]
    refine Live.updHead_congr ?_
    split <;> rfl

theorem setAside_taken {cause : SetAsideCause} (held : s.setup.resetHeld = false) :
    exec (.headMessageSetAside slot hs cause) s = .next (setAside s slot hs) :=
  event_taken (take := fun s => { s with live := (s.live.headFrame slot hs).headError slot .protocol }) held

theorem setAside_eq : setAside s slot hs = { s with live := s.live.updHead slot fun k => { k with
    silence := if k.up = true then some 250 else k.silence
    rx := { state := .outside, content := [], discarding := false }
    status := (if 3 < hs then { k.status with headState := some hs }.record .protocol
      else { k.status with headState := some hs }).record .protocol } } := by
  unfold setAside framed
  rw [Live.headFrame_eq, Live.headError, Live.updHead_updHead]

/-! ### Bytes (section 9.6) -/

theorem Aspect.code_eq (a : Aspect) : a.code = [Aspect.off, .steady, .blink].idxOf a := by cases a <;> rfl

theorem RejoinReason.code_refused (x : JoinReason) : (RejoinReason.refused x).code =
    [JoinReason.badHello, .kindMismatch, .positionConflict, .laneTaken, .channels].idxOf x + 1 := by cases x <;> rfl

end HeadLinks

/-- Settles O56: the frame, the layouts by the codes they carry, the lamp, the choice, and what a queued message finds. -/
theorem headLinkEvents : Obligations.HeadLinkEvents := by
  refine ⟨fun slot hs cause s held => setAside_taken held, fun slot hs s => ⟨Live.headFrame_eq, setAside_eq⟩, ?_, ?_,
    fun list => ⟨chooseHead_eq_none, fun m rest => chooseHead_split⟩, ?_, ?_⟩
  · intro slot tag hole centre offset plies grip diameter cls feed force serial channel id limit count kind lane zone a r
      b w at_ code
    have kinds : byte1 kind.code = [code] := by rw [OrderKind.code_eq]; rfl
    refine ⟨?_, rfl, rfl, ?_, rfl, rfl, rfl, ?_, ?_, rfl⟩
    · simp only [HeadMsg.bytes, IssueBody.bytes, kinds]
      rfl
    · simp only [HeadMsg.bytes, IssueBody.bytes, kinds]
      rfl
    · simp only [HeadMsg.bytes, Aspect.code_eq]
      rfl
    · cases r with
      | refused x =>
        simp only [HeadMsg.bytes, RejoinReason.code_refused]
        rfl
      | preload => rfl
      | cleared => rfl
  · intro c slot l x k a shown
    have aspect : aspectOf x.lamp x.state = a := aspectOf_eq _ _
    have changed (differs : a ≠ x.aspect) :
        l.syncLamp c slot = if x.state = .empty then shown else shown.queueLamp c slot :=
      (Live.syncLamp_changed (aspect ▸ differs)).trans (by rw [aspect]; rfl)
    exact ⟨rfl, fun same => Live.syncLamp_same (aspect.trans same),
      fun differs empty => (changed differs).trans (if_pos empty),
      fun differs present => (changed differs).trans (if_neg present)⟩
  · intro slot s held
    refine ⟨headSent_idle held, ?_⟩
    intro m sending idle
    have link : idle.heads[slot] = { s.live.heads[slot] with sending := none } := Live.updHead_self
    rw [headSent_begins held sending]
    refine ⟨fun stays => ?_, fun free x rest chosen => ?_⟩
    · obtain hold | empty := stays
      · rw [Live.beginHead_busy (.inl hold)]
      · rw [Live.beginHead_empty (by rw [link]; exact empty)]
    · rw [Live.beginHead_chosen free (by rw [link]) (by rw [link]; exact chosen)]
  · intro c slot m l k joins
    refine ⟨Live.queue_busy, Live.queue_idle, ?_, ?_, ?_, Live.markSent_other, fun serial => rfl, ?_, ?_⟩
    · rintro tag body rfl named
      exact Live.markSent_issue named
    · rintro tag centre rfl
      rfl
    · rintro body rfl i
      exact vmap_get _ _ i
    · rintro id limit count rfl ⟨x, place, join⟩
      exact Live.queueJoin_givesWay rfl ⟨x, place, HeadMsg.joins_iff.2 join⟩
    · intro join
      refine Live.queueJoin_replaces fun sync x place cls => ?_
      obtain welcome | rejoin | ⟨-, only⟩ := join
      · exact absurd sync (Bool.eq_false_iff.1 (HeadMsg.joins_iff.2 (.inl welcome)).2)
      · exact absurd sync (Bool.eq_false_iff.1 (HeadMsg.joins_iff.2 (.inr rejoin)).2)
      · exact HeadMsg.isToolSync_iff.2 (only x place cls)

/-! ### A link comes up (R115, R173) -/

section LinkUp

variable {c : Setup} {l : Live} {slot : SlotId}

theorem aspectOf_joining (v : LampSetting) : aspectOf v .joining = if v = .forceOn then .steady else .off := by
  cases v <;> rfl

theorem Live.lineByte_up (up : l.heads[slot].up = true) :
    l.lineByte c slot = l.updHead slot fun k => { k with silence := some 250 } := by
  unfold Live.lineByte
  rw [if_pos up]
  exact Live.updHead_congr (if_pos up)

theorem Live.lineByte_down (down : l.heads[slot].up = false) : l.lineByte c slot = l.linkUp c slot := by
  unfold Live.lineByte
  rw [if_neg (Bool.eq_false_iff.1 down)]

/-- LINK_UP and LINE_ACTIVITY are one byte on the link each. -/
theorem lineByte_taken {i : Instr} {s : State} (held : s.setup.resetHeld = false)
    (byte : i = .linkUp slot ∨ i = .lineActivity slot) :
    exec i s = .next { s with live := s.live.lineByte s.setup slot } := by
  obtain rfl | rfl := byte
  all_goals exact event_taken (take := fun s => { s with live := s.live.lineByte s.setup slot }) held

end LinkUp

/-- Settles O41: one byte on a link that is UP, and one on a link that is DOWN. -/
theorem linkComesUp : Obligations.LinkComesUp := by
  intro slot i s held byte
  rw [lineByte_taken held byte]
  refine ⟨fun up => ?_, fun down => ?_⟩
  · rw [Live.lineByte_up up]
  · rw [Live.lineByte_down down, Live.linkUp]
    simp only [aspectOf_joining]

end Sys2Proof.Machine
end

section
/-! PROOFS. The checks of a HELLO in their order (O44). -/

namespace Sys2Proof.Machine

open Sys2Proof.Safety

section HelloChecks

variable {c : Setup} {l : Live} {slot : SlotId} {b : HelloBody} {bad kind position lane channels : Prop}

/-- A check that is spelled out fails when what it spells does not hold. -/
theorem bool_not_iff {x : Bool} {p : Prop} (h : x = true ↔ p) : (!x) = true ↔ ¬ p := by
  rw [Bool.not_eq_true', Bool.eq_false_iff, ne_eq, h]

/-- Another kind of head is expected in the slot (R117 check 2). -/
theorem kindMismatch_iff (k : HeadKind) : ((c.tables.slots[slot].expected).any fun e => some k != some e) = true ↔
    ∃ e, c.tables.slots[slot].expected = some e ∧ e ≠ k := by
  simp only [Option.any_eq_true, bne_iff_ne, ne_eq, Option.some.injEq, eq_comm (a := k)]

/-- The first check that fails gives the reason (R117): each check spelled out as the rule that it states. -/
theorem helloReason_first (isBad : helloBad b = true ↔ bad)
    (isKind : ((c.tables.slots[slot].expected).any fun e => helloKind b != some e) = true ↔ kind)
    (isPosition : (!l.helloPosition slot b) = true ↔ position) (isLane : (!c.helloLane slot b) = true ↔ lane)
    (isChannels : (!c.helloChannels slot b) = true ↔ channels) :
    (bad → helloReason c l slot b = some .badHello)
      ∧ (¬ bad → kind → helloReason c l slot b = some .kindMismatch)
      ∧ (¬ bad → ¬ kind → position → helloReason c l slot b = some .positionConflict)
      ∧ (¬ bad → ¬ kind → ¬ position → lane → helloReason c l slot b = some .laneTaken)
      ∧ (¬ bad → ¬ kind → ¬ position → ¬ lane → channels → helloReason c l slot b = some .channels)
      ∧ (¬ bad → ¬ kind → ¬ position → ¬ lane → ¬ channels → helloReason c l slot b = none) := by
  obtain rfl := propext isBad
  obtain rfl := propext isKind
  obtain rfl := propext isPosition
  obtain rfl := propext isLane
  obtain rfl := propext isChannels
  unfold helloReason
  refine ⟨fun h1 => if_pos h1, fun h1 h2 => ?_, fun h1 h2 h3 => ?_, fun h1 h2 h3 h4 => ?_, fun h1 h2 h3 h4 h5 => ?_,
    fun h1 h2 h3 h4 h5 => ?_⟩
  · rw [if_neg h1, if_pos h2]
  · rw [if_neg h1, if_neg h2, if_pos h3]
  · rw [if_neg h1, if_neg h2, if_neg h3, if_pos h4]
  · rw [if_neg h1, if_neg h2, if_neg h3, if_neg h4, if_pos h5]
  · rw [if_neg h1, if_neg h2, if_neg h3, if_neg h4, if_neg h5]

/-- The position check of R58. -/
theorem Live.positionOk_iff {rail : Option Rail} {centre : Nat} : l.positionOk slot rail centre = true ↔
    ∃ r, rail = some r ∧ centre ≤ 15
      ∧ (∀ g, l.holdings[slot] = some g → g.rail = r)
      ∧ ∀ x : SlotId, x ≠ slot → ∀ g, l.holdings[x] = some g → g.rail = r →
        ¬ (g.run.first ≤ (span centre).last ∧ (span centre).first ≤ g.run.last) := by
  cases rail with
  | none => simp [Live.positionOk]
  | some r =>
    simp only [Live.positionOk, Bool.and_eq_true, Bool.not_eq_true', Live.blocked_eq_false_iff, decide_eq_true_eq,
      Option.all_eq_true, beq_iff_eq, and_assoc, Option.some.injEq, exists_eq_left']

/-- The lane check of R81. -/
theorem Setup.laneOk_iff {i : LaneId} : c.laneOk slot i = true ↔
    c.tables.lanes[i].slot = some slot
      ∨ (c.tables.lanes[i].slot = none ∧ ∀ j : LaneId, j ≠ i → c.tables.lanes[j].slot ≠ some slot) := by
  simp only [Setup.laneOk, Bool.or_eq_true, Bool.and_eq_true, beq_iff_eq, bne_iff_ne, Option.isNone_iff_eq_none,
    ← otherLane_iff, forall_eq']

/-- The channel check of R104 fails. -/
theorem helloChannels_clamp (n : Nat) : (!c.helloChannels slot (.clamp n)) = true ↔
    n = 0 ∨ 4 < n ∨ ∃ z : ZoneId, ∃ m, c.tables.zones[z] = some m ∧ m.slot = slot ∧ n < m.channel := by
  have entries (p : Option ZoneMap → Bool) :
      c.tables.zones.toList.all p = true ↔ ∀ z : ZoneId, p c.tables.zones[z] = true := by
    simp [Fin.forall_iff]
  have fits : c.helloChannels slot (.clamp n) = true ↔
      (1 ≤ n ∧ n ≤ 4) ∧ ∀ z : ZoneId, ∀ m, c.tables.zones[z] = some m → m.slot ≠ slot ∨ m.channel ≤ n := by
    simp only [Setup.helloChannels, Bool.and_eq_true, decide_eq_true_eq, entries, Option.all_eq_true, Bool.or_eq_true,
      bne_iff_ne]
  rw [bool_not_iff fits]
  simp only [not_and_or, not_forall, not_or, not_not, Nat.not_le, Nat.lt_one_iff, or_assoc, exists_prop]

end HelloChecks

/-- Settles O44: for each kind of head the five checks, spelled out. -/
theorem helloChecks : Obligations.HelloChecks := by
  intro c l slot kinds meets placed first
  refine ⟨rfl, fun rail centre id limit count => ?_, fun rail centre => ?_, fun n none => ?_, fun n i named => ?_,
    fun n => ?_⟩
  · refine helloReason_first ?_ (kindMismatch_iff _) (bool_not_iff Live.positionOk_iff) ?_ ?_
    · simp only [helloBad, Bool.not_eq_true', Bool.and_eq_false_iff, decide_eq_false_iff_not]
      omega
    · simp [Setup.helloLane]
    · simp [Setup.helloChannels]
  · refine helloReason_first ?_ (kindMismatch_iff _) (bool_not_iff Live.positionOk_iff) ?_ ?_
    · simp [helloBad]
    · simp [Setup.helloLane]
    · simp [Setup.helloChannels]
  · exact if_pos (Option.isNone_iff_eq_none.2 none)
  · refine helloReason_first ?_ (kindMismatch_iff _) ?_ ?_ ?_
    · simp [helloBad, named]
    · simp [Live.helloPosition, Option.isSome_iff_ne_none]
    · rw [Setup.helloLane, named]
      exact bool_not_iff Setup.laneOk_iff
    · simp [Setup.helloChannels]
  · refine helloReason_first ?_ (kindMismatch_iff _) ?_ ?_ (helloChannels_clamp n)
    · simp [helloBad]
    · simp [Live.helloPosition, Option.isSome_iff_ne_none]
    · simp [Setup.helloLane]

end Sys2Proof.Machine
end

section
/-! PROOFS. HELLO, refused and accepted (O43). -/

namespace Sys2Proof.Machine

open Sys2Proof.Safety

/-! ### Messages for a head that are not yet through (R175, R176) -/

/-- A message for the head of a slot is on its outbound list or in transmission. -/
def Live.Bears (slot : SlotId) (m : HeadMsg) (l : Live) : Prop := m ∈ l.heads[slot].sending.toList ++ l.heads[slot].list

section Bears

variable {c : Setup} {l l' : Live} {slot : SlotId} {m x : HeadMsg}

theorem Live.Bears.congr (b : l.Bears slot m) (heads : l'.heads = l.heads) : l'.Bears slot m := by
  rwa [Live.Bears, heads]

theorem Live.Bears.unqueue {p : HeadMsg → Bool} (b : l.Bears slot m) (stays : p m = false) :
    (l.unqueue slot p).Bears slot m := by
  rw [Live.Bears, Live.unqueue_heads, vmod_get_self]
  exact (List.mem_append.1 b).elim (List.mem_append_left _)
    fun place => List.mem_append_right _ (List.mem_filter.2 ⟨place, by simp [stays]⟩)

theorem Live.Bears.queue (b : l.Bears slot m) : (l.queue c slot x).Bears slot m := by
  have b : m ∈ l.heads[slot].sending.toList ++ l.heads[slot].list := b
  rw [Live.Bears, Live.queue, Live.beginHead_head, Live.updHead_self]
  split
  next y rest _ idle chosen =>
    have place : m ∈ l.heads[slot].list := by rwa [show l.heads[slot].sending = none from idle] at b
    simpa using chooseHead_keeps chosen m (List.mem_append_left _ place)
  next => exact List.append_assoc .. ▸ List.mem_append_left _ b

theorem Live.Bears.syncLamp (b : l.Bears slot m) (other : m.isLamp = false) : (l.syncLamp c slot).Bears slot m := by
  by_cases same : aspectOf l.slots[slot].lamp l.slots[slot].state = l.slots[slot].aspect
  · rwa [Live.syncLamp_same same]
  · rw [Live.syncLamp_changed same]
    split
    · exact b.congr rfl
    · exact Live.Bears.queue (Live.Bears.unqueue (b.congr rfl) other)

theorem Live.queueJoin_welcome_bears {kind : HeadKind} {w : WelcomeBody} :
    (l.queueJoin c slot (.welcome kind w)).Bears slot (.welcome kind w) := Live.mem_queue _ _

end Bears

/-! ### The declared fields (R58, R81, R118) -/

section Fields

variable {c : Setup} {tables : Tables} {slot : SlotId} {i : LaneId} {b : HelloBody} {tool : Option Tool} {n : Nat}

theorem Tables.bindLane_heat : tables.bindLane slot (.heat i) = if tables.lanes[i].slot = none then
    { tables with lanes := tables.lanes.set i { tables.lanes[i] with slot := some slot } } else tables :=
  if_congr Option.isNone_iff_eq_none rfl rfl

/-- The binding names a slot, and nothing else of the lane's entry changes (R81). -/
theorem Tables.bindLane_lane : (tables.bindLane slot (.heat i)).lanes[i].cls = tables.lanes[i].cls
    ∧ (tables.bindLane slot (.heat i)).lanes[i].mode = tables.lanes[i].mode := by
  rw [Tables.bindLane_heat]
  split
  · simp only [vset_get, if_true, and_self]
  · exact ⟨rfl, rfl⟩

/-- The channel that a zone's entry gives the slot, with the zone. -/
def Tables.channelAt (tables : Tables) (slot : SlotId) (z : ZoneId) : Option (Nat × ZoneId) :=
  (tables.zones[z]).bind fun m => if m.slot = slot then some (m.channel, z) else none

theorem Tables.channelAt_iff {z : ZoneId} {p : Nat × ZoneId} : tables.channelAt slot z = some p ↔
    p.2 = z ∧ tables.zones[z] = some { slot, channel := p.1 } := by
  unfold Tables.channelAt
  cases tables.zones[z] with
  | none => simp
  | some m =>
    obtain ⟨own, channel⟩ := m
    obtain ⟨k, y⟩ := p
    by_cases same : own = slot
    · simp [same, eq_comm, and_comm]
    · simp [same]

theorem welcomeBody_clamp :
    welcomeBody c slot (.clamp n) tool = .clamp (allZones.filterMap (c.tables.channelAt slot)) := by
  refine congrArg WelcomeBody.clamp (congrArg (fun f => allZones.filterMap f) (funext fun z => ?_))
  rw [Tables.channelAt]
  cases c.tables.zones[z] <;> rfl

/-- The channels stand in the order of their zones' numbers. -/
theorem channels_sorted : (allZones.filterMap (tables.channelAt slot)).Pairwise fun p q => p.2 < q.2 := by
  refine (List.pairwise_lt_finRange 8).filterMap _ fun z y below p isP q isQ => ?_
  rw [(Tables.channelAt_iff.1 isP).1, (Tables.channelAt_iff.1 isQ).1]
  exact below

theorem mem_channels {p : Nat × ZoneId} : p ∈ allZones.filterMap (tables.channelAt slot) ↔
    tables.zones[p.2] = some { slot, channel := p.1 } := by
  rw [List.mem_filterMap]
  refine ⟨fun ⟨z, _, found⟩ => ?_, fun entry => ⟨p.2, mem_allZones _, Tables.channelAt_iff.2 ⟨rfl, entry⟩⟩⟩
  obtain ⟨rfl, entry⟩ := Tables.channelAt_iff.1 found
  exact entry

theorem helloTool_spent_iff : (helloTool b).any Tool.spent = true ↔
    ∃ rail centre id limit count, b = .drill rail centre id limit count ∧ limit ≤ count := by
  cases b <;> simp [helloTool]

end Fields

/-! ### An accepted HELLO step by step (R118) -/

section Welcome

variable {c : Setup} {t : Taking} {slot : SlotId} {revision : Nat} {d : Declared} {tool : Option Tool}

/-- The holding that declared fields give (R58). -/
def Declared.holding? : Declared → Option Holding
  | .drill r k => some { rail := r, run := span k }
  | .set r k => some { rail := r, run := span k }
  | _ => none

theorem Taking.placeHead_live : (t.placeHead slot d).live =
    d.holding?.elim t.live fun g => t.live.setHolding slot (some g) := by
  cases d with
  | heat => rfl
  | clamp => rfl
  | _ =>
    unfold Taking.placeHead
    dsimp only
    split
    · split
      · rfl
      · exact Taking.wakeRail_live _ _
    · rfl

theorem Taking.placeHead_keeps {α : Type} (f : Live → α)
    (h : ∀ (l : Live) (g : Option Holding), f (l.setHolding slot g) = f l) :
    f (t.placeHead slot d).live = f t.live := by
  rw [Taking.placeHead_live]
  cases d.holding? with
  | none => rfl
  | some g => exact h _ _

/-- A head with a place holds its span, and any other leaves the holding as it was (R58). -/
theorem Taking.placeHead_holding : (t.placeHead slot d).live.holdings[slot] = d.holding?.or t.live.holdings[slot] := by
  rw [Taking.placeHead_live]
  cases d.holding? with
  | none => rfl
  | some g => exact (vset_get _ _ _ _).trans (if_pos rfl)

/-- The slot READY with its record, WELCOME queued and the lamp worked out. -/
def Taking.greeted (c : Setup) (slot : SlotId) (revision : Nat) (d : Declared) (tool : Option Tool) (t : Taking) : Taking :=
  let t := (t.on fun l => l.updSlot slot fun x => { x with head := some { revision, declared := d }, tool }).placeHead slot d
  let t := t.on fun l => l.updSlot slot fun x => { x with state := .ready, work := .idle, timer := none }
  t.on fun l => (l.queueJoin c slot (.welcome d.kind (welcomeBody c slot d tool))).syncLamp c slot

/-- A lever recorded OPEN is taken as opened now (R118, R121). -/
def Taking.leverHeeded (c : Setup) (slot : SlotId) (t : Taking) : Taking :=
  if t.live.slots[slot].lever = .opened then t.leverOpened c slot else t

/-- TOOL_SPENT for a tool declared spent (R136). -/
def Taking.spentPosted (slot : SlotId) (tool : Option Tool) (t : Taking) : Taking :=
  if tool.any Tool.spent = true then t.on (Live.postSlot slot .toolSpent .none) else t

theorem Taking.welcome_eq : t.welcome c slot revision d tool =
    ((t.greeted c slot revision d tool).leverHeeded c slot).wakeGate.spentPosted slot tool := by
  cases tool <;> rfl

theorem Taking.greeted_slot : (t.greeted c slot revision d tool).live.slots[slot] = { t.live.slots[slot] with
    head := some { revision, declared := d }, tool, state := .ready, work := .idle, timer := none
    aspect := aspectOf t.live.slots[slot].lamp .ready } := by
  simp only [Taking.greeted, Taking.on_live, Live.syncLamp_slots, Live.queueJoin_slots, Live.updSlot_slots, vmod_get_self]
  rw [Taking.placeHead_keeps (fun l => l.slots[slot]) fun _ _ => rfl]
  simp only [Taking.on_live, Live.updSlot_slots, vmod_get_self]

theorem Taking.greeted_notices : (t.greeted c slot revision d tool).live.notices = t.live.notices := by
  simp only [Taking.greeted, Taking.on_live, Live.syncLamp_notices, Live.queueJoin_notices, Live.updSlot_notices]
  exact Taking.placeHead_keeps Live.notices fun _ _ => rfl

theorem Taking.greeted_holding : (t.greeted c slot revision d tool).live.holdings[slot] =
    d.holding?.or t.live.holdings[slot] := by
  simp only [Taking.greeted, Taking.on_live, Live.syncLamp_holdings, Live.queueJoin_holdings, Live.updSlot_holdings]
  exact Taking.placeHead_holding

theorem Taking.greeted_bears :
    (t.greeted c slot revision d tool).live.Bears slot (.welcome d.kind (welcomeBody c slot d tool)) :=
  Live.queueJoin_welcome_bears.syncLamp rfl

theorem Taking.leaving_holdings : (t.leaving c slot).live.holdings = t.live.holdings := by
  unfold Taking.leaving Taking.withdrawWaiting
  simp only [Taking.on_live, Live.postSlot_holdings, Live.syncLamp_holdings]
  exact Taking.withdrawAll_keeps Live.holdings c .slotLeaving (by simp [Taking.withdraw]) _ _

theorem Taking.leaving_bears {m : HeadMsg} (b : t.live.Bears slot m) (other : m.isLamp = false) :
    (t.leaving c slot).live.Bears slot m := by
  let turned := t.live.updSlot slot fun x => { x with state := .leaving, leverPending := false }
  have before : turned.Bears slot m := b.congr rfl
  exact (before.syncLamp (c := c) other).congr Taking.leaving_heads

/-! #### What the lever brings -/

section Lever

variable (ready : t.live.slots[slot].state = .ready)
include ready

/-- What heeding the lever comes to in a READY slot: LEAVING, or the pending mark alone. -/
theorem Taking.leverHeeded_cases :
    ((t.live.slots[slot].lever = .opened ∧ t.live.slots[slot].lamp = .auto)
        ∧ t.leverHeeded c slot = (t.on (Live.leverAt slot .opened)).leaving c slot)
      ∨ (¬ (t.live.slots[slot].lever = .opened ∧ t.live.slots[slot].lamp = .auto)
        ∧ ∃ pending, (t.leverHeeded c slot).live = t.live.updSlot slot fun x => { x with leverPending := pending }) := by
  have working : t.live.slots[slot].state.working = true := by rw [ready]; rfl
  unfold Taking.leverHeeded
  by_cases opened : t.live.slots[slot].lever = .opened
  · rw [if_pos opened]
    by_cases auto : t.live.slots[slot].lamp = .auto
    · exact .inl ⟨⟨opened, auto⟩, Taking.leverOpened_auto working auto⟩
    · refine .inr ⟨fun both => auto both.2, true, ?_⟩
      rw [Taking.leverOpened_forced working auto, Taking.on_live, Live.updSlot, Live.leverAt, Live.updSlot_slots, vmod_vmod]
      refine congrArg (fun slots => { t.live with slots }) (vmod_congr _ _ ?_)
      dsimp only
      rw [opened]
  · refine .inr ⟨fun both => opened both.1, t.live.slots[slot].leverPending, ?_⟩
    have kept : vmod t.live.slots slot (fun x => { x with leverPending := t.live.slots[slot].leverPending }) =
        t.live.slots := vmod_id _ _ _ rfl
    rw [if_neg opened, Live.updSlot, kept]

theorem Taking.leverHeeded_slot :
    let x := t.live.slots[slot]
    let y := (t.leverHeeded c slot).live.slots[slot]
    y.head = x.head ∧ y.tool = x.tool ∧ y.work = x.work ∧ y.timer = x.timer ∧ y.lever = x.lever ∧ y.lamp = x.lamp
      ∧ y.fault = x.fault ∧ y.state = if x.lever = .opened ∧ x.lamp = .auto then .leaving else .ready := by
  intro x y
  obtain ⟨leaves, taken⟩ | ⟨stays, pending, taken⟩ := Taking.leverHeeded_cases (c := c) ready
  · have record : y = { x with
        lever := .opened, state := .leaving, leverPending := false, aspect := aspectOf x.lamp .leaving } := by
      simp only [y, taken, Taking.leaving_slot, Taking.on_live, Live.leverAt_slot, x]
    rw [if_pos leaves, record]
    exact ⟨rfl, rfl, rfl, rfl, leaves.1.symm, rfl, rfl, rfl⟩
  · have record : y = { x with leverPending := pending } := by
      simp only [y, taken, Live.updSlot_slots, vmod_get_self, x]
    rw [if_neg stays, record]
    exact ⟨rfl, rfl, rfl, rfl, rfl, rfl, rfl, ready⟩

theorem Taking.leverHeeded_notices : (t.leverHeeded c slot).live.notices =
    (if t.live.slots[slot].lever = .opened ∧ t.live.slots[slot].lamp = .auto then t.live.postSlot slot .leverOpen .none
      else t.live).notices := by
  obtain ⟨leaves, taken⟩ | ⟨stays, pending, taken⟩ := Taking.leverHeeded_cases (c := c) ready
  · rw [if_pos leaves, taken, Taking.leaving_notices]
    rfl
  · rw [if_neg stays, taken]
    rfl

theorem Taking.leverHeeded_holdings : (t.leverHeeded c slot).live.holdings = t.live.holdings := by
  obtain ⟨-, taken⟩ | ⟨-, pending, taken⟩ := Taking.leverHeeded_cases (c := c) ready
  · rw [taken, Taking.leaving_holdings]
    rfl
  · rw [taken]
    rfl

theorem Taking.leverHeeded_bears {m : HeadMsg} (b : t.live.Bears slot m) (other : m.isLamp = false) :
    (t.leverHeeded c slot).live.Bears slot m := by
  obtain ⟨-, taken⟩ | ⟨-, pending, taken⟩ := Taking.leverHeeded_cases (c := c) ready
  · rw [taken]
    exact Taking.leaving_bears (b.congr rfl) other
  · rw [taken]
    exact b.congr rfl

end Lever

/-! #### The whole welcome -/

/-- TOOL_SPENT is a notice, and nothing else. -/
theorem Taking.spentPosted_keeps {α : Type} (f : Taking → α)
    (h : ∀ t : Taking, f (t.on (Live.postSlot slot .toolSpent .none)) = f t) : f (t.spentPosted slot tool) = f t := by
  unfold Taking.spentPosted
  split
  · exact h t
  · rfl

theorem Taking.welcome_gateDue : (t.welcome c slot revision d tool).gateDue = true := by
  rw [Taking.welcome_eq, Taking.spentPosted_keeps Taking.gateDue fun _ => rfl]
  rfl

theorem Taking.greeted_ready : (t.greeted c slot revision d tool).live.slots[slot].state = .ready := by
  rw [Taking.greeted_slot]

theorem Taking.welcome_slot :
    let x := t.live.slots[slot]
    let y := (t.welcome c slot revision d tool).live.slots[slot]
    y.head = some { revision, declared := d } ∧ y.tool = tool ∧ y.work = .idle ∧ y.timer = none
      ∧ y.lever = x.lever ∧ y.lamp = x.lamp ∧ y.fault = x.fault
      ∧ y.state = if x.lever = .opened ∧ x.lamp = .auto then .leaving else .ready := by
  have heeded := Taking.leverHeeded_slot (c := c)
    (Taking.greeted_ready (t := t) (c := c) (slot := slot) (revision := revision) (d := d) (tool := tool))
  rw [Taking.greeted_slot] at heeded
  rw [Taking.welcome_eq, Taking.spentPosted_keeps (fun t => t.live.slots[slot]) fun _ => rfl]
  exact heeded

theorem Taking.welcome_notices :
    let opened := if t.live.slots[slot].lever = .opened ∧ t.live.slots[slot].lamp = .auto then
      t.live.postSlot slot .leverOpen .none else t.live
    (t.welcome c slot revision d tool).live.notices =
      (if tool.any Tool.spent = true then opened.postSlot slot .toolSpent .none else opened).notices := by
  intro opened
  have heeded : ((t.greeted c slot revision d tool).leverHeeded c slot).live.notices = opened.notices := by
    rw [Taking.leverHeeded_notices Taking.greeted_ready, Taking.greeted_slot]
    simp only [apply_ite Live.notices, opened, Live.postSlot_notices, Taking.greeted_notices]
  rw [Taking.welcome_eq]
  unfold Taking.spentPosted
  split
  · rw [Taking.on_live, Live.postSlot_notices, Live.postSlot_notices]
    exact congrArg (fun v => vmod v _ _) heeded
  · exact heeded

theorem Taking.welcome_holding : (t.welcome c slot revision d tool).live.holdings[slot] =
    d.holding?.or t.live.holdings[slot] := by
  rw [Taking.welcome_eq, Taking.spentPosted_keeps (fun t => t.live.holdings[slot]) fun _ => rfl]
  exact (congrArg (fun v : Vector (Option Holding) 12 => v[slot]) (Taking.leverHeeded_holdings Taking.greeted_ready)).trans
    Taking.greeted_holding

theorem Taking.welcome_bears :
    (t.welcome c slot revision d tool).live.Bears slot (.welcome d.kind (welcomeBody c slot d tool)) := by
  rw [Taking.welcome_eq]
  exact (Taking.leverHeeded_bears Taking.greeted_ready Taking.greeted_bears rfl).congr
    (Taking.spentPosted_keeps (fun t => t.live.heads) fun _ => rfl)

end Welcome

/-! ### The report (R116, R117) -/

section Hello

variable {s : State} {slot : SlotId} {hs revision : Nat} {b : HelloBody}

/-- The checks read nothing that the frame of the report changes. -/
theorem framed_helloReason : helloReason s.setup (framed s slot hs) slot b = helloReason s.setup s.live slot b := by
  rw [framed_eq]
  rfl

variable (r : Reports s slot)
include r

theorem hello_stray (other : s.live.slots[slot].state ≠ .joining) :
    exec (.hello slot hs revision b) s = .next (setAside s slot hs) := by
  rw [show exec (.hello slot hs revision b) s = execHello slot hs revision b s from rfl, execHello, r.taken]
  dsimp only
  rw [framed_slots, if_pos other]
  rfl

section Joining

variable (joining : s.live.slots[slot].state = .joining)
include joining

theorem hello_preload (running : s.setup.preload = .running) : exec (.hello slot hs revision b) s =
    .next { s with live := (framed s slot hs).queueJoin s.setup slot (.rejoin .preload) } := by
  rw [show exec (.hello slot hs revision b) s = execHello slot hs revision b s from rfl, execHello, r.taken]
  dsimp only
  rw [framed_slots, if_neg (not_not_intro joining), if_pos running]

variable (loaded : s.setup.preload ≠ .running)
include loaded

theorem hello_refused {reason : JoinReason} (fails : helloReason s.setup s.live slot b = some reason) :
    let rejoined := (framed s slot hs).queueJoin s.setup slot (.rejoin (.refused reason))
    exec (.hello slot hs revision b) s =
      .next { s with live := rejoined.postSlot slot .joinRefused (.reason reason) } := by
  rw [show exec (.hello slot hs revision b) s = execHello slot hs revision b s from rfl, execHello, r.taken]
  dsimp only
  rw [framed_slots, if_neg (not_not_intro joining), if_neg loaded, framed_helloReason, fails]
  rfl

theorem hello_accepted {d : Declared} (passes : helloReason s.setup s.live slot b = none)
    (declared : helloDeclared b = some d) :
    let bound := { s.setup with tables := s.setup.tables.bindLane slot d }
    exec (.hello slot hs revision b) s = .next (settled { s with setup := bound }
      ((Taking.start (framed s slot hs)).welcome bound slot revision d (helloTool b))) := by
  rw [show exec (.hello slot hs revision b) s = execHello slot hs revision b s from rfl, execHello, r.taken]
  dsimp only
  rw [framed_slots, if_neg (not_not_intro joining), if_neg loaded, framed_helloReason, passes, declared]
  rfl

end Joining
end Hello

/-- Settles O43: set aside, refused, or accepted, and then what the welcome leaves. -/
theorem hello : Obligations.Hello := by
  intro slot hs revision b s r x l
  refine ⟨hello_stray r, hello_preload r, fun joining loaded reason => hello_refused r joining loaded,
    fun joining loaded d passes declared => ?_⟩
  let bound := { s.setup with tables := s.setup.tables.bindLane slot d }
  have own : (Taking.start l).live.slots[slot] = x := framed_slot
  have holding : (Taking.start l).live.holdings = s.live.holdings := Live.headFrame_holdings ..
  have record := Taking.welcome_slot (t := Taking.start l) (c := bound) (slot := slot) (revision := revision) (d := d)
    (tool := helloTool b)
  have notices := Taking.welcome_notices (t := Taking.start l) (c := bound) (slot := slot) (revision := revision) (d := d)
    (tool := helloTool b)
  rw [own] at record notices
  refine ⟨(Taking.start l).welcome bound slot revision d (helloTool b), ?_, Taking.welcome_gateDue, record, ?_, ?_, ?_⟩
  · rw [hello_accepted r joining loaded passes declared]
    refine congrArg (fun tables => Host.Outcome.next (settled { s with setup := { s.setup with tables } } _)) ?_
    cases d with
    | heat i => exact Tables.bindLane_heat
    | _ => rfl
  · intro opened spent
    have same : opened.notices =
        (if x.lever = .opened ∧ x.lamp = .auto then l.postSlot slot .leverOpen .none else l).notices := by
      simp only [opened, apply_ite Live.notices, Live.postSlot_notices, l, framed_notices]
    refine ⟨fun is => ?_, fun no => ?_⟩
    · rw [Live.postSlot_notices, same]
      exact notices.trans (congrArg Live.notices (if_pos (helloTool_spent_iff.2 is)))
    · rw [same]
      exact notices.trans (congrArg Live.notices (if_neg (mt helloTool_spent_iff.1 no)))
  · rw [Taking.welcome_holding, holding]
    cases d <;> rfl
  · intro welcomed home
    have bears : welcomed (welcomeBody bound slot d (helloTool b)) := Taking.welcome_bears
    refine ⟨?_, ?_, ?_, ?_⟩
    · rintro rail k g rfl tool
      rw [tool] at bears
      exact bears
    · rintro rail k rfl
      exact bears
    · rintro i rfl
      obtain ⟨cls, mode⟩ := Tables.bindLane_lane (tables := s.setup.tables) (slot := slot) (i := i)
      rw [← cls, ← mode]
      exact bears
    · rintro n rfl
      exact ⟨_, welcomeBody_clamp ▸ bears, channels_sorted, fun p => mem_channels⟩

end Sys2Proof.Machine
end

section
/-! PROOFS. The guard CLOSED outside STOP (O8), and MODE RUN, HOLD and RESUME (O49). -/

namespace Sys2Proof.Machine

open Sys2Proof.Safety

/-! ### Laws that every step keeps -/

section Laws

variable {P : Setup → Prop} {take : State → State} {s t : State}

/-- A step runs one command or lets a millisecond pass, so a law of the setup that both keep is kept by every step. -/
theorem step_keeps (commands : ∀ i s t, exec i s = .next t → P s.setup → P t.setup)
    (time : ∀ s : State, P s.setup → P (s.elapse 1).setup) (e : step s = .next t) (law : P s.setup) : P t.setup := by
  unfold step at e
  split at e
  · unfold idle at e
    split at e
    · exact commands _ _ _ e law
    · obtain rfl := Host.Outcome.next.inj e
      exact time s law
  next rest _ => exact commands _ { s with pending := rest } _ e law

/-- A change of a state that keeps a law of the setup. -/
def KeepsLaw (P : Setup → Prop) (take : State → State) : Prop := ∀ s : State, P s.setup → P (take s).setup

namespace KeepsLaw

theorem cellMessage {form : ReplyForm} {h : Header} {exempt selOk lenOk lockable : Bool} (k : KeepsLaw P take)
    (e : cellMessage form h exempt selOk lenOk lockable take s = .next t) (law : P s.setup) : P t.setup := by
  obtain same | ⟨u, same, rfl⟩ := cellMessage_setup e
  · rwa [same]
  · exact k u (by rwa [same])

theorem manage {h : Header} {length : Nat} {lockable : Bool} (k : KeepsLaw P take)
    (e : manage h length lockable take s = .next t) (law : P s.setup) : P t.setup := k.cellMessage e law

theorem modeMessage {h : Header} {selector : Nat} (k : KeepsLaw P take) (e : modeMessage h selector take s = .next t)
    (law : P s.setup) : P t.setup := k.cellMessage e law

theorem event (k : KeepsLaw P take) (e : event take s = .next t) (law : P s.setup) : P t.setup := by
  obtain same | ⟨u, same, rfl⟩ := event_setup e
  · rwa [same]
  · exact k u (by rwa [same])

end KeepsLaw

end Laws

/-! ### The guard CLOSED outside STOP (R141) -/

/-- The law of R141 on the setup alone. -/
def Setup.Guarded (c : Setup) : Prop := c.mode = .stop ∨ c.guard.state = .closed

theorem guardClosedUnlessStop_iff (s : State) : GuardClosedUnlessStop s ↔ s.setup.Guarded := Iff.rfl

namespace Setup.Guarded

variable {c d : Setup}

/-- Outside STOP the law says that the guard is CLOSED. -/
theorem closed (g : c.Guarded) (mode : c.mode ≠ .stop) : c.guard.state = .closed := g.resolve_left mode

theorem congr (g : c.Guarded) (mode : d.mode = c.mode) (guard : d.guard.state = c.guard.state) : d.Guarded := by
  unfold Setup.Guarded
  rwa [mode, guard]

theorem of_keptBut {parts : List SetupPart} (g : c.Guarded) (k : c.KeptBut parts d) (mode : .mode ∉ parts)
    (guard : .guard ∉ parts) : d.Guarded := by
  obtain ⟨-, -, state⟩ := k .guard guard
  exact g.congr (k .mode mode) state

end Setup.Guarded

section Operations

variable {s : State}

theorem State.elapse_guarded (n : Nat) (g : s.setup.Guarded) : (s.elapse n).setup.Guarded :=
  g.of_keptBut (s.elapse_keptBut n) (by simp) (by simp)

/-- A reset takes the mode by the guard it reads (R152). -/
theorem State.takeReset_guarded (cause : ResetCause) : (s.takeReset cause).setup.Guarded := by
  show Mode.afterReset _ = .stop ∨ _
  unfold Mode.afterReset
  split
  next shut => exact .inr shut
  next => exact .inl rfl

/-- The guard leaves CLOSED only into STOP (R146, R149); `s` holds the guard as the channel event left it. -/
theorem State.guardMoved_guarded {before after : GuardState} (now : s.setup.guard.state = after)
    (law : s.setup.mode = .stop ∨ before = .closed) (moved : after = .closed ∨ after = .opened ∨ before = .latched) :
    (s.guardMoved before after).setup.Guarded := by
  by_cases stop : s.setup.mode = .stop
  · left
    unfold State.guardMoved
    split
    · rw [if_pos stop]
      exact stop
    · exact stop
    · exact stop
  · obtain rfl := law.resolve_left stop
    obtain rfl | rfl | latched := moved
    · exact .inr now
    · exact .inl (congrArg (fun u : State => u.setup.mode) (if_neg stop))
    · cases latched

/-- Only a LATCHED guard is LATCHED after a channel event (R149). -/
theorem guardAfter_latched (before : GuardState) (ch1 ch2 : Level) : guardAfter before ch1 ch2 = .closed
    ∨ guardAfter before ch1 ch2 = .opened ∨ before = .latched := by
  rw [guardAfter_eq]
  split
  next latched => exact .inr (.inr latched)
  next =>
    split
    · exact .inl rfl
    · exact .inr (.inl rfl)

/-- The latch acts on an OPEN guard alone, so the mode is STOP (R150). -/
theorem State.latch_guarded (g : s.setup.Guarded) : s.latch.setup.Guarded := by
  unfold State.latch
  dsimp only
  split
  next opens =>
    obtain ⟨opened, -⟩ := opens
    refine .inl (g.resolve_right fun shut => ?_)
    rw [shut] at opened
    cases opened
  next => exact g

end Operations

section Commands

variable {s t : State}

theorem execFrameBegin_guarded {h : Header} {p serial : Nat} (e : execFrameBegin h p serial s = .next t)
    (g : s.setup.Guarded) : t.setup.Guarded := by
  refine KeepsLaw.manage ?_ e g
  intro s g
  beta_reduce
  split
  next => exact g
  next standby =>
    split
    · exact g
    · split
      · exact g
      · split
        · exact g
        · exact .inr (g.closed (by rw [not_not.1 standby]; nofun))

theorem execFrameEnd_guarded {h : Header} (e : execFrameEnd h s = .next t) (g : s.setup.Guarded) :
    t.setup.Guarded := by
  refine KeepsLaw.manage ?_ e g
  intro s g
  beta_reduce
  split
  · exact g
  · split
    next => exact g
    next moving =>
      split
      · exact g
      · split
        · exact g
        · exact .inr (g.closed moving)

theorem execFrameAbandon_guarded {h : Header} (e : execFrameAbandon h s = .next t) (g : s.setup.Guarded) :
    t.setup.Guarded := by
  refine KeepsLaw.manage ?_ e g
  intro s g
  beta_reduce
  split
  · exact g
  · split
    · exact g
    · by_cases stop : s.setup.mode = .stop
      · exact .inl (if_pos stop)
      · exact .inr (g.closed stop)

theorem execModeRun_guarded {h : Header} (e : execModeRun h s = .next t) (g : s.setup.Guarded) : t.setup.Guarded := by
  refine KeepsLaw.modeMessage ?_ e g
  intro s g
  beta_reduce
  split
  · exact g
  · split
    · exact g
    · split
      next => exact g
      next shut =>
        split
        · exact .inr (not_not.1 shut)
        · exact g

theorem execModeHold_guarded {h : Header} (e : execModeHold h s = .next t) (g : s.setup.Guarded) :
    t.setup.Guarded := by
  refine KeepsLaw.modeMessage ?_ e g
  intro s g
  beta_reduce
  split
  · exact g
  · split
    · exact g
    · split
      next run => exact .inr (g.closed (by rw [run]; nofun))
      next => exact g

theorem execModeResume_guarded {h : Header} (e : execModeResume h s = .next t) (g : s.setup.Guarded) :
    t.setup.Guarded := by
  refine KeepsLaw.modeMessage ?_ e g
  intro s g
  beta_reduce
  split
  · exact g
  · split
    next => exact g
    next shut =>
      split
      · exact g
      · split <;> exact .inr (not_not.1 shut)

theorem execGuardChannelChange_guarded {ch : Channel} {v : Level} (e : execGuardChannelChange ch v s = .next t)
    (g : s.setup.Guarded) : t.setup.Guarded := by
  by_cases unheard : s.setup.resetHeld = true ∨ s.setup.guard.level ch = v
  · obtain rfl := Host.Outcome.next.inj ((channel_unheard unheard).symm.trans e)
    exact g
  · obtain ⟨free, moved⟩ := not_or.1 unheard
    obtain rfl := Host.Outcome.next.inj ((channel_heard (Bool.eq_false_iff.2 free) moved).symm.trans e)
    exact State.guardMoved_guarded rfl g (guardAfter_latched _ _ _)

theorem execDiscrepancyExpiry_guarded (e : execDiscrepancyExpiry s = .next t) (g : s.setup.Guarded) :
    t.setup.Guarded := by
  refine KeepsLaw.event ?_ e g
  intro s g
  beta_reduce
  split
  · exact g
  · exact State.latch_guarded (State.elapse_guarded _ g)

theorem execCellSentEvent_guarded (e : execCellSentEvent s = .next t) (g : s.setup.Guarded) : t.setup.Guarded := by
  refine KeepsLaw.event ?_ e g
  intro s g
  beta_reduce
  split
  · exact g
  · split
    · exact State.takeReset_guarded _
    · exact Setup.Guarded.of_keptBut (c := s.setup) g (State.placeRestartAnswer_writes [] _) (by simp) (by simp)

theorem execResetPinRelease_guarded (e : execResetPinRelease s = .next t) (g : s.setup.Guarded) :
    t.setup.Guarded := by
  unfold execResetPinRelease at e
  split at e
  · obtain rfl := Host.Outcome.next.inj e
    exact State.takeReset_guarded _
  · obtain rfl := Host.Outcome.next.inj e
    exact g

end Commands

/-- Every command keeps the law: one that writes neither the mode nor the guard by its frame (O3), any other by its own
rule. -/
theorem exec_guarded (i : Instr) (s t : State) (e : exec i s = .next t) (g : s.setup.Guarded) : t.setup.Guarded := by
  by_cases frame : SetupPart.mode ∉ writes i ∧ SetupPart.guard ∉ writes i
  · obtain ⟨mode, guard⟩ := frame
    exact g.of_keptBut (exec_keptBut i s t e) mode guard
  · cases i
    case frameBegin => exact execFrameBegin_guarded e g
    case frameEnd => exact execFrameEnd_guarded e g
    case frameAbandon => exact execFrameAbandon_guarded e g
    case modeRun => exact execModeRun_guarded e g
    case modeHold => exact execModeHold_guarded e g
    case modeResume => exact execModeResume_guarded e g
    case guardChannelChange => exact execGuardChannelChange_guarded e g
    case discrepancyExpiry => exact execDiscrepancyExpiry_guarded e g
    case cellSentEvent => exact execCellSentEvent_guarded e g
    case resetPinRelease => exact execResetPinRelease_guarded e g
    case powerUp =>
      obtain rfl := Host.Outcome.next.inj e
      exact State.takeReset_guarded _
    all_goals simp [writes] at frame

/-- Settles O8: a step runs one command or lets a millisecond pass, and either keeps the guard CLOSED outside STOP. -/
theorem stepKeepsGuard : Obligations.StepKeepsGuard := fun s t g e => by
  rw [guardClosedUnlessStop_iff] at g ⊢
  exact step_keeps exec_guarded (fun _ => State.elapse_guarded 1) e g

/-! ### MODE RUN, HOLD and RESUME (R142 to R145) -/

section ModeChanges

variable {h : Header} {selector : Nat} {take : State → State} {s : State}

/-- The refusal of the first check that fails, or else what the message does (R142). -/
def refusedOr (s : State) (h : Header) (checks : List (Bool × Reason)) (passed : State) : State :=
  ((firstReason checks).map fun r => answered s h (.refused r)).getD passed

theorem refusedOr_nil {passed : State} : refusedOr s h [] passed = passed := rfl

theorem refusedOr_cons {b : Bool} {r : Reason} {rest : List (Bool × Reason)} {passed : State} :
    refusedOr s h ((b, r) :: rest) passed =
      if b = true then answered s h (.refused r) else refusedOr s h rest passed := by
  cases b <;> rfl

theorem refusedOr_refused {checks : List (Bool × Reason)} {r : Reason} {passed : State}
    (first : firstReason checks = some r) : refusedOr s h checks passed = answered s h (.refused r) := by
  rw [refusedOr, first]
  rfl

theorem refusedOr_passed {checks : List (Bool × Reason)} {passed : State} (first : firstReason checks = none) :
    refusedOr s h checks passed = passed := by
  rw [refusedOr, first]
  rfl

/-- A weighed MODE message of its own selector: the lockout is weighed ahead of the checks of its own rule (R142, R191). -/
theorem modeMessage_eq {checks : List (Bool × Reason)} {passed : State} (w : Weighed s) (own : Selects h selector 4)
    (taken : take (closed s) = refusedOr s h checks passed) :
    modeMessage h selector take s = .next (refusedOr s h ((s.setup.lockout, .locked) :: checks) passed) := by
  obtain ⟨sel, len⟩ := own.holds
  rw [refusedOr_cons]
  by_cases locked : s.setup.lockout = true
  · rw [if_pos locked]
    exact w.locked sel len locked
  · rw [if_neg locked, ← taken]
    exact w.taken sel len fun _ => Bool.eq_false_iff.2 locked

/-- MODE RUN (R143): in HOLD it becomes RUN, in RUN and STANDBY its ANSWER gives the mode. -/
theorem modeRun_eq (w : Weighed s) (own : Selects h 1 4) : exec (.modeRun h) s = .next (refusedOr s h
    [ (s.setup.lockout, .locked), (s.setup.mode == .stop, .stopped), (s.setup.frame.isNone, .noFrame),
      (s.setup.guard.state != .closed, .guardOpen) ]
    (if s.setup.mode = .hold then (closed s).startMode h .run (Config.railFirst s.setup.freeIndex)
      else answered s h (.mode s.setup.mode))) := by
  rw [show exec (.modeRun h) s = execModeRun h s from rfl, execModeRun]
  refine modeMessage_eq w own ?_
  rw [closed_setup]
  split
  next stop =>
    rw [refusedOr_cons, if_pos (beq_iff_eq.2 stop)]
    rfl
  next moving =>
    rw [refusedOr_cons, if_neg (mt beq_iff_eq.1 moving)]
    simp only [refusedOr_cons, refusedOr_nil, bne_iff_ne]
    rfl

/-- MODE HOLD (R144): in RUN it becomes HOLD, in HOLD and STANDBY its ANSWER gives the mode. -/
theorem modeHold_eq (w : Weighed s) (own : Selects h 2 4) : exec (.modeHold h) s = .next (refusedOr s h
    [ (s.setup.lockout, .locked), (s.setup.mode == .stop, .stopped), (s.setup.frame.isNone, .noFrame) ]
    (if s.setup.mode = .run then (closed s).holdMode h else answered s h (.mode s.setup.mode))) := by
  rw [show exec (.modeHold h) s = execModeHold h s from rfl, execModeHold]
  refine modeMessage_eq w own ?_
  rw [closed_setup]
  split
  next stop =>
    rw [refusedOr_cons, if_pos (beq_iff_eq.2 stop)]
    rfl
  next moving =>
    rw [refusedOr_cons, if_neg (mt beq_iff_eq.1 moving), refusedOr_cons, refusedOr_nil]
    rfl

/-- MODE RESUME (R145): out of STOP to HOLD with a frame bound, and to STANDBY without one. -/
theorem modeResume_eq (w : Weighed s) (own : Selects h 3 4) : exec (.modeResume h) s = .next (refusedOr s h
    [ (s.setup.lockout, .locked), (s.setup.mode != .stop, .wrongMode), (s.setup.guard.state != .closed, .guardOpen),
      (s.live.pool.any (fun o => o.state == .aborting) || s.live.heatAborting, .inFlight) ]
    (if s.setup.frame.isSome then (closed s).holdMode h
      else (closed s).startMode h .standby (Config.railFirst s.setup.freeIndex))) := by
  rw [show exec (.modeResume h) s = execModeResume h s from rfl, execModeResume]
  refine modeMessage_eq w own ?_
  simp only [refusedOr_cons, refusedOr_nil, bne_iff_ne]
  rfl

end ModeChanges

/-- Settles O49: the checks of each message in their order, and then the mode it leaves; the order of the examinations is
the model's free value. -/
theorem modeMessages : Obligations.ModeMessages := by
  intro h s w
  refine ⟨fun own => ?_, fun own => ?_, fun own => ?_⟩
  · have run := modeRun_eq w own
    refine ⟨fun r first => run.trans (congrArg Host.Outcome.next (refusedOr_refused first)), fun passes => ?_⟩
    replace run := run.trans (congrArg Host.Outcome.next (refusedOr_passed passes))
    exact ⟨fun held => ⟨Config.railFirst s.setup.freeIndex, run.trans (congrArg Host.Outcome.next (if_pos held))⟩,
      fun other => run.trans (congrArg Host.Outcome.next (if_neg other))⟩
  · have hold := modeHold_eq w own
    refine ⟨fun r first => hold.trans (congrArg Host.Outcome.next (refusedOr_refused first)), fun passes => ?_⟩
    replace hold := hold.trans (congrArg Host.Outcome.next (refusedOr_passed passes))
    exact ⟨fun runs => hold.trans (congrArg Host.Outcome.next (if_pos runs)),
      fun other => hold.trans (congrArg Host.Outcome.next (if_neg other))⟩
  · have resume := modeResume_eq w own
    refine ⟨fun r first => resume.trans (congrArg Host.Outcome.next (refusedOr_refused first)), fun passes => ?_⟩
    replace resume := resume.trans (congrArg Host.Outcome.next (refusedOr_passed passes))
    refine ⟨fun bound => resume.trans (congrArg Host.Outcome.next (if_pos (Option.isSome_iff_ne_none.2 bound))),
      fun unbound => ⟨Config.railFirst s.setup.freeIndex, resume.trans (congrArg Host.Outcome.next (if_neg ?_))⟩⟩
    simp [unbound]

end Sys2Proof.Machine
end

section
/-! PROOFS. Posting a notice (O51) and NOTICE TAKE (O52). -/

namespace Sys2Proof.Machine

open Sys2Proof.Safety

/-! ### Posting (R154) -/

section Posting

variable {l : Live} {source : Fin 13} {code : NoticeCode} {d : Detail}

/-- A post replaces the one entry of its source and its code's level, and leaves all else. -/
theorem Live.post_eq_set {e : Option Notice} (found : l.notices[noticeIndex source code.level] = e) :
    l.post source code d =
      { l with notices := l.notices.set (noticeIndex source code.level) (some (postedEntry code d e)) } := by
  rw [← found]
  rfl

/-- An entry that already reads OVERRUN absorbs the post. -/
theorem Live.post_overrun {n : Notice} (found : l.notices[noticeIndex source code.level] = some n)
    (overrun : n.overrun = true) : l.post source code d = l := by
  have stays : some (postedEntry code d l.notices[noticeIndex source code.level]) =
      l.notices[noticeIndex source code.level] := by
    rw [found, postedEntry, ← overrun]
  rw [Live.post, vmod_id _ _ _ stays]

end Posting

/-- Settles O51, by the state of the entry of the source and the level. -/
theorem postNotice : Obligations.PostNotice := by
  intro l source code d i
  exact ⟨Live.post_eq_set, fun n found _ => Live.post_eq_set found, fun n => Live.post_overrun⟩

/-! ### The entry that NOTICE TAKE chooses (R157) -/

/-- NOTICE TAKE chooses the entry `p` ahead of the entry `q`: a higher level first; within a level source 0, and then the
higher source. -/
def NoticeBefore (p q : Fin 13 × NoticeLevel) : Prop :=
  p.2.rank < q.2.rank ∨ (q.2 = p.2 ∧ (p.1 = 0 ∨ (q.1 ≠ 0 ∧ q.1 < p.1)))

theorem NoticeBefore.asymm {p q : Fin 13 × NoticeLevel} (distinct : p ≠ q) (before : NoticeBefore p q) :
    ¬ NoticeBefore q p := by
  obtain ⟨src, v⟩ := p
  obtain ⟨src', v'⟩ := q
  unfold NoticeBefore at before ⊢
  obtain higher | ⟨rfl, zero | ⟨nonzero, less⟩⟩ := before
  · rintro (lower | ⟨rfl, -⟩)
    · exact lt_asymm higher lower
    · exact lt_irrefl _ higher
  · rintro (lower | ⟨-, zero' | ⟨nonzero, -⟩⟩)
    · exact lt_irrefl _ lower
    · exact distinct (Prod.ext (zero.trans zero'.symm) rfl)
    · exact nonzero zero
  · rintro (lower | ⟨-, zero' | ⟨-, less'⟩⟩)
    · exact lt_irrefl _ lower
    · exact nonzero zero'
    · exact lt_asymm less less'

theorem mem_noticeOrder (p : Fin 13 × NoticeLevel) : p ∈ noticeOrder := by
  have source : ∀ src : Fin 13, src ∈ noticeSources := by decide
  have level : p.2 ∈ [NoticeLevel.alarm, .fault, .warn, .info] := by cases p.2 <;> decide
  exact List.mem_flatMap.2 ⟨p.2, level, List.mem_map.2 ⟨p.1, source p.1, rfl⟩⟩

/-- The model's list of the entries runs in the order of R157. -/
theorem noticeOrder_sorted : noticeOrder.Pairwise NoticeBefore := by
  have sources : noticeSources.Pairwise fun a b => a = 0 ∨ (b ≠ 0 ∧ b < a) := by decide
  have levels : [NoticeLevel.alarm, .fault, .warn, .info].Pairwise fun v w => v.rank < w.rank := by decide
  refine List.pairwise_flatMap.2 ⟨fun v _ => ?_, levels.imp fun higher p own q other => ?_⟩
  · exact List.pairwise_map.2 (sources.imp fun ahead => .inr ⟨rfl, ahead⟩)
  · obtain ⟨a, -, rfl⟩ := List.mem_map.1 own
    obtain ⟨b, -, rfl⟩ := List.mem_map.1 other
    exact .inl higher

section Choosing

variable {l : Live} {h : Header} {s : State}

theorem Live.chooseNotice_none (empty : ∀ src v, l.notices[noticeIndex src v] = none) : l.chooseNotice = none :=
  List.findSome?_eq_none_iff.2 fun p _ => by rw [empty]; rfl

/-- The filled entry that stands ahead of every other filled one is chosen: what the list holds before it is empty. -/
theorem Live.chooseNotice_some {p : Fin 13 × NoticeLevel} {n : Notice} (found : l.notices[noticeIndex p.1 p.2] = some n)
    (first : ∀ q : Fin 13 × NoticeLevel, l.notices[noticeIndex q.1 q.2] ≠ none → q ≠ p → NoticeBefore p q) :
    l.chooseNotice = some (p, n) := by
  obtain ⟨ahead, rest, cut, fresh⟩ := List.eq_append_cons_of_mem (mem_noticeOrder p)
  refine List.findSome?_eq_some_iff.2 ⟨ahead, p, rest, cut, by rw [found]; rfl, fun q place => ?_⟩
  obtain ⟨-, -, sorted⟩ := List.pairwise_append.1 (cut ▸ noticeOrder_sorted)
  have before : NoticeBefore q p := sorted q place p List.mem_cons_self
  have distinct : q ≠ p := fun same => fresh (same ▸ place)
  have empty : l.notices[noticeIndex q.1 q.2] = none := by
    by_contra filled
    exact before.asymm distinct (first q filled distinct)
  rw [empty]
  rfl

/-! ### NOTICE TAKE (R157) -/

theorem noticeTake_empty (w : Weighed s) (plain : Plain h 4) (chosen : s.live.chooseNotice = none) :
    exec (.noticeTake h) s = .next (answered s h .noNotice) := by
  rw [show exec (.noticeTake h) s = execNoticeTake h s from rfl, execNoticeTake, manage_taken w plain (by simp),
    show (closed s).live.chooseNotice = none from chosen]
  rfl

theorem noticeTake_takes {src : Fin 13} {v : NoticeLevel} {n : Notice} (w : Weighed s) (plain : Plain h 4)
    (chosen : s.live.chooseNotice = some ((src, v), n)) :
    let l := { s.live with notices := s.live.notices.set (noticeIndex src v) none }
    exec (.noticeTake h) s = .next (answered { s with live := l } h (.notice src v n l.filled)) := by
  rw [show exec (.noticeTake h) s = execNoticeTake h s from rfl, execNoticeTake, manage_taken w plain (by simp),
    show (closed s).live.chooseNotice = some ((src, v), n) from chosen]
  rfl

end Choosing

/-- Settles O52, by the entry that the model's list of R157 meets first. -/
theorem noticeTake : Obligations.NoticeTake := by
  intro h s w plain entry
  refine ⟨fun empty => noticeTake_empty w plain (Live.chooseNotice_none empty), fun src v n found first => ?_⟩
  have chosen : s.live.chooseNotice = some ((src, v), n) := Live.chooseNotice_some found fun q => first q.1 q.2
  exact noticeTake_takes w plain chosen

end Sys2Proof.Machine
end

section
/-! PROOFS. What every cell message meets before its own rule, and what a held reset pin holds back (O5). -/

namespace Sys2Proof.Machine

open Sys2Proof.Safety

/-! ### The envelope of a cell message (R168, R171, R183, R190, R194) -/

section Envelope

variable {form : ReplyForm} {h : Header} {exempt selOk lenOk lockable : Bool} {take : State → State} {s : State}

theorem cellMessage_held (held : s.setup.resetHeld = true) :
    cellMessage form h exempt selOk lenOk lockable take s = .next s := if_pos held

/-- After a RESTART was taken the frame is discarded (R194). -/
theorem cellMessage_restarting (free : s.setup.resetHeld = false) (taken : s.setup.restart ≠ .idle) :
    cellMessage form h exempt selOk lenOk lockable take s = .next (closed s) := by
  unfold cellMessage
  rw [if_neg (Bool.eq_false_iff.1 free)]
  exact if_pos taken

/-- A frame that began under HOLDOFF is discarded with OVERRUN (R171). -/
theorem cellMessage_underHoldoff (free : s.setup.resetHeld = false) (idle : s.setup.restart = .idle)
    (under : s.live.cell.underHoldoff = true) : cellMessage form h exempt selOk lenOk lockable take s =
      .next { s with live := (closed s).live.cellError .overrun } := by
  unfold cellMessage
  rw [if_neg (Bool.eq_false_iff.1 free)]
  exact (if_neg (not_not_intro idle)).trans (if_pos under)

/-- During a preload all but QUERY STATUS is refused LOCKED (R190). -/
theorem cellMessage_preloading (free : s.setup.resetHeld = false) (idle : s.setup.restart = .idle)
    (clear : s.live.cell.underHoldoff = false) (running : s.setup.preload = .running) (other : exempt = false) :
    cellMessage form h exempt selOk lenOk lockable take s = .next (replied s (.refused h.tag .locked)) := by
  unfold cellMessage
  rw [if_neg (Bool.eq_false_iff.1 free)]
  refine (if_neg (not_not_intro idle)).trans ((if_neg (Bool.eq_false_iff.1 clear)).trans (if_pos ⟨running, ?_⟩))
  rw [other]
  rfl

end Envelope

/-- The command is a cell message with a header: it goes through the one envelope, which a preload lets QUERY STATUS alone
pass, and which lets no other selector or length through than those of section 9.5, but for a kind it does not know. -/
def Enveloped (i : Instr) (h : Header) : Prop :=
  ∃ (form : ReplyForm) (exempt selOk lenOk lockable : Bool) (take : State → State),
    (∀ s, exec i s = cellMessage form h exempt selOk lenOk lockable take s)
    ∧ (exempt = true → i = .queryStatus h ∧ h.selector = 1)
    ∧ ((∀ k, i ≠ .unknownKind h k) → refusal form h.tag .badValue = refusedAs i h .badValue
      ∧ (selOk = true → h.selector = ownSelector i) ∧ (lenOk = true → h.length = ownLength i))

namespace Enveloped

variable {i : Instr} {h : Header}

/-- A message whose selector and length are compared with its own, and which no preload lets pass. -/
theorem of_own {form : ReplyForm} {lockable : Bool} {take : State → State}
    (through : ∀ s, exec i s =
      cellMessage form h false (h.selector == ownSelector i) (h.length == ownLength i) lockable take s)
    (replies : refusal form h.tag .badValue = refusedAs i h .badValue) : Enveloped i h :=
  ⟨_, _, _, _, _, _, through, nofun, fun _ => ⟨replies, eq_of_beq, eq_of_beq⟩⟩

theorem queryStatus : Enveloped (.queryStatus h) h :=
  ⟨.management, 1 == 1 && h.selector == 1, h.selector == 1, h.length == 4, false, _,
    fun s => by dsimp only [exec, execQueryStatus, query],
    fun exempt => ⟨rfl, eq_of_beq (Bool.and_eq_true_iff.1 exempt).2⟩, fun _ => ⟨rfl, eq_of_beq, eq_of_beq⟩⟩

/-- A STORE WRITE is as long as its data, 1 to 16 bytes (R185). -/
theorem storeWrite {addr : Nat} {data : List Byte} : Enveloped (.storeWrite h addr data) h := by
  refine ⟨.management, false, h.selector == 0, within 7 22 h.length && data.length == h.length - 6, false, _,
    fun s => by dsimp only [exec, execStoreWrite], nofun, fun _ => ⟨rfl, eq_of_beq, fun length => ?_⟩⟩
  obtain ⟨range, size⟩ := Bool.and_eq_true_iff.1 length
  obtain ⟨low, high⟩ := within_eq_true.1 range
  have size : data.length = h.length - 6 := eq_of_beq size
  show h.length = if 1 ≤ data.length ∧ data.length ≤ 16 then 6 + data.length else 0
  rw [if_pos (by omega)]
  omega

theorem unknownKind {kind : Nat} : Enveloped (.unknownKind h kind) h :=
  ⟨.management, false, true, true, false, _, fun s => by dsimp only [exec, execUnknownKind], nofun,
    fun known => absurd rfl (known kind)⟩

end Enveloped

/-- Every cell message goes through the envelope. -/
theorem enveloped_of_headerOf {i : Instr} {h : Header} (header : headerOf i = some h) : Enveloped i h := by
  cases i
  case queryStatus =>
    obtain rfl := Option.some.inj header
    exact .queryStatus
  case storeWrite =>
    obtain rfl := Option.some.inj header
    exact .storeWrite
  case unknownKind =>
    obtain rfl := Option.some.inj header
    exact .unknownKind
  case drill | ream | setRivet | heat | clamp | unclamp | park | cancel =>
    obtain rfl := Option.some.inj header
    exact .of_own (form := .order) (fun s => by
      dsimp only [exec, execDrill, execReam, execSetRivet, execHeat, execClamp, execUnclamp, execPark, execCancel,
        orderMessage]
      rfl) rfl
  case patternOpen | patternRows | patternDelete | frameBegin | frameEnd | frameAbandon | holeRework | slotClear
    | slotRelease | lampSet | noticeTake | storeRead | reload | restart | unlock =>
    obtain rfl := Option.some.inj header
    exact .of_own (form := .management) (fun s => by
      dsimp only [exec, execPatternOpen, execPatternRows, execPatternDelete, execFrameBegin, execFrameEnd,
        execFrameAbandon, execHoleRework, execSlotClear, execSlotRelease, execLampSet, execNoticeTake, execStoreRead,
        execReload, execRestart, execUnlock, manage]
      rfl) rfl
  case tableWriteTiming | tableWriteSlot | tableWriteZone | tableWriteLane | tableWritePump =>
    obtain rfl := Option.some.inj header
    exact .of_own (form := .management) (fun s => by
      dsimp only [exec, execTableWriteTiming, execTableWriteSlot, execTableWriteZone, execTableWriteLane,
        execTableWritePump, tableWrite]
      rfl) rfl
  case modeRun | modeHold | modeResume =>
    obtain rfl := Option.some.inj header
    exact .of_own (form := .management) (fun s => by
      dsimp only [exec, execModeRun, execModeHold, execModeResume, modeMessage]
      rfl) rfl
  case queryHole | queryOrder | querySlot | queryRail | queryLane | queryZone | queryPump | queryLink | queryTable
    | queryPattern =>
    obtain rfl := Option.some.inj header
    exact .of_own (form := .management) (fun s => by
      dsimp only [exec, execQueryHole, execQueryOrder, execQuerySlot, execQueryRail, execQueryLane, execQueryZone,
        execQueryPump, execQueryLink, execQueryTable, execQueryPattern, query]
      rfl) rfl
  all_goals exact nomatch (header : none = some h)

/-- Under a held reset pin nothing is taken but what `underPin` lists (R183, R185, R193). -/
theorem exec_held {i : Instr} {s : State} (held : s.setup.resetHeld = true) (other : underPin i = false) :
    exec i s = .next s := by
  cases header : headerOf i with
  | some h =>
    obtain ⟨_, _, _, _, _, _, through, -⟩ := enveloped_of_headerOf header
    rw [through, cellMessage_held held]
  | none =>
    cases i
    case resetPinHeld =>
      show Host.Outcome.next { s with setup := { s.setup with resetHeld := true } } = _
      rw [← held]
    case powerUp | resetPinRelease | guardChannelChange | storeWriteEnd => exact nomatch (other : true = false)
    -- a head report, or an event: each opens with the test of the pin
    case hello | accept | done | abortedNone | abortedPartial | arrived | fault | leverOpen | leverClosed | damagedFrame
      | holdoffDiscard | restartDiscardedFrame | cellSentEvent | preloadHeaderRead | preloadRecord | preloadEnd
      | headLinkHoldEnd | linkUp | linkDown | clampState | headMessageSetAside | headSentEvent | acceptStageExpiry
      | runStageExpiry | travelStageExpiry | graceStageExpiry | abortStageExpiry | rivetExpiryUnassigned
      | rivetExpiryAssigned | cadenceExpiry | claimStarved | discrepancyExpiry | startDelimiter | lineActivity =>
      exact if_pos held
    all_goals exact nomatch (header : some _ = none)

/-- Settles O5: the one envelope of all cell messages, case by case in its order. -/
theorem envelopes : Obligations.Envelopes := by
  refine ⟨fun i s held other => exec_held held other, fun i h s header => ?_⟩
  obtain ⟨form, exempt, selOk, lenOk, lockable, take, through, status, known⟩ := enveloped_of_headerOf header
  simp only [through]
  refine ⟨cellMessage_restarting, cellMessage_underHoldoff, fun free idle clear running other => ?_,
    fun w kind wrong => ?_⟩
  · exact cellMessage_preloading free idle clear running (Bool.eq_false_iff.2 (mt status other))
  · obtain ⟨replies, selector, length⟩ := known kind
    rw [← replies]
    exact w.misshapen (wrong.imp (fun no => Bool.eq_false_iff.2 (mt selector no)) fun no => Bool.eq_false_iff.2 (mt length no))

end Sys2Proof.Machine
end

section
/-! PROOFS. TABLE WRITE TIMING and PUMP (O34). -/

namespace Sys2Proof.Machine

open Sys2Proof.Safety

section TimingAndPump

variable {h : Header} {entry value v : Nat} {s : State} {t : Vector Nat 12} {e : TimingEntry}

/-- The table that a write of entry `e` would leave breaks a bound of R178. -/
def timingBad (t : Vector Nat 12) (e : TimingEntry) (value : Nat) : Prop :=
  timingMaxima[e] < value
    ∨ max (t.set e value)[Timing.heatWindow] 4000 ≤ max (t.set e value)[Timing.transferAllowance] 500

theorem writeTiming_unknown (unknown : timingOf entry = none) : writeTiming t entry value = .error .badValue := by
  rw [writeTiming, unknown]

theorem writeTiming_bad (named : timingOf entry = some e) (bad : timingBad t e value) :
    writeTiming t entry value = .error .badValue := by
  rw [writeTiming, named]
  by_cases high : timingMaxima[e] < value
  · exact if_pos high
  · exact (if_neg high).trans (if_pos (bad.resolve_left high))

theorem writeTiming_good (named : timingOf entry = some e) (good : ¬ timingBad t e value) :
    writeTiming t entry value = .ok (e, t.set e value) := by
  rw [writeTiming, named]
  obtain ⟨low, apart⟩ := not_or.1 good
  exact (if_neg low).trans (if_neg apart)

theorem tableWriteTiming_eq (w : Weighed s) (own : Selects h 1 9) :
    exec (.tableWriteTiming h entry value) s = .next (match writeTiming s.setup.tables.timing entry value with
      | .error r => answered s h (.refused r)
      | .ok (e, t) => answered (s.withTables { s.setup.tables with timing := t }) h
          (.timingWritten entry value (actedOn e value))) := by
  rw [show exec (.tableWriteTiming h entry value) s = execTableWriteTiming h entry value s from rfl, execTableWriteTiming,
    tableWrite_taken w own, closed_setup]
  cases writeTiming s.setup.tables.timing entry value <;> rfl

/-- The budget written stands before its ANSWER and the examination (R75, log entry 18). -/
theorem tableWritePump_eq (w : Weighed s) (own : Selects h 5 5) :
    exec (.tableWritePump h v) s = .next (if budgetOk v = false then answered s h (.refused .badValue)
      else
        let s' := s.withTables { s.setup.tables with budget := v }
        settled s' (Taking.start (answered s' h (.pumpWritten v s.live.unitsInUse)).live).wakeGate) := by
  rw [show exec (.tableWritePump h v) s = execTableWritePump h v s from rfl, execTableWritePump, tableWrite_taken w own]
  cases budgetOk v <;> rfl

end TimingAndPump

/-- Settles O34: a timing write by the bounds of R178, a pump write by its range. -/
theorem timingAndPumpWrites : Obligations.TimingAndPumpWrites := by
  refine fun h entry value v s w => ⟨fun own e named => ⟨fun bad => ?_, fun good => ?_⟩, fun own unknown => ?_,
    fun own out => ?_, fun own low high => ?_⟩
  · rw [tableWriteTiming_eq w own, writeTiming_bad named bad]
  · rw [tableWriteTiming_eq w own, writeTiming_good named good]
    rfl
  · rw [tableWriteTiming_eq w own, writeTiming_unknown unknown]
  · rw [tableWritePump_eq w own]
    exact congrArg _ (if_pos (within_eq_false.2 (by omega)))
  · rw [tableWritePump_eq w own]
    exact congrArg _ (if_neg (Bool.not_eq_false _ ▸ within_eq_true.2 ⟨low, high⟩))

end Sys2Proof.Machine
end

section
/-! PROOFS. The receiver, the link status records, and damaged frames (O55). -/

namespace Sys2Proof.Machine

open Sys2Proof.Safety

section Receivers

variable {held : Bool} {rx : Receiver} {b : Byte}

/-- The check value of the CRC: its value on the nine digits (R164). -/
theorem crcOf_digits : crcOf [0x31, 0x32, 0x33, 0x34, 0x35, 0x36, 0x37, 0x38, 0x39] = 0x29B1#16 := by decide +kernel

/-! ### The rows of R165 -/

theorem Receiver.byte_outside (outside : rx.state = .outside) : rx.byte held b =
    if b = 0xD1 then (Receiver.opening held, none) else if b = 0xD2 then (rx, some .framing) else (rx, none) := by
  rw [Receiver.byte, outside]

theorem Receiver.byte_inside (inside : rx.state = .inside) (collects : rx.discarding = false) : rx.byte held b =
    if b = 0xD1 then (Receiver.opening held, some .framing)
    else if b = 0xD2 then (Receiver.reset, frameFault rx.content)
    else if b = 0xD3 then ({ rx with state := .escaped }, none) else rx.collect b := by
  rw [Receiver.byte, inside, Receiver.cutError, collects]
  rfl

/-- A frame that is being discarded closes with OVERRUN (R171). -/
theorem Receiver.byte_discarding (inside : rx.state = .inside) (discards : rx.discarding = true) :
    rx.byte held 0xD2 = (Receiver.reset, some .overrun) := by
  rw [Receiver.byte, inside, discards]
  rfl

/-- The byte after an escape stands for one of the three delimiters, and for nothing else. -/
theorem Receiver.byte_escaped (escaped : rx.state = .escaped) : rx.byte held b =
    if b = 0xF1 then rx.collect 0xD1 else if b = 0xF2 then rx.collect 0xD2 else if b = 0xF3 then rx.collect 0xD3
    else if b = 0xD1 then (Receiver.opening held, some .framing) else (Receiver.reset, some .framing) := by
  rw [Receiver.byte, escaped]
  dsimp only
  by_cases first : b = 0xF1
  · rw [if_pos (.inl first), if_pos first, first]
    rfl
  by_cases second : b = 0xF2
  · rw [if_pos (.inr (.inl second)), if_neg first, if_pos second, second]
    rfl
  by_cases third : b = 0xF3
  · rw [if_pos (.inr (.inr third)), if_neg first, if_neg second, if_pos third, third]
    rfl
  rw [if_neg (not_or.2 ⟨first, not_or.2 ⟨second, third⟩⟩), if_neg first, if_neg second, if_neg third]

/-! ### The link status records (R166, R167) -/

/-- A count after an error: its own goes up, to 255. -/
def countAfter (e own : LinkError) (n : Nat) : Nat := if e = own then min (n + 1) 255 else n

theorem CellStatus.record_eq (a : CellStatus) (e : LinkError) : a.record e = { a with
    errorSeen := true, last := some e, crc := countAfter e .crc a.crc, length := countAfter e .length a.length
    framing := countAfter e .framing a.framing, overrun := countAfter e .overrun a.overrun
    protocol := countAfter e .protocol a.protocol } := by
  cases e <;> simp [CellStatus.record, countAfter, countUp_eq]

theorem HeadStatus.record_eq (b : HeadStatus) {e : LinkError} (counted : e ≠ .overrun) : b.record e = { b with
    errorSeen := true, last := some e, crc := countAfter e .crc b.crc, length := countAfter e .length b.length
    framing := countAfter e .framing b.framing, protocol := countAfter e .protocol b.protocol } := by
  cases e
  case overrun => exact absurd rfl counted
  all_goals simp [HeadStatus.record, countAfter, countUp_eq]

/-! ### Bytes one after another -/

section Bytes

variable {σ τ : Type} {record : LinkError → σ → σ} {bytes : List Byte}

/-- A receiver and what has been recorded, after one byte more. -/
def received (held : Bool) (record : LinkError → σ → σ) (p : Receiver × σ) (b : Byte) : Receiver × σ :=
  let q := p.1.byte held b
  (q.1, q.2.elim p.2 fun e => record e p.2)

theorem receive_eq_foldl {x : σ} : receive held record rx bytes x = bytes.foldl (received held record) (rx, x) := by
  induction bytes generalizing rx x with
  | nil => rfl
  | cons b rest ih =>
    rw [receive, List.foldl_cons, received]
    obtain ⟨next, _ | e⟩ := rx.byte held b
    · exact ih
    · exact ih

/-- What is recorded within a larger state is recorded as it is by itself. -/
theorem receive_within {put : σ → τ} {record' : LinkError → τ → τ}
    (within : ∀ e x, record' e (put x) = put (record e x)) {x : σ} :
    receive held record' rx bytes (put x) =
      ((receive held record rx bytes x).1, put (receive held record rx bytes x).2) := by
  induction bytes generalizing rx x with
  | nil => rfl
  | cons b rest ih =>
    rw [receive, receive]
    obtain ⟨next, _ | e⟩ := rx.byte held b
    · exact ih
    · dsimp only
      rw [within]
      exact ih

end Bytes

/-! ### Damaged frames -/

section Damaged

variable {s : State} {slot : SlotId} {bytes : List Byte}

/-- The cell link after bytes of a damaged frame. -/
def CellLink.afterBytes (k : CellLink) (bytes : List Byte) : CellLink :=
  let r := bytes.foldl (received k.holdoff fun e st => CellStatus.record st e) (k.rx, k.status)
  { k with rx := r.1, status := r.2 }

theorem State.cellBytes_eq (idle : s.setup.restart = .idle) :
    s.cellBytes bytes = { s with live := { s.live with cell := s.live.cell.afterBytes bytes } } := by
  rw [State.cellBytes, if_neg (not_not_intro idle)]
  have lifted := receive_within (held := s.live.cell.holdoff) (rx := s.live.cell.rx) (bytes := bytes)
    (put := fun st => ({ s.live with cell := { s.live.cell with status := st } } : Live)) (record' := Live.cellError)
    (record := fun e st => CellStatus.record st e) (fun _ _ => rfl) (x := s.live.cell.status)
  rw [receive_eq_foldl (record := fun e st => CellStatus.record st e)] at lifted
  dsimp only
  rw [show receive _ _ _ _ s.live = _ from lifted]
  rfl

/-- A head link that is UP after bytes of a damaged frame: each is line activity (R173). -/
def HeadLink.afterBytes (k : HeadLink) (bytes : List Byte) : HeadLink :=
  let r := bytes.foldl (received false fun e st => HeadStatus.record st e) (k.rx, k.status)
  { k with silence := some 250, rx := r.1, status := r.2 }

theorem State.headBytes_eq (up : s.live.heads[slot].up = true) :
    s.headBytes slot bytes = { s with live := s.live.updHead slot fun k => k.afterBytes bytes } := by
  have heard : s.live.lineByte s.setup slot =
      s.live.updHead slot fun k => { k with silence := some 250, status := s.live.heads[slot].status } := by
    rw [Live.lineByte_up up]
    exact Live.updHead_congr rfl
  have lifted := receive_within (held := false) (rx := s.live.heads[slot].rx) (bytes := bytes)
    (put := fun st => s.live.updHead slot fun k => { k with silence := some 250, status := st })
    (record' := fun e l => l.headError slot e) (record := fun e st => HeadStatus.record st e)
    (fun _ _ => Live.updHead_updHead) (x := s.live.heads[slot].status)
  rw [receive_eq_foldl (record := fun e st => HeadStatus.record st e)] at lifted
  have receiver : (s.live.lineByte s.setup slot).heads[slot].rx = s.live.heads[slot].rx := by
    rw [heard, Live.updHead_self]
  rw [State.headBytes]
  rw [receiver, heard, lifted, Live.updHead_updHead]
  exact congrArg (fun l => ({ s with live := l } : State)) (Live.updHead_congr rfl)

end Damaged

end Receivers

/-- Settles O55: the receiver row by row, the records error by error, a damaged frame byte by byte. -/
theorem receivers : Obligations.Receivers := by
  refine ⟨crcOf_digits, fun held rx b => ⟨Receiver.byte_outside, Receiver.byte_inside, ?_, Receiver.byte_escaped⟩,
    fun a b e => ⟨a.record_eq e, b.record_eq⟩, fun slot b bytes s held idle => ⟨?_, fun up => ?_⟩⟩
  · rintro inside discards rfl
    exact Receiver.byte_discarding inside discards
  · refine ⟨s.live.cell.afterBytes (b :: bytes), ?_, rfl, rfl, rfl, rfl⟩
    exact (event_taken held).trans (congrArg _ (State.cellBytes_eq idle))
  · refine ⟨s.live.heads[slot].afterBytes (b :: bytes), ?_, up, rfl, rfl, rfl, rfl⟩
    exact (event_taken held).trans (congrArg _ (State.headBytes_eq up))

end Sys2Proof.Machine
end

section
/-! PROOFS. STORE READ, STORE WRITE and the end of a write (O57). -/

namespace Sys2Proof.Machine

open Sys2Proof.Safety

section StoreAccess

variable {h : Header} {addr count : Nat} {data : List Byte} {s : State}

/-- The checks of a STORE READ in their order (R184). -/
def storeReadChecks (m : Store) (addr count : Nat) : List (Bool × Reason) :=
  [ (m.writing.isSome, .busy), (count == 0 || decide (48 < count), .badValue), (decide (8192 < addr + count), .badAddress) ]

theorem storeRead_eq (w : Weighed s) (plain : Plain h 7) :
    exec (.storeRead h addr count) s = .next (refusedOr s h (storeReadChecks s.setup.store addr count)
      (answered s h (.storeBytes addr count (s.setup.store.bytes addr count)))) := by
  have range : (!within 1 48 count) = (count == 0 || decide (48 < count)) := by
    rw [Bool.eq_iff_iff]
    simp only [Bool.not_eq_true', within_eq_false, Bool.or_eq_true, beq_iff_eq, decide_eq_true_eq]
    omega
  rw [show exec (.storeRead h addr count) s = execStoreRead h addr count s from rfl, execStoreRead,
    manage_taken w plain (by simp), range]
  simp only [storeReadChecks, refusedOr_cons, refusedOr_nil, decide_eq_true_eq]
  rfl

/-- The checks of a STORE WRITE of `n` bytes in their order (R185). -/
def storeWriteChecks (m : Store) (addr n : Nat) : List (Bool × Reason) :=
  [ (m.writing.isSome, .busy), (decide (8191 < addr) || decide (addr / 16 ≠ (addr + n - 1) / 16), .badAddress),
    (decide (addr < 256), .protected_) ]

theorem storeWriteReason_eq {m : Store} {n : Nat} : storeWriteReason m addr n = firstReason (storeWriteChecks m addr n) := by
  simp only [storeWriteReason, storeWriteChecks, firstReason_cons, Bool.or_eq_true, decide_eq_true_eq]
  rfl

theorem storeWrite_eq (w : Weighed s) (selector : h.selector = 0) (low : 7 ≤ h.length) (high : h.length ≤ 22)
    (size : data.length = h.length - 6) :
    exec (.storeWrite h addr data) s = .next (refusedOr s h (storeWriteChecks s.setup.store addr data.length)
      { closed s with setup := { s.setup with store := { s.setup.store with
          writing := some { addr, data, left := 5, answer := some h.tag } } } }) := by
  have length : (within 7 22 h.length && data.length == h.length - 6) = true :=
    Bool.and_eq_true_iff.2 ⟨within_eq_true.2 ⟨low, high⟩, beq_iff_eq.2 size⟩
  rw [show exec (.storeWrite h addr data) s = execStoreWrite h addr data s from rfl, execStoreWrite,
    w.taken (beq_iff_eq.2 selector) length (by simp), closed_setup, storeWriteReason_eq, refusedOr]
  cases firstReason (storeWriteChecks s.setup.store addr data.length) <;> rfl

/-! ### The end of a write (R185) -/

/-- The store once its write has ended, at the moment its time has passed. -/
def State.storeAfterWrite (w : StoreWrite) (s : State) : Store := (s.elapse w.left).setup.store.finishWrite

theorem State.storeAfterWrite_eq {w : StoreWrite} (writing : s.setup.store.writing = some w) :
    s.storeAfterWrite w = { s.setup.store with
      writing := none
      cells := if s.setup.store.present = true then Memory.writeAll s.setup.store.cells w.addr w.data
        else s.setup.store.cells } := by
  simp only [storeAfterWrite, elapse, Store.finishWrite, writing, Option.map_some]

/-- The state as the write ends, before its ANSWER. -/
def State.writeEnded (w : StoreWrite) (s : State) : State :=
  { s.elapse w.left with setup := { (s.elapse w.left).setup with store := s.storeAfterWrite w } }

theorem storeWriteEnd_none (idle : s.setup.store.writing = none) : exec .storeWriteEnd s = .next s := by
  rw [show exec .storeWriteEnd s = execStoreWriteEnd s from rfl, execStoreWriteEnd, idle]

theorem storeWriteEnd_some {w : StoreWrite} (writing : s.setup.store.writing = some w) :
    exec .storeWriteEnd s = .next (s.endStoreWrite w) := by
  rw [show exec .storeWriteEnd s = execStoreWriteEnd s from rfl, execStoreWriteEnd, writing]

theorem State.endStoreWrite_answers {w : StoreWrite} {seq : Nat} (answer : w.answer = some seq)
    (free : s.setup.resetHeld = false) :
    s.endStoreWrite w = (s.writeEnded w).place (.answer seq (.storeWritten w.addr w.data.length)) := by
  rw [endStoreWrite, answer]
  exact if_neg (Bool.eq_false_iff.1 free)

/-- With its ANSWER lost by a reset, or under a held reset pin, the write ends without a word (log entry 19). -/
theorem State.endStoreWrite_silent {w : StoreWrite} (silent : w.answer = none ∨ s.setup.resetHeld = true) :
    s.endStoreWrite w = s.writeEnded w := by
  rw [endStoreWrite]
  cases answer : w.answer with
  | none => rfl
  | some seq => exact if_pos (silent.resolve_left (answer ▸ nofun))

end StoreAccess

/-- Settles O57: each message by its checks, and the end of a write by what the store then holds. -/
theorem storeAccess : Obligations.StoreAccess := by
  refine fun h addr count data s => ⟨fun w plain => ⟨fun r first => ?_, fun idle low high room => ?_⟩,
    fun w selector low high size => ⟨fun r first => ?_, fun passes => ?_⟩, storeWriteEnd_none, fun w writing => ?_⟩
  · rw [storeRead_eq w plain]
    exact congrArg _ (refusedOr_refused first)
  · refine ⟨s.setup.store.bytes addr count, ?_, Store.bytes_length _ _ _, fun i lt => Store.bytes_get _ _ _ _ lt⟩
    rw [storeRead_eq w plain, refusedOr_passed]
    have nonzero : count ≠ 0 := by omega
    simp [storeReadChecks, firstReason, idle, nonzero, Nat.not_lt.2 high, Nat.not_lt.2 room]
  · rw [storeWrite_eq w selector low high size]
    exact congrArg _ (refusedOr_refused first)
  · rw [storeWrite_eq w selector low high size]
    exact congrArg _ (refusedOr_passed passes)
  · have store := State.storeAfterWrite_eq writing
    rw [storeWriteEnd_some writing]
    refine ⟨s.storeAfterWrite w, fun seq answer free => congrArg _ (State.endStoreWrite_answers answer free),
      fun silent => congrArg _ (State.endStoreWrite_silent silent), ?_⟩
    rw [store]
    refine ⟨rfl, rfl, fun absent => if_neg (Bool.eq_false_iff.1 absent), fun present canonical room => ?_⟩
    dsimp only
    rw [if_pos present]
    exact ⟨Memory.wf_writeAll canonical room, fun a _ => Memory.read_writeAll canonical room⟩

end Sys2Proof.Machine
end

section
/-! PROOFS. The store in canonical form (O6). -/

namespace Sys2Proof.Machine

open Sys2Proof.Safety

/-! ### The law of R184 and R185 on the setup -/

/-- A change that a head report makes keeps a law of the setup. -/
theorem KeepsLaw.headReport {P : Setup → Prop} {take : State → State} {s t : State} {slot : SlotId} {hs : Nat}
    (k : KeepsLaw P take) (e : headReport slot hs take s = .next t) (law : P s.setup) : P t.setup := by
  obtain same | ⟨u, same, rfl⟩ := headReport_setup e
  · rwa [same]
  · exact k u (by rwa [same])

/-- A write lies within the store. -/
def StoreWrite.Inside (w : StoreWrite) : Prop := w.addr + w.data.length ≤ Config.storeSize

/-- The law of R184 and R185 on the store alone. -/
structure Store.Canonical (m : Store) : Prop where
  cells : Memory.wf m.cells = true
  inside : ∀ w, m.writing = some w → w.Inside

/-- The law of R184 and R185 on the setup alone. -/
def Setup.Stored (c : Setup) : Prop := c.store.Canonical

theorem storeCanonical_iff (s : State) : StoreCanonical s ↔ s.setup.Stored :=
  ⟨fun ⟨cells, inside⟩ => ⟨cells, inside⟩, fun ⟨cells, inside⟩ => ⟨cells, inside⟩⟩

namespace Store.Canonical

variable {m n : Store}

/-- The contents stand, and a write in progress, with other time left or another answer, is where it was. -/
theorem rewrite {f : StoreWrite → StoreWrite} (k : m.Canonical) (cells : n.cells = m.cells)
    (writing : n.writing = m.writing.map f) (place : ∀ w, (f w).addr = w.addr ∧ (f w).data = w.data) : n.Canonical where
  cells := cells ▸ k.cells
  inside := fun w found => by
    obtain ⟨v, old, rfl⟩ := Option.map_eq_some_iff.1 (writing ▸ found)
    obtain ⟨addr, data⟩ := place v
    have inside := k.inside v old
    unfold StoreWrite.Inside at inside ⊢
    rwa [addr, data]

/-- A write begun within the store. -/
theorem withWriting {w : StoreWrite} (k : m.Canonical) (inside : w.Inside) : Store.Canonical { m with writing := some w } where
  cells := k.cells
  inside := fun _ found => Option.some.inj found ▸ inside

/-- The end of a write leaves none in progress. -/
theorem finishWrite (k : m.Canonical) : m.finishWrite.Canonical where
  cells := m.finishWrite_wf k.cells k.inside
  inside := fun _ found => nomatch m.finishWrite_writing.symm.trans found

end Store.Canonical

section Operations

variable {c d : Setup} {s : State}

/-- A change of the setup outside the store keeps the law. -/
theorem Setup.Stored.congr (k : c.Stored) (same : d.store = c.store) : d.Stored := by
  unfold Setup.Stored
  rwa [same]

/-- Time runs the write in progress down. -/
theorem State.elapse_stored (n : Nat) (k : s.setup.Stored) : (s.elapse n).setup.Stored :=
  Store.Canonical.rewrite k rfl rfl fun _ => ⟨rfl, rfl⟩

/-- A reset takes the ANSWER of the write in progress and nothing else of the store (R185). -/
theorem State.takeReset_stored (cause : ResetCause) (k : s.setup.Stored) : (s.takeReset cause).setup.Stored :=
  Store.Canonical.rewrite k rfl rfl fun _ => ⟨rfl, rfl⟩

theorem State.endStoreWrite_stored (w : StoreWrite) (k : s.setup.Stored) : (s.endStoreWrite w).setup.Stored := by
  have ended : (s.writeEnded w).setup.Stored := (State.elapse_stored w.left k).finishWrite
  unfold endStoreWrite
  dsimp only
  split
  · split
    · exact ended
    · exact ended
  · exact ended

/-- A write that R185 admits stays within its 16 bytes, and so within the store. -/
theorem storeWrite_inside {m : Store} {addr n : Nat} (admitted : storeWriteReason m addr n = none) :
    addr + n ≤ Config.storeSize := by
  have size : Config.storeSize = 8192 := rfl
  unfold storeWriteReason at admitted
  split at admitted
  · cases admitted
  · split at admitted
    · cases admitted
    · omega

theorem Setup.openPattern_store {p n : Nat} (o : c.openPattern p n = .ok d) : d.store = c.store := by
  obtain ⟨i, -, -, -, rfl⟩ := Setup.openPattern_ok o
  rfl

theorem Setup.writeRows_store {p n : Nat} {rows : List RawRow} {y : Pattern} (o : c.writeRows p n rows = .ok (d, y)) :
    d.store = c.store := by
  obtain ⟨i, x, -, -, rfl⟩ := Setup.writeRows_ok o
  rfl

theorem loadRecord_store {e f : Engine} {b : List Byte} (o : loadRecord c e b = .ok (d, f)) : d.store = c.store := by
  obtain rfl | ⟨p, n, o⟩ | ⟨p, n, rows, y, o⟩ := loadRecord_ok o
  · rfl
  · exact Setup.openPattern_store o
  · exact Setup.writeRows_store o

theorem State.readHeader_store (e : Engine) : (s.readHeader e).setup.store = s.setup.store := by
  unfold readHeader
  dsimp only
  split
  · rfl
  · split <;> rfl

theorem State.readRecord_store (e : Engine) (addr left position : Nat) (crc want : BitVec 16) :
    (s.readRecord e addr left position crc want).setup.store = s.setup.store := by
  unfold readRecord
  dsimp only
  split
  · rfl
  · split
    next => rfl
    next o =>
      have same := loadRecord_store o
      exact same

theorem State.placeRestartAnswer_store : s.placeRestartAnswer.setup.store = s.setup.store := by
  unfold placeRestartAnswer
  split
  · split <;> rfl
  · rfl

theorem State.guardMoved_store (before after : GuardState) :
    (s.guardMoved before after).setup.store = s.setup.store := by
  unfold guardMoved
  split
  · split <;> rfl
  · rfl
  · rfl

theorem State.latch_store : s.latch.setup.store = s.setup.store := by
  unfold latch
  dsimp only
  split <;> rfl

end Operations

/-! ### What each command keeps -/

section Commands

variable {s t : State}

theorem execStoreWrite_stored {h : Header} {addr : Nat} {data : List Byte} (e : execStoreWrite h addr data s = .next t)
    (k : s.setup.Stored) : t.setup.Stored := by
  refine KeepsLaw.cellMessage ?_ e k
  intro s k
  beta_reduce
  split
  next => exact k
  next admitted => exact Store.Canonical.withWriting k (storeWrite_inside admitted)

theorem execStoreWriteEnd_stored (e : execStoreWriteEnd s = .next t) (k : s.setup.Stored) : t.setup.Stored := by
  unfold execStoreWriteEnd at e
  split at e
  · obtain rfl := Host.Outcome.next.inj e
    exact k
  · obtain rfl := Host.Outcome.next.inj e
    exact State.endStoreWrite_stored _ k

theorem execPatternOpen_stored {h : Header} {p n : Nat} (e : execPatternOpen h p n s = .next t) (k : s.setup.Stored) :
    t.setup.Stored := by
  refine KeepsLaw.manage ?_ e k
  intro s k
  beta_reduce
  split
  next => exact k
  next o => exact k.congr (Setup.openPattern_store o)

theorem execPatternRows_stored {h : Header} {p n : Nat} {rows : List RawRow}
    (e : execPatternRows h p n rows s = .next t) (k : s.setup.Stored) : t.setup.Stored := by
  refine KeepsLaw.manage ?_ e k
  intro s k
  beta_reduce
  split
  next => exact k
  next => exact k
  next o => exact k.congr (Setup.writeRows_store o)

theorem execRestart_stored {h : Header} (e : execRestart h s = .next t) (k : s.setup.Stored) : t.setup.Stored := by
  refine KeepsLaw.manage ?_ e k
  intro s k
  beta_reduce
  split
  · exact k
  · exact k.congr State.placeRestartAnswer_store

theorem execPreloadHeaderRead_stored (e : execPreloadHeaderRead s = .next t) (k : s.setup.Stored) :
    t.setup.Stored := by
  refine KeepsLaw.event ?_ e k
  intro s k
  beta_reduce
  split
  · exact k
  · split
    · exact k
    · split
      · exact k
      · exact k.congr (State.readHeader_store _)

theorem execPreloadRecord_stored (e : execPreloadRecord s = .next t) (k : s.setup.Stored) : t.setup.Stored := by
  refine KeepsLaw.event ?_ e k
  intro s k
  beta_reduce
  split
  · exact k
  · split
    · exact k
    · split
      · exact k
      · exact k.congr (State.readRecord_store _ _ _ _ _ _)

theorem execCellSentEvent_stored (e : execCellSentEvent s = .next t) (k : s.setup.Stored) : t.setup.Stored := by
  refine KeepsLaw.event ?_ e k
  intro s k
  beta_reduce
  split
  · exact k
  · split
    · exact State.takeReset_stored _ k
    · exact k.congr (c := s.setup) State.placeRestartAnswer_store

theorem execResetPinRelease_stored (e : execResetPinRelease s = .next t) (k : s.setup.Stored) : t.setup.Stored := by
  unfold execResetPinRelease at e
  split at e
  · obtain rfl := Host.Outcome.next.inj e
    exact State.takeReset_stored _ k
  · obtain rfl := Host.Outcome.next.inj e
    exact k

theorem execGuardChannelChange_stored {ch : Channel} {v : Level} (e : execGuardChannelChange ch v s = .next t)
    (k : s.setup.Stored) : t.setup.Stored := by
  by_cases unheard : s.setup.resetHeld = true ∨ s.setup.guard.level ch = v
  · obtain rfl := Host.Outcome.next.inj ((channel_unheard unheard).symm.trans e)
    exact k
  · obtain ⟨free, moved⟩ := not_or.1 unheard
    obtain rfl := Host.Outcome.next.inj ((channel_heard (Bool.eq_false_iff.2 free) moved).symm.trans e)
    exact k.congr (State.guardMoved_store _ _)

theorem execDiscrepancyExpiry_stored (e : execDiscrepancyExpiry s = .next t) (k : s.setup.Stored) :
    t.setup.Stored := by
  refine KeepsLaw.event ?_ e k
  intro s k
  beta_reduce
  split
  · exact k
  · exact (State.elapse_stored _ k).congr State.latch_store

theorem stageExpiry_stored {slot : SlotId} {p : TimedStage → Bool} {take : Setup → TimedStage → Taking → Taking}
    (e : stageExpiry slot p take s = .next t) (k : s.setup.Stored) : t.setup.Stored := by
  refine KeepsLaw.event ?_ e k
  intro s k
  beta_reduce
  split
  · exact k
  · split
    · exact State.elapse_stored _ k
    · exact k

theorem orderMessage_stored {h : Header} {length : Nat} {m : OrderMsg} (e : orderMessage h length m s = .next t)
    (k : s.setup.Stored) : t.setup.Stored := by
  refine KeepsLaw.cellMessage ?_ e k
  intro s k
  unfold takeOrder
  split <;> exact k

end Commands

/-- Every command keeps the law: STORE WRITE begins a write within the store, its end writes there, time and a reset leave
it where it is, and no other command touches the store. -/
theorem exec_stored (i : Instr) (s t : State) (e : exec i s = .next t) (k : s.setup.Stored) : t.setup.Stored := by
  cases i
  case storeWrite => exact execStoreWrite_stored e k
  case storeWriteEnd => exact execStoreWriteEnd_stored e k
  case drill | ream | setRivet | heat | clamp | unclamp | park => exact orderMessage_stored e k
  case patternOpen => exact execPatternOpen_stored e k
  case patternRows => exact execPatternRows_stored e k
  case restart => exact execRestart_stored e k
  case preloadHeaderRead => exact execPreloadHeaderRead_stored e k
  case preloadRecord => exact execPreloadRecord_stored e k
  case cellSentEvent => exact execCellSentEvent_stored e k
  case resetPinRelease => exact execResetPinRelease_stored e k
  case guardChannelChange => exact execGuardChannelChange_stored e k
  case discrepancyExpiry => exact execDiscrepancyExpiry_stored e k
  case powerUp =>
    obtain rfl := Host.Outcome.next.inj e
    exact State.takeReset_stored _ k
  case resetPinHeld =>
    obtain rfl := Host.Outcome.next.inj e
    exact k
  case acceptStageExpiry | runStageExpiry | travelStageExpiry | graceStageExpiry | abortStageExpiry =>
    dsimp only [exec, execAcceptStageExpiry, execRunStageExpiry, execTravelStageExpiry, execGraceStageExpiry,
      execAbortStageExpiry] at e
    exact stageExpiry_stored e k
  -- the other messages, reports and events read the store at most
  case cancel | unknownKind | patternDelete | tableWriteTiming | tableWriteSlot | tableWriteZone | tableWriteLane
      | tableWritePump | frameBegin | frameEnd | frameAbandon | modeRun | modeHold | modeResume | holeRework | slotClear
      | slotRelease | lampSet | noticeTake | storeRead | reload | unlock | queryStatus | queryHole | queryOrder | querySlot
      | queryRail | queryLane | queryZone | queryPump | queryLink | queryTable | queryPattern =>
    dsimp only [exec, execCancel, execUnknownKind, execPatternDelete, execTableWriteTiming, execTableWriteSlot,
      execTableWriteZone, execTableWriteLane, execTableWritePump, execFrameBegin, execFrameEnd, execFrameAbandon,
      execModeRun, execModeHold, execModeResume, execHoleRework, execSlotClear, execSlotRelease, execLampSet,
      execNoticeTake, execStoreRead, execReload, execUnlock, execQueryStatus, execQueryHole, execQueryOrder,
      execQuerySlot, execQueryRail, execQueryLane, execQueryZone, execQueryPump, execQueryLink, execQueryTable,
      execQueryPattern, manage, tableWrite, modeMessage, query] at e
    refine KeepsLaw.cellMessage (fun s k => k.congr ?_) e k
    repeat' split
    all_goals rfl
  case hello | accept | done | abortedNone | abortedPartial | arrived | fault | leverOpen | leverClosed =>
    dsimp only [exec, execHello, execAccept, execDone, execAbortedNone, execAbortedPartial, execArrived, execFault,
      execLeverOpen, execLeverClosed, State.abortedHeat] at e
    refine KeepsLaw.headReport (fun s k => k.congr ?_) e k
    repeat' split
    all_goals rfl
  case damagedFrame | holdoffDiscard | restartDiscardedFrame | linkUp | clampState | headMessageSetAside | headSentEvent
      | startDelimiter | lineActivity | preloadEnd =>
    dsimp only [exec, execDamagedFrame, execHoldoffDiscard, execRestartDiscardedFrame, execLinkUp, execClampState,
      execHeadMessageSetAside, execHeadSentEvent, execStartDelimiter, execLineActivity, execPreloadEnd, State.cellBytes,
      State.clampReport] at e
    refine KeepsLaw.event (fun s k => k.congr ?_) e k
    repeat' split
    all_goals rfl
  -- and those that let time pass
  case headLinkHoldEnd | linkDown | cadenceExpiry =>
    dsimp only [exec, execHeadLinkHoldEnd, execLinkDown, execCadenceExpiry] at e
    refine KeepsLaw.event (fun s k => ?_) e k
    split
    · exact k
    · exact State.elapse_stored _ k
  case rivetExpiryUnassigned | rivetExpiryAssigned | claimStarved =>
    dsimp only [exec, execRivetExpiryUnassigned, execRivetExpiryAssigned, execClaimStarved] at e
    refine KeepsLaw.event (fun s k => ?_) e k
    split
    · exact k
    · split
      · exact k
      · exact State.elapse_stored _ k

/-- Settles O6: a step runs one command or lets a millisecond pass, and either keeps the store canonical. -/
theorem stepKeepsStore : Obligations.StepKeepsStore := fun s t k e => by
  rw [storeCanonical_iff] at k ⊢
  exact step_keeps exec_stored (fun _ => State.elapse_stored 1) e k

end Sys2Proof.Machine
end

section
/-! PROOFS. No frame bound while the lockout is set (O9). -/

namespace Sys2Proof.Machine

open Sys2Proof.Safety

/-! ### The law of R191 on the setup -/

/-- The law of R191 on the setup alone, with what makes every step keep it: a running preload holds the lockout set (R187),
and STANDBY is the mode without a frame (R140). -/
structure Setup.Unbound (c : Setup) : Prop where
  locked : c.lockout = true → c.frame = none
  preloading : c.engine.isSome = true → c.lockout = true ∧ c.preload = .running
  standby : c.mode = .standby → c.frame = none

theorem lockedUnbound_iff (s : State) : LockedUnbound s ↔ s.setup.Unbound :=
  ⟨fun ⟨locked, preloading, standby⟩ => ⟨locked, preloading, standby⟩,
    fun ⟨locked, preloading, standby⟩ => ⟨locked, preloading, standby⟩⟩

namespace Setup.Unbound

variable {c d : Setup}

theorem of_keptBut {parts : List SetupPart} (u : c.Unbound) (k : c.KeptBut parts d) (frame : .frame ∉ parts)
    (mode : .mode ∉ parts) (preload : .preload ∉ parts) (lockout : .lockout ∉ parts) : d.Unbound := by
  have frame : d.frame = c.frame := k .frame frame
  have mode : d.mode = c.mode := k .mode mode
  have lockout : d.lockout = c.lockout := k .lockout lockout
  obtain ⟨preload, engine⟩ := k .preload preload
  refine ⟨?_, ?_, ?_⟩
  · rw [lockout, frame]
    exact u.locked
  · rw [engine, lockout, preload]
    exact u.preloading
  · rw [mode, frame]
    exact u.standby

/-- With no frame bound only the preload is left to look at. -/
theorem of_frame (unbound : d.frame = none) (preloading : d.engine.isSome = true → d.lockout = true ∧ d.preload = .running) :
    d.Unbound := ⟨fun _ => unbound, preloading, fun _ => unbound⟩

/-- With no frame bound and no preload running the law holds. -/
theorem of_ended (unbound : d.frame = none) (ended : d.engine = none) : d.Unbound :=
  of_frame unbound fun runs => nomatch ended ▸ runs

/-- While a preload runs no frame is bound. -/
theorem engine_unbound (u : c.Unbound) {e : Engine} (engine : c.engine = some e) : c.frame = none :=
  u.locked (u.preloading (engine ▸ rfl)).1

/-- A preload under way goes on (R187, R188). -/
theorem withEngine (u : c.Unbound) {e : Engine} (engine : c.engine = some e) (k : c.KeptBut [.patterns] d)
    (f : Engine) : Setup.Unbound { d with engine := some f } := by
  have frame : d.frame = c.frame := k .frame (by simp)
  have lockout : d.lockout = c.lockout := k .lockout (by simp)
  obtain ⟨preload, -⟩ := k .preload (by simp)
  refine of_frame (frame.trans (u.engine_unbound engine)) fun _ => ?_
  exact ⟨lockout.trans (u.preloading (engine ▸ rfl)).1, preload.trans (u.preloading (engine ▸ rfl)).2⟩

/-- A mode other than STANDBY asks nothing of the frame. -/
theorem moved (u : c.Unbound) (k : c.KeptBut [.mode] d) (moving : d.mode ≠ .standby) : d.Unbound := by
  have frame : d.frame = c.frame := k .frame (by simp)
  have lockout : d.lockout = c.lockout := k .lockout (by simp)
  obtain ⟨preload, engine⟩ := k .preload (by simp)
  refine ⟨?_, ?_, fun standby => absurd standby moving⟩
  · rw [lockout, frame]
    exact u.locked
  · rw [engine, lockout, preload]
    exact u.preloading

end Setup.Unbound

/-- A cell message that a preload holds back reaches its block under no running preload, and one that the lockout holds back
under no lockout (R190, R191). -/
theorem cellMessage_passed {form : ReplyForm} {h : Header} {selOk lenOk lockable : Bool} {take : State → State} {s t : State}
    (e : cellMessage form h false selOk lenOk lockable take s = .next t) :
    t.setup = s.setup ∨ s.setup.preload ≠ .running ∧ (lockable = true → s.setup.lockout = false)
      ∧ ∃ u : State, u.setup = s.setup ∧ t = take u := by
  by_cases holds : s.setup.preload = .running ∨ (lockable = true ∧ s.setup.lockout = true)
  · left
    unfold cellMessage at e
    dsimp only at e
    split at e
    · exact Host.Outcome.next.inj e ▸ rfl
    · split at e
      · exact Host.Outcome.next.inj e ▸ rfl
      · split at e
        · exact Host.Outcome.next.inj e ▸ rfl
        · split at e
          next => exact Host.Outcome.next.inj e ▸ rfl
          next idle =>
            split at e
            · exact Host.Outcome.next.inj e ▸ rfl
            · split at e
              · exact Host.Outcome.next.inj e ▸ rfl
              · split at e
                next => exact Host.Outcome.next.inj e ▸ rfl
                next unlocked =>
                  refine absurd holds ?_
                  simpa using And.intro idle unlocked
  · obtain ⟨idle, unlocked⟩ := not_or.1 holds
    exact (cellMessage_setup e).imp_right fun taken =>
      ⟨idle, fun asks => Bool.eq_false_iff.2 fun set => unlocked ⟨asks, set⟩, taken⟩

/-- A law of the setup that a management message keeps where it is not held back. -/
theorem manage_keeps {P : Setup → Prop} {h : Header} {length : Nat} {lockable : Bool} {take : State → State} {s t : State}
    (k : ∀ s : State, P s.setup → s.setup.preload ≠ .running → (lockable = true → s.setup.lockout = false) →
      P (take s).setup) (e : manage h length lockable take s = .next t) (law : P s.setup) : P t.setup := by
  obtain same | ⟨idle, unlocked, u, same, rfl⟩ := cellMessage_passed e
  · rwa [same]
  · rw [← same] at law idle unlocked
    exact k u law idle unlocked

section Operations

variable {s : State}

theorem State.elapse_unbound (n : Nat) (u : s.setup.Unbound) : (s.elapse n).setup.Unbound :=
  u.of_keptBut (s.elapse_keptBut n) (by simp) (by simp) (by simp) (by simp)

/-- A reset unbinds the frame and begins a preload (R24, R187). -/
theorem State.takeReset_unbound (cause : ResetCause) : (s.takeReset cause).setup.Unbound :=
  .of_frame rfl fun _ => ⟨rfl, rfl⟩

theorem State.failPreload_unbound (position : Nat) (r : Reason) (unbound : s.setup.frame = none) :
    (s.failPreload position r).setup.Unbound := .of_ended unbound rfl

theorem State.readHeader_unbound {e : Engine} (u : s.setup.Unbound) (engine : s.setup.engine = some e) :
    (s.readHeader e).setup.Unbound := by
  unfold readHeader
  dsimp only
  split
  · exact .of_ended (u.engine_unbound engine) rfl
  · split
    · exact State.failPreload_unbound _ _ (u.engine_unbound engine)
    · exact u.withEngine engine (.of_eq rfl) _

theorem State.readRecord_unbound {e : Engine} {addr left position : Nat} {crc want : BitVec 16} (u : s.setup.Unbound)
    (engine : s.setup.engine = some e) : (s.readRecord e addr left position crc want).setup.Unbound := by
  unfold readRecord
  dsimp only
  split
  · exact State.failPreload_unbound _ _ (u.engine_unbound engine)
  · split
    next => exact State.failPreload_unbound _ _ (u.engine_unbound engine)
    next taken => exact u.withEngine engine (loadRecord_keptBut taken) _

theorem State.guardMoved_unbound (before after : GuardState) (u : s.setup.Unbound) :
    (s.guardMoved before after).setup.Unbound := by
  unfold guardMoved
  split
  · split
    · exact u
    · exact ⟨u.locked, u.preloading, nofun⟩
  · exact u
  · exact u

end Operations

section Commands

variable {s t : State}

/-- FRAME BEGIN binds under no lockout, and so under no preload, and leaves STANDBY (R9, R191). -/
theorem execFrameBegin_unbound {h : Header} {p serial : Nat} (e : execFrameBegin h p serial s = .next t)
    (k : s.setup.Unbound) : t.setup.Unbound := by
  refine manage_keeps ?_ e k
  intro s k _ unlocked
  split
  · exact k
  · split
    · exact k
    · split
      · exact k
      · split
        · exact k
        · exact ⟨fun locked => absurd locked (Bool.eq_false_iff.1 (unlocked rfl)), k.preloading, nofun⟩

theorem execFrameEnd_unbound {h : Header} (e : execFrameEnd h s = .next t) (k : s.setup.Unbound) : t.setup.Unbound := by
  refine KeepsLaw.manage ?_ e k
  intro s k
  beta_reduce
  split
  · exact k
  · split
    · exact k
    · split
      · exact k
      · split
        · exact k
        · exact .of_frame rfl k.preloading

theorem execFrameAbandon_unbound {h : Header} (e : execFrameAbandon h s = .next t) (k : s.setup.Unbound) :
    t.setup.Unbound := by
  refine KeepsLaw.manage ?_ e k
  intro s k
  beta_reduce
  split
  · exact k
  · split
    · exact k
    · exact .of_frame rfl k.preloading

theorem execModeRun_unbound {h : Header} (e : execModeRun h s = .next t) (k : s.setup.Unbound) : t.setup.Unbound := by
  refine KeepsLaw.modeMessage ?_ e k
  intro s k
  beta_reduce
  split
  · exact k
  · split
    · exact k
    · split
      · exact k
      · split
        · exact k.moved (s.startMode_keptBut _ _ _) nofun
        · exact k

theorem execModeHold_unbound {h : Header} (e : execModeHold h s = .next t) (k : s.setup.Unbound) :
    t.setup.Unbound := by
  refine KeepsLaw.modeMessage ?_ e k
  intro s k
  beta_reduce
  split
  · exact k
  · split
    · exact k
    · split
      · exact k.moved (s.holdMode_keptBut _) nofun
      · exact k

/-- MODE RESUME comes to STANDBY where no frame is bound (R145). -/
theorem execModeResume_unbound {h : Header} (e : execModeResume h s = .next t) (k : s.setup.Unbound) :
    t.setup.Unbound := by
  refine KeepsLaw.modeMessage ?_ e k
  intro s k
  beta_reduce
  split
  · exact k
  · split
    · exact k
    · split
      · exact k
      · split
        next => exact k.moved (s.holdMode_keptBut _) nofun
        next unbound => exact .of_frame (Option.not_isSome_iff_eq_none.1 unbound) k.preloading

theorem execGuardChannelChange_unbound {ch : Channel} {v : Level} (e : execGuardChannelChange ch v s = .next t)
    (k : s.setup.Unbound) : t.setup.Unbound := by
  by_cases unheard : s.setup.resetHeld = true ∨ s.setup.guard.level ch = v
  · obtain rfl := Host.Outcome.next.inj ((channel_unheard unheard).symm.trans e)
    exact ⟨k.locked, k.preloading, k.standby⟩
  · obtain ⟨free, moved⟩ := not_or.1 unheard
    obtain rfl := Host.Outcome.next.inj ((channel_heard (Bool.eq_false_iff.2 free) moved).symm.trans e)
    exact State.guardMoved_unbound _ _ ⟨k.locked, k.preloading, k.standby⟩

/-- UNLOCK is refused while a preload runs (R190), so it opens the lockout under none. -/
theorem execUnlock_unbound {h : Header} (e : execUnlock h s = .next t) (k : s.setup.Unbound) : t.setup.Unbound := by
  refine manage_keeps ?_ e k
  intro s k idle _
  exact ⟨nofun, fun runs => absurd (k.preloading runs).2 idle, k.standby⟩

/-- RELOAD sets the lockout in STANDBY alone (R192). -/
theorem execReload_unbound {h : Header} (e : execReload h s = .next t) (k : s.setup.Unbound) : t.setup.Unbound := by
  refine KeepsLaw.manage ?_ e k
  intro s k
  beta_reduce
  split
  next => exact k
  next standby =>
    split
    · exact k
    · split
      · exact k
      · exact .of_frame (k.standby (not_not.1 standby)) fun _ => ⟨rfl, rfl⟩

theorem execPreloadHeaderRead_unbound (e : execPreloadHeaderRead s = .next t) (k : s.setup.Unbound) :
    t.setup.Unbound := by
  refine KeepsLaw.event ?_ e k
  intro s k
  beta_reduce
  split
  next => exact k
  next engine =>
    split
    · exact k
    · split
      · exact k
      · exact State.readHeader_unbound k engine

theorem execPreloadRecord_unbound (e : execPreloadRecord s = .next t) (k : s.setup.Unbound) : t.setup.Unbound := by
  refine KeepsLaw.event ?_ e k
  intro s k
  beta_reduce
  split
  next => exact k
  next engine =>
    split
    · exact k
    · split
      · exact k
      · exact State.readRecord_unbound k engine

theorem execPreloadEnd_unbound (e : execPreloadEnd s = .next t) (k : s.setup.Unbound) : t.setup.Unbound := by
  refine KeepsLaw.event ?_ e k
  intro s k
  beta_reduce
  split
  next => exact k
  next engine =>
    split
    · exact k
    · split
      · exact k
      · split
        · exact State.failPreload_unbound _ _ (k.engine_unbound engine)
        · exact .of_ended (k.engine_unbound engine) rfl

theorem execCellSentEvent_unbound (e : execCellSentEvent s = .next t) (k : s.setup.Unbound) : t.setup.Unbound := by
  refine KeepsLaw.event ?_ e k
  intro s k
  beta_reduce
  split
  · exact k
  · split
    · exact State.takeReset_unbound _
    · exact Setup.Unbound.of_keptBut (c := s.setup) k (State.placeRestartAnswer_writes [] _) (by simp) (by simp) (by simp)
        (by simp)

theorem execResetPinRelease_unbound (e : execResetPinRelease s = .next t) (k : s.setup.Unbound) :
    t.setup.Unbound := by
  unfold execResetPinRelease at e
  split at e
  · obtain rfl := Host.Outcome.next.inj e
    exact State.takeReset_unbound _
  · obtain rfl := Host.Outcome.next.inj e
    exact k

end Commands

/-- Every command keeps the law: one that writes none of its four parts by its frame (O3), any other by its own rule. -/
theorem exec_unbound (i : Instr) (s t : State) (e : exec i s = .next t) (k : s.setup.Unbound) : t.setup.Unbound := by
  by_cases apart : SetupPart.frame ∉ writes i ∧ SetupPart.mode ∉ writes i ∧ SetupPart.preload ∉ writes i
      ∧ SetupPart.lockout ∉ writes i
  · obtain ⟨frame, mode, preload, lockout⟩ := apart
    exact k.of_keptBut (exec_keptBut i s t e) frame mode preload lockout
  · cases i
    case frameBegin => exact execFrameBegin_unbound e k
    case frameEnd => exact execFrameEnd_unbound e k
    case frameAbandon => exact execFrameAbandon_unbound e k
    case modeRun => exact execModeRun_unbound e k
    case modeHold => exact execModeHold_unbound e k
    case modeResume => exact execModeResume_unbound e k
    case guardChannelChange => exact execGuardChannelChange_unbound e k
    case unlock => exact execUnlock_unbound e k
    case reload => exact execReload_unbound e k
    case preloadHeaderRead => exact execPreloadHeaderRead_unbound e k
    case preloadRecord => exact execPreloadRecord_unbound e k
    case preloadEnd => exact execPreloadEnd_unbound e k
    case cellSentEvent => exact execCellSentEvent_unbound e k
    case resetPinRelease => exact execResetPinRelease_unbound e k
    case powerUp =>
      obtain rfl := Host.Outcome.next.inj e
      exact State.takeReset_unbound _
    all_goals simp [writes] at apart

/-- Settles O9: a step runs one command or lets a millisecond pass, and either keeps the frame unbound under the lockout. -/
theorem stepKeepsLockout : Obligations.StepKeepsLockout := fun s t k e => by
  rw [lockedUnbound_iff] at k ⊢
  exact step_keeps exec_unbound (fun _ => State.elapse_unbound 1) e k

end Sys2Proof.Machine
end

section
/-! PROOFS. The preload: its header, its records and its ends (O58). -/

namespace Sys2Proof.Machine

open Sys2Proof.Safety

/-! ### The form of a record (R188, section 9.5) -/

section Records

variable {c : Setup} {e : Engine} {b : List Byte} {n : Nat} {i : PatternId} {x : Pattern} {t : Tables}

/-- The record is of a kind and a selector. -/
def recordIs (b : List Byte) (kind selector : Nat) : Prop := byteAt b 1 = kind ∧ byteAt b 3 = selector

/-- The record is of a kind of R188. -/
def recordKnown (b : List Byte) : Prop :=
  byteAt b 1 = 0x20 ∨ byteAt b 1 = 0x21 ∨ byteAt b 1 = 0x28 ∨ byteAt b 1 = 0x6A

/-- The kinds of R188 with their selectors and lengths. -/
theorem recordFits_iff : recordFits b = true ↔
    (recordIs b 0x20 0 ∧ b.length = 7) ∨ (recordIs b 0x21 0 ∧ b.length = 6 + 14 * byteAt b 5)
      ∨ (recordIs b 0x28 1 ∧ b.length = 9) ∨ (recordIs b 0x28 2 ∧ b.length = 7) ∨ (recordIs b 0x28 3 ∧ b.length = 7)
      ∨ (recordIs b 0x28 4 ∧ b.length = 9) ∨ (recordIs b 0x28 5 ∧ b.length = 5)
      ∨ (recordIs b 0x6A 0 ∧ b.length = 4) := by
  unfold recordFits recordIs
  split <;> simp_all

theorem recordKnown_iff : ([0x20, 0x21, 0x28, 0x6A] : List Nat).contains (byteAt b 1) = true ↔ recordKnown b := by
  simp [recordKnown]

theorem patternOf_eq_none : patternOf n = none ↔ n = 0 ∨ 4 < n := by
  unfold patternOf
  split <;> simp <;> omega

/-! ### What a record does (R188) -/

theorem loadRecord_unknown (unknown : ¬ recordKnown b) : loadRecord c e b = .error .unknownKind := by
  unfold loadRecord
  rw [Bool.eq_false_iff.2 (mt recordKnown_iff.1 unknown)]
  rfl

theorem loadRecord_misfit (known : recordKnown b) (misfit : recordFits b ≠ true) :
    loadRecord c e b = .error .badValue := by
  unfold loadRecord
  rw [recordKnown_iff.2 known, Bool.eq_false_iff.2 misfit]
  rfl

/-- A PATTERN OPEN record is taken as R2 has it. -/
theorem loadRecord_open (fits : recordFits b = true) (kind : byteAt b 1 = 0x20) :
    loadRecord c e b = (c.openPattern (byteAt b 4) (halfAt b 5)).map fun d => (d, e) := by
  simp only [loadRecord, fits, kind]
  cases c.openPattern (byteAt b 4) (halfAt b 5) <;> rfl

theorem loadRecord_open_badValue (fits : recordFits b = true) (kind : byteAt b 1 = 0x20)
    (out : patternOf (byteAt b 4) = none ∨ halfAt b 5 = 0 ∨ 1024 < halfAt b 5) : loadRecord c e b = .error .badValue := by
  rw [loadRecord_open fits kind, Setup.openPattern_badValue out]
  rfl

/-- One whose numbers are in range, by what the pattern and the pool hold. -/
theorem loadRecord_open_eq (fits : recordFits b = true) (kind : byteAt b 1 = 0x20)
    (named : patternOf (byteAt b 4) = some i) (low : 1 ≤ halfAt b 5) (high : halfAt b 5 ≤ 1024) :
    loadRecord c e b =
      if c.patterns[i] ≠ none then .error .exists_
      else if c.freeRows < halfAt b 5 then .error .noRoom
      else .ok (c.setPattern i (some { complete := false, count := halfAt b 5, rows := List.replicate (halfAt b 5) none })
        (c.freeRows - halfAt b 5), e) := by
  rw [loadRecord_open fits kind, Setup.openPattern_eq named low high]
  split
  · rfl
  · split <;> rfl

/-- The reason of a refused PATTERN ROWS, without the row of a BAD_ROW. -/
def RowsRefusal.asReason : RowsRefusal → Reason
  | .reason r => r
  | .badRow _ _ => .badRow

/-- A PATTERN ROWS record is taken as R3 to R5 have it. -/
theorem loadRecord_rows (fits : recordFits b = true) (kind : byteAt b 1 = 0x21) : loadRecord c e b =
    ((c.writeRows (byteAt b 4) (byteAt b 5) (rawRowsOf (b.drop 6) (byteAt b 5))).mapError RowsRefusal.asReason).map
      fun d => (d.1, e) := by
  simp only [loadRecord, fits, kind]
  cases c.writeRows (byteAt b 4) (byteAt b 5) (rawRowsOf (b.drop 6) (byteAt b 5)) with
  | error r => cases r <;> rfl
  | ok d => rfl

theorem rawRowsOf_length (b : List Byte) (k : Nat) : (rawRowsOf b k).length = k := by
  induction k generalizing b with
  | zero => rfl
  | succ k ih => exact congrArg (· + 1) (ih _)

/-- One that numbers no pattern, or no count of rows that R3 admits. -/
theorem loadRecord_rows_badValue (fits : recordFits b = true) (kind : byteAt b 1 = 0x21)
    (out : patternOf (byteAt b 4) = none ∨ byteAt b 5 = 0 ∨ 4 < byteAt b 5) : loadRecord c e b = .error .badValue := by
  have number : byteAt b 4 = 0 ∨ 4 < byteAt b 4 ∨ byteAt b 5 = 0 ∨ 4 < byteAt b 5
      ∨ (rawRowsOf (b.drop 6) (byteAt b 5)).length ≠ byteAt b 5 := by
    rw [patternOf_eq_none] at out
    tauto
  rw [loadRecord_rows fits kind, Setup.writeRows_badValue number]
  rfl

theorem loadRecord_rows_empty (fits : recordFits b = true) (kind : byteAt b 1 = 0x21)
    (named : patternOf (byteAt b 4) = some i) (low : 1 ≤ byteAt b 5) (high : byteAt b 5 ≤ 4) (empty : c.patterns[i] = none) :
    loadRecord c e b = .error .noPattern := by
  rw [loadRecord_rows fits kind, Setup.writeRows_eq named low high (rawRowsOf_length _ _), empty]
  rfl

/-- One for a pattern in use, by what the pattern and its own rows are. -/
theorem loadRecord_rows_used (fits : recordFits b = true) (kind : byteAt b 1 = 0x21)
    (named : patternOf (byteAt b 4) = some i) (low : 1 ≤ byteAt b 5) (high : byteAt b 5 ≤ 4)
    (used : c.patterns[i] = some x) :
    loadRecord c e b =
      if x.complete = true then .error .patternComplete
      else if rowsFault x.count [] 1 (rawRowsOf (b.drop 6) (byteAt b 5)) ≠ none then .error .badRow
      else .ok (c.setPattern i (some (x.withRows (rawRowsOf (b.drop 6) (byteAt b 5)))) c.freeRows, e) := by
  rw [loadRecord_rows fits kind, Setup.writeRows_eq named low high (rawRowsOf_length _ _), used]
  dsimp only
  cases x.complete with
  | true => rfl
  | false => cases rowsFault x.count [] 1 (rawRowsOf (b.drop 6) (byteAt b 5)) <;> rfl

/-- A TABLE WRITE record is taken on the load set. -/
theorem loadRecord_table {selector : Nat} (fits : recordFits b = true) (own : recordIs b 0x28 selector) :
    loadRecord c e b = (loadTable e.loadSet selector b).map fun t => (c, { e with loadSet := t }) := by
  obtain ⟨kind, selector⟩ := own
  simp only [loadRecord, fits, kind, selector]
  cases loadTable e.loadSet _ b <;> rfl

theorem loadRecord_table_refused {selector : Nat} {r : Reason} (fits : recordFits b = true)
    (own : recordIs b 0x28 selector) (refused : loadTable e.loadSet selector b = .error r) :
    loadRecord c e b = .error r := by
  rw [loadRecord_table fits own, refused]
  rfl

theorem loadRecord_table_loads {selector : Nat} (fits : recordFits b = true) (own : recordIs b 0x28 selector)
    (loads : loadTable e.loadSet selector b = .ok t) : loadRecord c e b = .ok (c, { e with loadSet := t }) := by
  rw [loadRecord_table fits own, loads]
  rfl

/-- An UNLOCK record marks the load set. -/
theorem loadRecord_unlock (fits : recordFits b = true) (kind : byteAt b 1 = 0x6A) :
    loadRecord c e b = .ok (c, { e with unlock := true }) := by
  simp only [loadRecord, fits, kind]
  rfl

end Records

/-! ### The tables of the load set (R188) -/

section LoadSet

variable {b : List Byte} {t : Tables}

/-- Another zone's entry names the same slot and channel (R101 check 4). -/
theorem zoneTaken_iff {v : Vector (Option ZoneMap) 8} {z : ZoneId} {m : Option ZoneMap} :
    zoneTaken v z m = true ↔ m ≠ none ∧ ∃ x : ZoneId, x ≠ z ∧ v[x] = m := by
  simp [zoneTaken, Option.isSome_iff_ne_none, mem_allZones]

theorem loadTable_timing : loadTable t 1 b =
    (writeTiming t.timing (byteAt b 4) (halfAt b 5 * 65536 + halfAt b 7)).map fun v => { t with timing := v.2 } := by
  unfold loadTable
  cases writeTiming t.timing (byteAt b 4) (halfAt b 5 * 65536 + halfAt b 7) <;> rfl

theorem loadTable_timing_refused {r : Reason}
    (refused : writeTiming t.timing (byteAt b 4) (halfAt b 5 * 65536 + halfAt b 7) = .error r) :
    loadTable t 1 b = .error r := by
  rw [loadTable_timing, refused]
  rfl

theorem loadTable_timing_good {i : TimingEntry} {v : Vector Nat 12}
    (written : writeTiming t.timing (byteAt b 4) (halfAt b 5 * 65536 + halfAt b 7) = .ok (i, v)) :
    loadTable t 1 b = .ok { t with timing := v } := by
  rw [loadTable_timing, written]
  rfl

theorem loadTable_slot_none (bad : slotEntryOf (byteAt b 4) (byteAt b 5) (byteAt b 6) = none) :
    loadTable t 2 b = .error .badValue := by
  rw [loadTable, bad]

theorem loadTable_slot_some {i : SlotId} {v : SlotEntry}
    (entry : slotEntryOf (byteAt b 4) (byteAt b 5) (byteAt b 6) = some (i, v)) :
    loadTable t 2 b = .ok { t with slots := t.slots.set i v } := by
  rw [loadTable, entry]

theorem loadTable_zone_none (bad : zoneEntryOf (byteAt b 4) (byteAt b 5) (byteAt b 6) = none) :
    loadTable t 3 b = .error .badValue := by
  rw [loadTable, bad]

theorem loadTable_zone_some {z : ZoneId} {v : Option ZoneMap}
    (entry : zoneEntryOf (byteAt b 4) (byteAt b 5) (byteAt b 6) = some (z, v)) :
    loadTable t 3 b = if zoneTaken t.zones z v then .error .badValue else .ok { t with zones := t.zones.set z v } := by
  rw [loadTable, entry]

theorem loadTable_lane_none
    (bad : laneEntryOf (byteAt b 4) (byteAt b 5) (byteAt b 6) (byteAt b 7) (byteAt b 8) = none) :
    loadTable t 4 b = .error .badValue := by
  rw [loadTable, bad]

theorem loadTable_lane_some {i : LaneId} {v : LaneEntry}
    (entry : laneEntryOf (byteAt b 4) (byteAt b 5) (byteAt b 6) (byteAt b 7) (byteAt b 8) = some (i, v)) :
    loadTable t 4 b = if laneTaken t.lanes i v then .error .badValue else .ok { t with lanes := t.lanes.set i v } := by
  rw [loadTable, entry]

theorem loadTable_budget : loadTable t 5 b =
    if 1 ≤ byteAt b 4 ∧ byteAt b 4 ≤ 15 then .ok { t with budget := byteAt b 4 } else .error .badValue := by
  simp only [loadTable, budgetOk, within_eq_true]

end LoadSet

/-! ### The zones and lanes at the end of a preload (R112, R95, R98) -/

section Ends

variable {c : Setup} {l : Live} {s : State} {t : Tables} {i j : LaneId}

/-- The entries of a list of zones forgotten. -/
def Live.forgetZones (zones : List ZoneId) (l : Live) : Live := zones.foldl (fun l z => l.forgetZone z) l

theorem Live.forgetZones_keeps {α : Type} (f : Live → α) (same : ∀ (l : Live) (z : ZoneId), f (l.forgetZone z) = f l)
    (zones : List ZoneId) : f (l.forgetZones zones) = f l :=
  List.foldlRecOn (motive := fun m => f m = f l) zones _ rfl fun m kept z _ => (same m z).trans kept

theorem Live.forgetZones_zone (zones : List ZoneId) (z : ZoneId) : (l.forgetZones zones).zones[z] =
    if z ∈ zones then { state := .unknown, expected := false } else l.zones[z] := by
  unfold Live.forgetZones
  induction zones generalizing l with
  | nil => rfl
  | cons y zones ih =>
    rw [List.foldl_cons, ih, Live.forgetZone_zones, vmod_get]
    by_cases later : z ∈ zones
    · rw [if_pos later, if_pos (List.mem_cons_of_mem _ later)]
    · simp only [List.mem_cons, later, or_false, if_false]

theorem mem_changedZones {old new : Tables} {z : ZoneId} : z ∈ changedZones old new ↔ old.zones[z] ≠ new.zones[z] := by
  simp [changedZones, mem_allZones]

theorem Live.heaterGone_iff : l.heaterGone c i = true ↔
    ∃ j, c.tables.lanes[i].slot = some j ∧ l.slots[j].state.joined = false := by
  unfold Live.heaterGone
  cases c.tables.lanes[i].slot <;> simp

/-- A lane without its free rivets. -/
def Lane.weeded (x : Lane) : Lane := { x with stock := x.stock.filter fun r => r.tag.isSome }

theorem Live.dropFree_lane : (l.dropFree j).lanes[i] = if i = j then l.lanes[i].weeded else l.lanes[i] := by
  refine (vmod_get _ _ _ _).trans ?_
  by_cases same : i = j
  · rw [if_pos same, if_pos same, same]
    rfl
  · rw [if_neg same, if_neg same]

theorem Live.weedStock_lane : (l.weedStock c j).lanes[i] =
    if i = j ∧ l.heaterGone c i = true then l.lanes[i].weeded else l.lanes[i] := by
  unfold Live.weedStock
  by_cases gone : l.heaterGone c j = true
  · rw [if_pos gone, Live.dropFree_lane]
    by_cases same : i = j
    · subst same
      rw [if_pos rfl, if_pos ⟨rfl, gone⟩]
    · rw [if_neg same, if_neg fun k => same k.1]
  · rw [if_neg gone, if_neg]
    rintro ⟨rfl, k⟩
    exact gone k

/-- Weeding both lanes weeds each of them that has lost its heater. -/
theorem Live.weedStocks_lane : ((l.weedStock c 0).weedStock c 1).lanes[i] =
    if l.heaterGone c i = true then l.lanes[i].weeded else l.lanes[i] := by
  have gone : (l.weedStock c 0).heaterGone c i = l.heaterGone c i := by
    unfold Live.heaterGone
    rw [Live.weedStock_slots]
  rw [Live.weedStock_lane, Live.weedStock_lane, gone]
  by_cases first : i = 0
  · subst first
    simp
  · cases Fin.eq_one_of_ne_zero i first
    simp

/-- The live state as the tables of a preload come into force, before the examination. -/
def Live.retabled (old : Tables) (c : Setup) (l : Live) : Live :=
  ((l.forgetZones (changedZones old c.tables)).weedStock c 0).weedStock c 1

/-- The taking at the end of a preload: a changed zone starts an examination (R35). -/
def Taking.preloaded (old : Tables) (c : Setup) (l : Live) : Taking :=
  if (changedZones old c.tables).isEmpty then .start (l.retabled old c) else (Taking.start (l.retabled old c)).wakeGate

theorem Taking.preloaded_live (old : Tables) : (Taking.preloaded old c l).live = l.retabled old c := by
  unfold Taking.preloaded
  split <;> rfl

theorem Live.retabled_zone (old : Tables) (z : ZoneId) : (l.retabled old c).zones[z] =
    if old.zones[z] = c.tables.zones[z] then l.zones[z] else { state := .unknown, expected := false } := by
  simp only [Live.retabled, Live.weedStock_zones, Live.forgetZones_zone, mem_changedZones, ne_eq, ite_not]

theorem Live.retabled_lane (old : Tables) : (l.retabled old c).lanes[i] =
    if ∃ j, c.tables.lanes[i].slot = some j ∧ l.slots[j].state.joined = false then l.lanes[i].weeded
    else l.lanes[i] := by
  have slots : (l.forgetZones (changedZones old c.tables)).slots = l.slots := Live.forgetZones_keeps _ (fun _ _ => rfl) _
  have lanes : (l.forgetZones (changedZones old c.tables)).lanes = l.lanes := Live.forgetZones_keeps _ (fun _ _ => rfl) _
  rw [Live.retabled, Live.weedStocks_lane]
  simp only [Live.heaterGone_iff, slots, lanes]

theorem Live.retabled_notices (old : Tables) : (l.retabled old c).notices = l.notices := by
  rw [Live.retabled, Live.weedStock_notices, Live.weedStock_notices]
  exact Live.forgetZones_keeps Live.notices (fun _ _ => rfl) _

/-- The setup that a preload leaves (R189). -/
def Setup.preloaded (st : PreloadState) (t : Tables) (lock : Bool) (c : Setup) : Setup :=
  { c with preload := st, engine := none, tables := t, lockout := lock }

theorem State.endPreload_eq (st : PreloadState) (lock : Bool) : s.endPreload st t lock =
    settled { s with setup := s.setup.preloaded st t lock }
      (.preloaded s.setup.tables (s.setup.preloaded st t lock) s.live) := rfl

/-- The end of a preload posts nothing of itself. -/
theorem State.endPreload_notices (st : PreloadState) (lock : Bool) :
    (s.endPreload st t lock).live.notices = s.live.notices := by
  rw [State.endPreload_eq]
  refine (Taking.finish_examined _ _).notices.trans ?_
  rw [Taking.preloaded_live, Live.retabled_notices]

theorem State.failPreload_notice (position : Nat) (r : Reason) :
    (s.failPreload position r).live.notices[noticeIndex 0 .fault] = some
      (postedEntry .preloadFailed (.record position r) s.live.notices[noticeIndex 0 .fault]) := by
  refine (vmod_get_self _ _ _).trans ?_
  rw [State.endPreload_notices]
  rfl

end Ends

/-! ### The steps of a preload (R187 to R189) -/

section Steps

variable {s : State} {e : Engine} {addr left position : Nat} {crc want : BitVec 16}

theorem preload_idle (idle : s.setup.engine = none) {i : Instr}
    (step : i = .preloadHeaderRead ∨ i = .preloadRecord ∨ i = .preloadEnd) : exec i s = .next s := by
  obtain rfl | rfl | rfl := step
  all_goals simp only [exec, execPreloadHeaderRead, execPreloadRecord, execPreloadEnd, event, idle, ite_self]

section Header

variable (free : s.setup.resetHeld = false) (engine : s.setup.engine = some e) (phase : e.phase = .header)

include free engine phase

theorem preloadHeaderRead_waits (writing : s.setup.store.writing.isSome = true) :
    exec .preloadHeaderRead s = .next s := by
  simp only [exec, execPreloadHeaderRead, event_taken free, engine, phase, writing, if_true]

theorem preloadHeaderRead_reads (idle : s.setup.store.writing = none) :
    exec .preloadHeaderRead s = .next (s.readHeader e) := by
  simp only [exec, execPreloadHeaderRead, event_taken free, engine, phase, idle]
  rfl

theorem preloadRecord_early : exec .preloadRecord s = .next s := by
  simp only [exec, execPreloadRecord, event_taken free, engine, phase]

theorem preloadEnd_early : exec .preloadEnd s = .next s := by
  simp only [exec, execPreloadEnd, event_taken free, engine, phase]

end Header

section Running

variable (free : s.setup.resetHeld = false) (engine : s.setup.engine = some e)
  (phase : e.phase = .records addr left position crc want)

include free engine phase

theorem preloadHeaderRead_late : exec .preloadHeaderRead s = .next s := by
  simp only [exec, execPreloadHeaderRead, event_taken free, engine, phase]

theorem preloadRecord_eq : exec .preloadRecord s =
    .next (if left = 0 then s else s.readRecord e addr left position crc want) := by
  simp only [exec, execPreloadRecord, event_taken free, engine, phase]

theorem preloadEnd_eq : exec .preloadEnd s = .next (if left ≠ 0 then s
    else if crc ≠ want then s.failPreload 0 .badImage else s.endPreload .done e.loadSet (!e.unlock)) := by
  simp only [exec, execPreloadEnd, event_taken free, engine, phase]

end Running

/-- The records follow a header (R187). -/
def Engine.reading (m : Store) (e : Engine) : Engine :=
  { e with phase := .records 262 (m.half 258) 1 0xFFFF#16 (BitVec.ofNat 16 (m.half 260)) }

/-- The header by its signature and its length (R187). -/
theorem State.readHeader_eq : s.readHeader e =
    if ¬ (s.setup.store.byte 256 = 0x5A ∧ s.setup.store.byte 257 = 0xC3) then
      s.endPreload .noImage e.loadSet s.setup.strap
    else if 7930 < s.setup.store.half 258 then s.failPreload 0 .badImage
    else { s with setup := { s.setup with engine := some (e.reading s.setup.store) } } := by
  simp only [not_and_or]
  rfl

/-- A record whose length byte is out of range, or passes the end of the image (R188). -/
theorem State.readRecord_badImage
    (out : (s.setup.store.byte addr).toNat < 4 ∨ 64 < (s.setup.store.byte addr).toNat
      ∨ left < (s.setup.store.byte addr).toNat) :
    s.readRecord e addr left position crc want = s.failPreload 0 .badImage := if_pos out

section Sized

variable {n : Nat} (size : (s.setup.store.byte addr).toNat = n) (low : 4 ≤ n) (high : n ≤ 64) (room : n ≤ left)

include size low high room

theorem State.readRecord_refused {r : Reason}
    (refused : loadRecord s.setup e (s.setup.store.bytes addr n) = .error r) :
    s.readRecord e addr left position crc want = s.failPreload position r := by
  have inRange : ¬ (n < 4 ∨ 64 < n ∨ left < n) := by omega
  subst size
  unfold readRecord
  simp only [if_neg inRange, refused]

theorem State.readRecord_taken {c : Setup} {f : Engine}
    (taken : loadRecord s.setup e (s.setup.store.bytes addr n) = .ok (c, f)) :
    s.readRecord e addr left position crc want = { s with setup := { c with engine := some { f with
      phase := .records (addr + n) (left - n) (position + 1) (crcFrom crc (s.setup.store.bytes addr n)) want } } } := by
  have inRange : ¬ (n < 4 ∨ 64 < n ∨ left < n) := by omega
  subst size
  unfold readRecord
  simp only [if_neg inRange, taken]

end Sized

end Steps

/-- Settles O58: a step out of its turn, then a record by its kind, then the steps and the ends by the phase they find. -/
theorem preload : Obligations.Preload := by
  refine ⟨fun s idle i step => preload_idle idle step, fun c e b => ?_, fun e s free engine => ?_⟩
  · intro kind selector is refused loads t fits
    have fit : fits → recordFits b = true := recordFits_iff.2
    refine ⟨fun open_ rows table unlock => loadRecord_unknown ?_,
      fun known misfit => loadRecord_misfit known (mt recordFits_iff.1 misfit),
      fun k own => ⟨loadRecord_open_badValue (fit k) own, fun i named low high => ?_⟩,
      fun k own => ⟨loadRecord_rows_badValue (fit k) own, fun i named low high =>
        ⟨loadRecord_rows_empty (fit k) own named low high, fun x used => ?_⟩⟩,
      fun k own => ?_, fun k own => ?_, fun k own => ?_, fun k own => ?_, fun k own => ?_,
      fun k own => loadRecord_unlock (fit k) own⟩
    · rintro (k | k | k | k)
      exacts [open_ k, rows k, table k, unlock k]
    · have opened := loadRecord_open_eq (c := c) (e := e) (fit k) own named low high
      exact ⟨fun used => opened.trans (if_pos used),
        fun empty full => opened.trans ((if_neg (not_not_intro empty)).trans (if_pos full)),
        fun empty room => opened.trans ((if_neg (not_not_intro empty)).trans (if_neg (Nat.not_lt.2 room)))⟩
    · have written := loadRecord_rows_used (c := c) (e := e) (fit k) own named low high used
      exact ⟨fun complete => written.trans (if_pos complete),
        fun loading fails => written.trans ((if_neg (Bool.eq_false_iff.1 loading)).trans (if_pos fails)),
        fun loading passes =>
          written.trans ((if_neg (Bool.eq_false_iff.1 loading)).trans (if_neg (not_not_intro passes)))⟩
    · exact ⟨fun unknown => loadRecord_table_refused (fit k) own (loadTable_timing_refused (writeTiming_unknown unknown)),
        fun i named =>
          ⟨fun bad => loadRecord_table_refused (fit k) own (loadTable_timing_refused (writeTiming_bad named bad)),
          fun good => loadRecord_table_loads (fit k) own (loadTable_timing_good (writeTiming_good named good))⟩⟩
    · exact ⟨fun bad => loadRecord_table_refused (fit k) own (loadTable_slot_none bad),
        fun i v entry => loadRecord_table_loads (fit k) own (loadTable_slot_some entry)⟩
    · refine ⟨fun bad => loadRecord_table_refused (fit k) own (loadTable_zone_none bad), fun z v entry => ?_⟩
      have written := loadTable_zone_some (t := t) entry
      exact ⟨fun twice => loadRecord_table_refused (fit k) own (written.trans (if_pos (zoneTaken_iff.2 twice))),
        fun once => loadRecord_table_loads (fit k) own (written.trans (if_neg (mt zoneTaken_iff.1 once)))⟩
    · refine ⟨fun bad => loadRecord_table_refused (fit k) own (loadTable_lane_none bad), fun i v entry => ?_⟩
      have written := loadTable_lane_some (t := t) entry
      exact ⟨fun twice => loadRecord_table_refused (fit k) own (written.trans (if_pos (laneTaken_iff.2 twice))),
        fun once => loadRecord_table_loads (fit k) own (written.trans (if_neg (mt laneTaken_iff.1 once)))⟩
    · exact ⟨fun out => loadRecord_table_refused (fit k) own (loadTable_budget.trans (if_neg (by omega))),
        fun low high => loadRecord_table_loads (fit k) own (loadTable_budget.trans (if_pos ⟨low, high⟩))⟩
  · intro m number signed
    refine ⟨fun header => ⟨preloadRecord_early free engine header, preloadEnd_early free engine header,
        preloadHeaderRead_waits free engine header⟩,
      fun header idle => ?_, fun addr left position crc want running => ?_,
      fun st t lock => ⟨_, State.endPreload_eq st lock, fun z => ?_, fun i => ?_⟩,
      fun position r => ⟨rfl, State.failPreload_notice position r⟩⟩
    · rw [preloadHeaderRead_reads free engine header idle, State.readHeader_eq]
      refine ⟨fun unsigned => congrArg _ (if_pos unsigned), fun signed long => ?_, fun signed fits => ?_⟩
      · exact congrArg _ ((if_neg (not_not_intro signed)).trans (if_pos long))
      · exact congrArg _ ((if_neg (not_not_intro signed)).trans (if_neg (Nat.not_lt.2 fits)))
    · intro n
      rw [preloadHeaderRead_late free engine running, preloadRecord_eq free engine running,
        preloadEnd_eq free engine running]
      refine ⟨rfl, fun last => congrArg _ (if_pos last), fun more => congrArg _ (if_pos more.ne'), fun more out => ?_,
        fun more low high room => ⟨fun r refused => ?_, fun c' e' taken => ?_⟩, fun last differs => ?_,
        fun last agrees => ?_⟩
      · rw [if_neg more.ne', State.readRecord_badImage out]
      · rw [if_neg more.ne', State.readRecord_refused rfl low high room refused]
      · rw [if_neg more.ne', State.readRecord_taken rfl low high room taken]
      · rw [if_neg (not_not_intro last), if_pos differs]
      · rw [if_neg (not_not_intro last), if_neg (not_not_intro agrees)]
    · rw [Taking.preloaded_live, Live.retabled_zone]
      rfl
    · rw [Taking.preloaded_live, Live.retabled_lane]
      exact ⟨fun gone => if_pos gone, fun stays => if_neg stays⟩

end Sys2Proof.Machine
end

section
/-! PROOFS. What a step takes (O1), and that every command answers a next state and leaves the queue alone (O2). -/

namespace Sys2Proof.Machine

/-! ### The step (log entry 1) -/

section Step

variable {s : State}

theorem step_front (i : Instr) (rest : List Instr) (s : State) :
    step { s with pending := i :: rest } = exec i { s with pending := rest } := rfl

theorem step_idle (empty : s.pending = []) : step s = idle s := by rw [step, empty]

theorem idle_due {i : Instr} (due : s.dueEvent = some i) : idle s = exec i s := by rw [idle, due]

theorem idle_undue (undue : s.dueEvent = none) : idle s = .next (s.elapse 1) := by rw [idle, undue]

end Step

/-- Settles O1: the front command, or with none waiting the first due event, or a millisecond. -/
theorem stepTakesFront : Obligations.StepTakesFront :=
  ⟨step_front, fun _ empty => ⟨fun _ due => (step_idle empty).trans (idle_due due),
    fun undue => (step_idle empty).trans (idle_undue undue)⟩⟩

/-! ### Changes that leave the queue alone -/

/-- A change of a state that leaves the queue of commands alone. -/
def KeepsQueue (take : State → State) : Prop := ∀ s : State, (take s).pending = s.pending

/-- A command's answer on a state: a next state, with the queue as it was. -/
def Proceeds (s : State) (r : Result) : Prop := ∃ t, r = .next t ∧ t.pending = s.pending

namespace KeepsQueue

variable {take : State → State} {s : State}

theorem cellMessage {form : ReplyForm} {h : Header} {exempt selOk lenOk lockable : Bool} (k : KeepsQueue take) :
    Proceeds s (cellMessage form h exempt selOk lenOk lockable take s) := by
  obtain ⟨t, answered, ends⟩ := cellMessage_ends form h exempt selOk lenOk lockable take s
  refine ⟨t, answered, ?_⟩
  obtain rfl | rfl | rfl | ⟨b, rfl⟩ | rfl := ends
  · rfl
  · rfl
  · rfl
  · rfl
  · exact k { s with live := s.live.closeFrame }

theorem manage {h : Header} {length : Nat} {lockable : Bool} (k : KeepsQueue take) :
    Proceeds s (manage h length lockable take s) := k.cellMessage

theorem tableWrite {h : Header} {selector length : Nat} (k : KeepsQueue take) :
    Proceeds s (tableWrite h selector length take s) := k.cellMessage

theorem modeMessage {h : Header} {selector : Nat} (k : KeepsQueue take) :
    Proceeds s (modeMessage h selector take s) := k.cellMessage

theorem query {h : Header} {selector length : Nat} (k : KeepsQueue take) :
    Proceeds s (query h selector length take s) := k.cellMessage

theorem headReport {slot : SlotId} {hs : Nat} (k : KeepsQueue take) : Proceeds s (headReport slot hs take s) := by
  obtain ⟨t, answered, ends⟩ := headReport_ends slot hs take s
  refine ⟨t, answered, ?_⟩
  obtain rfl | rfl | rfl := ends
  · rfl
  · rfl
  · exact k { s with live := s.live.headFrame slot hs }

theorem event (k : KeepsQueue take) : Proceeds s (event take s) := by
  obtain ⟨t, answered, rfl | rfl⟩ := event_ends take s
  · exact ⟨t, answered, rfl⟩
  · exact ⟨_, answered, k s⟩

end KeepsQueue

/-! ### The operations that choose between states -/

section Operations

variable (s : State)

theorem takeOrder_pending (m : OrderMsg) : (takeOrder m s).pending = s.pending := by
  unfold takeOrder
  split <;> rfl

theorem State.guardMoved_pending (before after : GuardState) : (s.guardMoved before after).pending = s.pending := by
  unfold State.guardMoved
  split
  · split <;> rfl
  · rfl
  · rfl

theorem State.latch_pending : s.latch.pending = s.pending := by
  unfold State.latch
  dsimp only
  split <;> rfl

theorem State.endStoreWrite_pending (w : StoreWrite) : (s.endStoreWrite w).pending = s.pending := by
  unfold State.endStoreWrite
  dsimp only
  split
  · split <;> rfl
  · rfl

theorem State.readHeader_pending (e : Engine) : (s.readHeader e).pending = s.pending := by
  unfold State.readHeader
  dsimp only
  split
  · rfl
  · split <;> rfl

theorem State.readRecord_pending (e : Engine) (addr left position : Nat) (crc want : BitVec 16) :
    (s.readRecord e addr left position crc want).pending = s.pending := by
  unfold State.readRecord
  dsimp only
  split
  · rfl
  · split <;> rfl

theorem State.placeRestartAnswer_pending : s.placeRestartAnswer.pending = s.pending := by
  unfold State.placeRestartAnswer
  split
  · split <;> rfl
  · rfl

theorem State.cellBytes_pending (bytes : List Byte) : (s.cellBytes bytes).pending = s.pending := by
  unfold State.cellBytes
  split <;> rfl

theorem State.abortedHeat_pending (slot : SlotId) : (s.abortedHeat slot).pending = s.pending := by
  unfold State.abortedHeat
  split
  · split <;> rfl
  · rfl

theorem State.clampReport_pending (slot : SlotId) (channel code : Nat) :
    (s.clampReport slot channel code).pending = s.pending := by
  unfold State.clampReport
  dsimp only
  split
  · rfl
  · split
    · rfl
    · split
      · split <;> rfl
      · rfl

end Operations

/-! ### The commands by their envelopes -/

section Commands

variable {s : State}

theorem orderMessage_proceeds {h : Header} {length : Nat} {m : OrderMsg} : Proceeds s (orderMessage h length m s) :=
  KeepsQueue.cellMessage fun s => takeOrder_pending s m

theorem stageExpiry_proceeds {slot : SlotId} {p : TimedStage → Bool} {take : Setup → TimedStage → Taking → Taking} :
    Proceeds s (stageExpiry slot p take s) := by
  refine KeepsQueue.event fun s => ?_
  split
  · rfl
  · split <;> rfl

theorem execGuardChannelChange_proceeds (ch : Channel) (v : Level) : Proceeds s (execGuardChannelChange ch v s) := by
  unfold execGuardChannelChange
  dsimp only
  split
  · exact ⟨_, rfl, rfl⟩
  · split
    · exact ⟨_, rfl, rfl⟩
    · exact ⟨_, rfl, State.guardMoved_pending _ _ _⟩

theorem execStoreWriteEnd_proceeds : Proceeds s (execStoreWriteEnd s) := by
  unfold execStoreWriteEnd
  split
  · exact ⟨s, rfl, rfl⟩
  next w _ => exact ⟨_, rfl, s.endStoreWrite_pending w⟩

theorem execResetPinRelease_proceeds : Proceeds s (execResetPinRelease s) := by
  unfold execResetPinRelease
  split
  · exact ⟨_, rfl, s.takeReset_pending .pin⟩
  · exact ⟨s, rfl, rfl⟩

theorem execTableWriteSlot_proceeds (h : Header) (slot kind home : Nat) :
    Proceeds s (execTableWriteSlot h slot kind home s) := by
  refine KeepsQueue.tableWrite fun s => ?_
  split
  · rfl
  · dsimp only
    split <;> rfl

theorem execTableWriteZone_proceeds (h : Header) (zone slot channel : Nat) :
    Proceeds s (execTableWriteZone h zone slot channel s) := by
  refine KeepsQueue.tableWrite fun s => ?_
  split
  · rfl
  · split
    · rfl
    · split
      · rfl
      · dsimp only
        split <;> rfl

theorem execRestart_proceeds (h : Header) : Proceeds s (execRestart h s) := by
  refine KeepsQueue.manage fun s => ?_
  split
  · rfl
  · exact State.placeRestartAnswer_pending _

theorem execCellSentEvent_proceeds : Proceeds s (execCellSentEvent s) := by
  refine KeepsQueue.event fun s => ?_
  split
  · rfl
  · split
    · rfl
    · exact State.placeRestartAnswer_pending _

theorem execPreloadHeaderRead_proceeds : Proceeds s (execPreloadHeaderRead s) := by
  refine KeepsQueue.event fun s => ?_
  split
  · rfl
  · split
    · rfl
    · split
      · rfl
      · exact s.readHeader_pending _

theorem execPreloadRecord_proceeds : Proceeds s (execPreloadRecord s) := by
  refine KeepsQueue.event fun s => ?_
  split
  · rfl
  · split
    · rfl
    · split
      · rfl
      · exact s.readRecord_pending _ _ _ _ _ _

theorem execDiscrepancyExpiry_proceeds : Proceeds s (execDiscrepancyExpiry s) := by
  refine KeepsQueue.event fun s => ?_
  split
  · rfl
  · exact State.latch_pending _

theorem execDamagedFrame_proceeds (link : LinkId) (bytes : List Byte) : Proceeds s (execDamagedFrame link bytes s) := by
  refine KeepsQueue.event fun s => ?_
  split
  · rfl
  · split
    · exact s.cellBytes_pending bytes
    · rfl

theorem execAbortedNone_proceeds (slot : SlotId) (hs tag : Nat) : Proceeds s (execAbortedNone slot hs tag s) := by
  refine KeepsQueue.headReport fun s => ?_
  split
  · exact s.abortedHeat_pending slot
  · split
    · rfl
    · split <;> rfl

theorem execAbortedPartial_proceeds (slot : SlotId) (hs tag : Nat) : Proceeds s (execAbortedPartial slot hs tag s) := by
  refine KeepsQueue.headReport fun s => ?_
  split
  · exact s.abortedHeat_pending slot
  · split
    · rfl
    · split <;> rfl

/-- The PROTOCOL of code 0 comes first (R128), so the fault is taken of the state with it or of the state without. -/
theorem execFault_proceeds (slot : SlotId) (hs code : Nat) : Proceeds s (execFault slot hs code s) := by
  refine KeepsQueue.headReport fun s => ?_
  have recorded : (if code = 0 then s.protocol slot else s).pending = s.pending := by split <;> rfl
  dsimp only
  generalize (if code = 0 then s.protocol slot else s) = u at recorded ⊢
  split
  · exact recorded
  · split <;> exact recorded

end Commands

/-- Every command answers a next state, with the queue as it was. -/
theorem exec_proceeds (i : Instr) (s : State) : Proceeds s (exec i s) := by
  unfold exec
  cases i
  case drill | ream | setRivet | heat | clamp | unclamp | park => exact orderMessage_proceeds
  case acceptStageExpiry | runStageExpiry | travelStageExpiry | graceStageExpiry | abortStageExpiry =>
    exact stageExpiry_proceeds
  -- no envelope weighs these
  case powerUp => exact ⟨_, rfl, s.takeReset_pending .power⟩
  case resetPinHeld => exact ⟨_, rfl, rfl⟩
  case resetPinRelease => exact execResetPinRelease_proceeds
  case storeWriteEnd => exact execStoreWriteEnd_proceeds
  case guardChannelChange => exact execGuardChannelChange_proceeds _ _
  -- these hand the state to an operation that chooses, or that binds what it read before it chooses
  case tableWriteSlot => exact execTableWriteSlot_proceeds _ _ _ _
  case tableWriteZone => exact execTableWriteZone_proceeds _ _ _ _
  case restart => exact execRestart_proceeds _
  case cellSentEvent => exact execCellSentEvent_proceeds
  case startDelimiter => exact KeepsQueue.event fun s => s.cellBytes_pending _
  case damagedFrame => exact execDamagedFrame_proceeds _ _
  case preloadHeaderRead => exact execPreloadHeaderRead_proceeds
  case preloadRecord => exact execPreloadRecord_proceeds
  case discrepancyExpiry => exact execDiscrepancyExpiry_proceeds
  case abortedNone => exact execAbortedNone_proceeds _ _ _
  case abortedPartial => exact execAbortedPartial_proceeds _ _ _
  case fault => exact execFault_proceeds _ _ _
  case clampState => exact KeepsQueue.event fun s => State.clampReport_pending _ _ _ _
  -- in what remains, envelope by envelope, every branch replaces the setup or the live state and nothing else
  case cancel | storeWrite | unknownKind =>
    refine KeepsQueue.cellMessage fun s => ?_
    repeat' split
    all_goals rfl
  case patternOpen | patternRows | patternDelete | frameBegin | frameEnd | frameAbandon | holeRework | slotClear | slotRelease
      | lampSet | noticeTake | storeRead | reload | unlock =>
    refine KeepsQueue.manage fun s => ?_
    repeat' split
    all_goals rfl
  case tableWriteTiming | tableWriteLane | tableWritePump =>
    refine KeepsQueue.tableWrite fun s => ?_
    repeat' split
    all_goals rfl
  case modeRun | modeHold | modeResume =>
    refine KeepsQueue.modeMessage fun s => ?_
    repeat' split
    all_goals rfl
  case queryStatus | queryHole | queryOrder | querySlot | queryRail | queryLane | queryZone | queryPump | queryLink
      | queryTable | queryPattern =>
    refine KeepsQueue.query fun s => ?_
    repeat' split
    all_goals rfl
  case hello | accept | done | arrived | leverOpen | leverClosed =>
    refine KeepsQueue.headReport fun s => ?_
    repeat' split
    all_goals rfl
  case holdoffDiscard | restartDiscardedFrame | preloadEnd | headLinkHoldEnd | linkUp | linkDown | lineActivity
      | headMessageSetAside | headSentEvent | rivetExpiryUnassigned | rivetExpiryAssigned | cadenceExpiry | claimStarved =>
    refine KeepsQueue.event fun s => ?_
    repeat' split
    all_goals rfl

/-! ### Every step -/

theorem step_next (s : State) : ∃ t, step s = .next t := by
  have executed (i : Instr) (u : State) : ∃ t, exec i u = .next t := by
    obtain ⟨t, next, -⟩ := exec_proceeds i u
    exact ⟨t, next⟩
  cases queue : s.pending with
  | cons i rest =>
    rw [step, queue]
    exact executed i { s with pending := rest }
  | nil =>
    rw [step_idle queue]
    cases due : s.dueEvent with
    | some i =>
      rw [idle_due due]
      exact executed i s
    | none => exact ⟨_, idle_undue due⟩

/-- Settles O2: every command comes out of its envelope with a next state, and none writes the queue. -/
theorem nothingStops : Obligations.NothingStops := ⟨exec_proceeds, step_next⟩

end Sys2Proof.Machine
end
